-- ==== Sys2Proof/Word.lean ====
section
/-! DEFINITION. The word types of the PZ8 and the triplicated field (R427). -/

namespace Sys2Proof

/-- One byte of a packet or of memory. -/
abbrev Byte := BitVec 8

/-- One 32-bit register or memory word. -/
abbrev Word := BitVec 32

/-- One 64-bit value: timestamps, head IDs, OTP rows. -/
abbrev DWord := BitVec 64

/-- A critical field, stored in three copies (R427). -/
structure Tv (n : Nat) where
  a : BitVec n
  b : BitVec n
  c : BitVec n
  deriving DecidableEq, Repr

/-- A write writes all three copies together (R427). -/
def Tv.mk3 {n : Nat} (v : BitVec n) : Tv n := ⟨v, v, v⟩

/-- A read returns the bitwise majority of the copies (R427). -/
def Tv.val {n : Nat} (t : Tv n) : BitVec n := (t.a &&& t.b) ||| (t.a &&& t.c) ||| (t.b &&& t.c)

/-- The copies disagree (R427). -/
def Tv.split {n : Nat} (t : Tv n) : Bool := !(t.a == t.b && t.b == t.c)

end Sys2Proof
end

