-- ==== Sys2Proof/Syntax.lean ====
section
/-! DEFINITION. The commands of the PZ8: one constructor per row of spec/opcode_table.json, with its operands. -/

namespace Sys2Proof

/-- Where a packet came from (Table 5.7). -/
inductive Via where
  | pcie (q : Fin 256)
  | udp (ip : Word) (port : BitVec 16)
  | spi
  deriving DecidableEq, Repr

/-- A packet as Table 5.1 lays it out. `payload` is everything between the 24 header bytes and the CRC:
the parameters and, when Flags.Mac is set, the 16-byte MAC. `epoch` is the field of the UDP header (Table 5.15),
0 elsewhere; `replyLen` and `replyAddr` are those of the SQ slot (Table 5.13). -/
structure Packet where
  via : Via
  version : Byte := 8
  flags : Byte := 0
  session : BitVec 16
  seq : Word
  opcode : Byte := 0
  variant : Byte := 0
  length : BitVec 16
  status : Word := 0
  tag : DWord := 0
  payload : List Byte
  crc : Word
  epoch : Word := 0
  replyLen : BitVec 16 := 4096
  replyAddr : DWord := 0
  deriving DecidableEq, Repr

/-- A register master (R423, R429). -/
inductive Master where
  | cp | pf0 | pf1 | spi
  deriving DecidableEq, Repr

/-- What the supplies, straps, memory tests, links and the patch check show at a cold start (Tables 2.5, 4.5, 4.6).
`bistFail` and `tineFail` name dies (0 hub, 1 to 7 for F0 to F6). `patch` is the level of the verified patch,
none when there is none or verification failed. `epoch` is the random UDP epoch (R127). -/
structure ColdStart where
  mgmtSec : Bool
  hostIf : BitVec 2
  packageP65 : Bool
  orderBroken : Bool
  bistFail : List (Fin 8)
  tineFail : List (Fin 8)
  patch : Option (BitVec 16)
  patchRejected : Bool
  cache0 : BitVec 16
  cache1 : BitVec 16
  epoch : Word
  deriving DecidableEq, Repr

/-- What a warm start finds (Table 4.7). `ids` are the head IDs read again, by gp. -/
structure WarmStart where
  shadowOk : Bool
  linksDown : List (Fin 8)
  patch : Option (BitVec 16)
  patchRejected : Bool
  ids : List (Fin 112 × DWord)
  deriving DecidableEq, Repr

/-- A 32-byte SQ slot as the PZ8 reads it from host memory (Table 5.13). -/
structure SqSlot where
  packetAddr : DWord
  packetLen : BitVec 16
  replyLen : BitVec 16
  replyAddr : DWord
  deriving DecidableEq, Repr

/-- A received Ethernet frame, as far as R126 and R127 look at it. -/
inductive EthFrame where
  /-- An ARP request for an IPv4 address. -/
  | arp (ip : Word)
  /-- An ICMP echo request to an IPv4 address. -/
  | icmpEcho (ip : Word)
  /-- UDP, no fragment and no VLAN tag: destination address, source address, Ethernet source address, ports, whether
  a non-zero UDP checksum is wrong, and the payload behind the UDP header. -/
  | udp (dst src : Word) (srcMac : BitVec 48) (srcPort dstPort : BitVec 16) (badChecksum : Bool) (payload : List Byte)
  /-- Fragments, VLAN-tagged frames, IPv6, DHCP and everything else. -/
  | other
  deriving DecidableEq, Repr

/-- A block whose posted write a MEM_BUSY bit tracks (that of `otp` is OTP_CMD), or OTP_LOCK, which none tracks
(R431). -/
inductive Block where
  | die (f : Fin 7)
  | motion
  | position
  | ethernet
  | otp
  | otpLock
  deriving DecidableEq, Repr

/-- The state of one physical fault input (Table 16.7). -/
inductive FaultInput where
  | head (gp : Fin 112)
  | gate (axis : Fin 4)
  | gpio (g : Fin 16)
  | estop
  deriving DecidableEq, Repr

/-- The levels that a channel's receivers A and B show. -/
structure Levels where
  a : Bool
  b : Bool
  deriving DecidableEq, Repr

/-- How an edge of a step-and-direction channel came: with B unstable around it, or too close to the one before (R312). -/
structure StepFlaws where
  unstable : Bool
  close : Bool
  deriving DecidableEq, Repr

/-- A new level of a channel's receiver Z. -/
structure ZLevel where
  ch : Fin 4
  z : Bool
  deriving DecidableEq, Repr

/-- An outstanding read of a DMA channel, by its place in the order of issue. -/
structure ReadTag where
  c : Fin 32
  read : BitVec 9
  deriving DecidableEq, Repr

/-- How a host-memory or job-cache read ended (R238): with its data, and as many single-bit errors of the job cache
corrected in them; with Completer Abort or poisoned data; with two bits in error in the job cache; with Unsupported
Request. -/
inductive ReadEnd where
  | data (bytes : List Byte) (corrected : BitVec 16)
  | abort
  | cacheEcc
  | unsupported
  deriving DecidableEq, Repr

/-- How the zero-length read of a FENCE over host writes ended (R237, R238). -/
inductive FenceEnd where
  | ok
  | abort
  | unsupported
  deriving DecidableEq, Repr

/-- What the patrol scrubber finds in a word (R417, R418). -/
inductive EccResult where
  | clean
  | corrected
  | uncorrectable
  deriving DecidableEq, Repr

/-- A CTRL or DATA flit, or a bad code group, at a Tine receiver (R29, R31). -/
inductive TineEvent where
  | flit
  | codeError
  deriving DecidableEq, Repr

/-- One row of a port (R244). -/
inductive RowId where
  | a | b
  deriving DecidableEq, Repr

/-- An IEEE 1149.1 operation on the TAP (R413). -/
inductive JtagOp where
  | bypass | samplePreload | extest | idcode | highz | clamp
  | other (code : Nat)
  deriving DecidableEq, Repr

/-- An offset of BAR0, through which every master reaches registers and memories, or of PF1's BAR2, which holds the
doorbells and the MSI-X structures (R419, R446). -/
structure BarAddr where
  offset : Word
  bar2 : Bool := false
  deriving DecidableEq, Repr

/-- A direct read: its first word, the byte enables of that word, and how many words it asks for (R422). -/
structure BusRead where
  address : BarAddr
  be : BitVec 4 := 0xF
  words : Nat := 1
  deriving DecidableEq, Repr

/-- How one row came out of a burn attempt: requested bits that read solid after it, and ones that read marginal (R397). -/
structure Burn where
  solid : DWord
  weak : DWord
  deriving DecidableEq, Repr

/-- The commands: one constructor per row of the opcode table, in the table's order. -/
inductive Instr where
  | coldStart (c : ColdStart)
  | headPwrWait (ids : List (Fin 112 × DWord))
  | porstNFall
  | railBelowThreshold
  | wrstNFall
  | warmStart (w : WarmStart)
  | pePerstNRise
  | pePerstNFall
  | pf1Flr
  | referenceLoss (ft : Bool)
  | referenceRestored (ft : Bool)
  | fallowWake (source : BitVec 4)
  | cpWdog
  | cpFail
  | paceWindow (ratios : Vector (BitVec 16) 8)
  | sqFetch (q : Fin 256) (slot : SqSlot) (packet : List Byte)
  | commandIntake
  | sqTailDoorbell (q : Fin 256) (value : Word)
  | cqHeadDoorbell (q : Fin 256) (value : Word)
  | ethernetFrame (frame : EthFrame)
  | spiWrite (packet : List Byte)
  | spiRead (clocked : Nat)
  | spiStatus
  | spiRegRead (address : Word)
  | spiRegWrite (address value : Word)
  | spiUnknownOperation
  | provisionalIdExpiry (id : BitVec 8)
  | sessionIdleTimeout (id : BitVec 8)
  | authLockoutEnd (slot : Fin 8)
  | eventEntryExpiry
  | openSessionChallenge (p : Packet)
  | openSessionProof (p : Packet)
  | closeSession (p : Packet)
  | sessionInfo (p : Packet)
  | gateOpen (p : Packet)
  | gateClose (p : Packet)
  | setMode (p : Packet)
  | resetWarm (p : Packet)
  | resetControlPlane (p : Packet)
  | resetPort (p : Packet)
  | resetSwath (p : Packet)
  | resetTransportAxis (p : Packet)
  | resetAuxiliaryAxis (p : Packet)
  | resetSession (p : Packet)
  | resetFurrowDie (p : Packet)
  | deviceInfo (p : Packet)
  | deviceStatus (p : Packet)
  | readWords (p : Packet)
  | writePairs (p : Packet)
  | modifyWord (p : Packet)
  | writeBlock (p : Packet)
  | dmaConfig (p : Packet)
  | dmaPost (p : Packet)
  | dmaStatus (p : Packet)
  | dmaControlResume (p : Packet)
  | dmaControlDiscard (p : Packet)
  | dmaControlStop (p : Packet)
  | swathDefine (p : Packet)
  | jobWrite (p : Packet)
  | jobRead (p : Packet)
  | jobSwitch (p : Packet)
  | jobCommit (die : Fin 7)
  | jobCancelDisarm (p : Packet)
  | jobCancelEnd (p : Packet)
  | jobStatus (p : Packet)
  | portConfig (p : Packet)
  | portEnable (p : Packet)
  | waveWrite (p : Packet)
  | heatConfig (p : Packet)
  | pulseAux (p : Packet)
  | portStatus (p : Packet)
  | scanStartForeground (p : Packet)
  | scanStartBackground (p : Packet)
  | mapEditRun (p : Packet)
  | mapEditList (p : Packet)
  | mapRead (p : Packet)
  | rawRead (p : Packet)
  | bandSet (p : Packet)
  | calWrite (p : Packet)
  | patternPrint (p : Packet)
  | encConfig (p : Packet)
  | encModeChange (ch : Fin 4)
  | encRead (p : Packet)
  | encoutConfig (p : Packet)
  | encPreset (p : Packet)
  | presetOffset (ch : Fin 4) (die : Fin 7)
  | taxConfig (p : Packet)
  | taxAdvance (p : Packet)
  | taxEnable (p : Packet)
  | taxSpeed (p : Packet)
  | taxMaster (p : Packet)
  | busConfig (p : Packet)
  | taxStatus (p : Packet)
  | auxConfig (p : Packet)
  | auxEnable (p : Packet)
  | auxMoveAbsolute (p : Packet)
  | auxMoveFollowOn (p : Packet)
  | auxMoveRelative (p : Packet)
  | auxProfile (p : Packet)
  | stopRamp (p : Packet)
  | stopNow (p : Packet)
  | auxHome (p : Packet)
  | auxGear (p : Packet)
  | auxStatus (p : Packet)
  | fltClass (p : Packet)
  | fltForce (p : Packet)
  | fltReadRecords (p : Packet)
  | fltReadCounters (p : Packet)
  | otpRead (p : Packet)
  | otpProgram (p : Packet)
  | otpProgramExecute (burns : List Burn) (second : Burn)
  | otpFinalise (p : Packet)
  | otpFinaliseExecute (burns : List Burn)
  | tmxSelect (p : Packet)
  | enterFallow (p : Packet)
  | eventSubscribe (p : Packet)
  | eventRead (p : Packet)
  | eventCounters (p : Packet)
  | sesQpCtlWrite (m : Master) (q : Fin 256) (value : Word)
  | prtGeomWrite (m : Master) (gp : Fin 112) (value : Word)
  | plsHeatctlWrite (m : Master) (gp : Fin 112) (value : Word)
  | plsTsntabWrite (m : Master) (gp : Fin 112) (k : Fin 17) (value : Word)
  | posChCountRead (m : Master) (die : Fin 8) (ch : Fin 4)
  | latchingRegisterRead (m : Master) (address : BusRead)
  | posChOptWrite (m : Master) (ch : Fin 4) (value : Word)
  | otpCmdWrite (m : Master) (value : Word)
  | otpLockWrite (m : Master) (value : Word)
  | ethMdioAccess (m : Master) (value : Word)
  | mdioAccessEnd (data : BitVec 16)
  | eventAckWrite (m : Master) (cls : Fin 16) (value : Word)
  | fltGpioWrite (m : Master) (value : Word)
  | aliasWrite (m : Master) (address value : Word) (be : BitVec 4)
  | bitAliasWrite (m : Master) (address value : Word)
  | memoryWindowWrite (m : Master) (address : Word) (words : List (Word × BitVec 4))
  | registerWrite (m : Master) (address : BarAddr) (value : Word) (be : BitVec 4)
  | postedWriteEffect (block : Block)
  | msixUnmask (v : Fin 512) (enable functionMask : Bool)
  | quadratureEdge (ch : Fin 4) (a b : Bool) (close : Bool)
  | stepDirEdge (ch : Fin 4) (levels : Levels) (flaws : StepFlaws)
  | upDownEdge (ch : Fin 4) (levels : Levels) (close : Bool)
  | indexEdge (z : ZLevel)
  | sincosQuadrantChange (ch : Fin 4) (cosHigh sinHigh : Bool)
  | sincosSample (ch : Fin 4) (sin cos : BitVec 14)
  | observerUpdate (die : Fin 8) (ch : Fin 4)
  | observerStill (die : Fin 8) (ch : Fin 4)
  | snapshotStrobe (guards : List (Fin 8 × Fin 4))
  | snapshotReport (die : Fin 7) (ch : Fin 4)
  | snapshotLate (die : Fin 7)
  | frwResyncTimeout (die : Fin 7)
  | tineFlit (die : Fin 7) (toHub : Bool) (data : Bool) (e : TineEvent)
  | tineAckTimeout (die : Fin 7)
  | lineSlotFreed (gp : Fin 112)
  | dmaReadIssue (c : Fin 32)
  | dmaReadCompletion (r : ReadTag) (e : ReadEnd)
  | dmaCompletionTimeout (r : ReadTag)
  | dmaWriteBeat (c : Fin 32)
  | fenceComplete (c : Fin 32) (e : FenceEnd)
  | rowLineProcess (gp : Fin 112) (row : RowId)
  | lineCommit (gp : Fin 112) (row : RowId) (reached : Bool)
  | lineStart (gp : Fin 112) (row : RowId)
  | fireWindowClose (gp : Fin 112) (row : RowId)
  | lineBoundary (gp : Fin 112) (row : RowId)
  | tsnConversion (gp : Fin 112) (code : BitVec 14)
  | keepWarmPiece (gp : Fin 112)
  | spitBurst (gp : Fin 112)
  | scanElement (gp : Fin 112) (code : BitVec 14) (windowClosed : Bool)
  | taxControlPeriod (axis : Fin 4) (iu iv iw vu vv vw : BitVec 12) (late : Bool)
  | rotorLoss (axis : Fin 4)
  | taxLost (axis : Fin 4)
  | encoderAlignDone (axis : Fin 4)
  | targetSpeedReached (axis : Fin 4)
  | activeShortCircuitEnd (axis : Fin 4)
  | busSample (bus brake : BitVec 12)
  | auxControlPeriod (axis : Fin 8) (ia ib : BitVec 12)
  | idleCurrent (axis : Fin 8)
  | switchRead (levels : BitVec 16)
  | faultDetection (source : Nat)
  | reactionComplete
  | faultInputChange (input : FaultInput) (p n : Bool)
  | tvScrub
  | patrolScrub (die : Fin 8) (bank : BitVec 4) (offset : Word) (r : EccResult)
  | railsInRange (c : ColdStart)
  | faultCauseGone (source : Nat)
  | sgmiiLinkChange (up : Bool)
  | pcieLinkChange (speed : BitVec 4) (width : BitVec 6)
  | commitAckTimeout (die : Fin 7)
  | switchRecordReport (die : Fin 7) (swath : Fin 16)
  | resyncNoEdge (die : Fin 7) (ch : Fin 4)
  | jtagTapAccess (op : JtagOp)
  deriving DecidableEq, Repr

end Sys2Proof
end

