-- ==== Sys2Proof/Config.lean ====
section
/-! DEFINITION. What one part fixes and the spec leaves open: free values, none with a body (log 2). -/

namespace Sys2Proof.Config

/-- The device nonces of the entropy source, in the order they are taken. Free values, of which the spec says only that
none repeats (R115): a permutation of the 16-byte values with no body. -/
opaque nonceOf : Equiv.Perm (BitVec 128)

/-- How a die counts an edge outside the specification (R312). Free value. -/
opaque freeBool : Nat → Bool

/-- RomBuild of the mask ROM (Table 6.4). Free value. -/
opaque romBuild : BitVec 16

/-- Direction in turns of a vector without length, for which atan2 has no value (R339). Free value. -/
opaque zeroAngle : Rat

/-- Fraction bits of the entries of the sine table (R341), which no rule states. Free value. -/
opaque sineBits : Nat

/-- An entry of the sine table is rounded up, not down (R341). Free value. -/
opaque sineUp : Nat → Bool

/-- A memory word in which a bit flips at a tick of the timestamp counter: die, bank and byte offset (R417). Free value. -/
opaque upset : DWord → Option (Fin 8 × BitVec 4 × Word)

/-- A correctable error is logged on the PCIe link at a tick of the timestamp counter (Table 19.7). Free value. -/
opaque correctableError : DWord → Bool

/-- The fire-timebase counter of a die (0 to 6), in 250 ps, at a timestamp: FT_REF drives it. Free value. -/
opaque fireCount : Nat → DWord → Nat

/-- Ratio and offset in ns that the fit over latch pairs gives (R262); its method is not stated. Free value. -/
opaque fireFit : List (DWord × Nat) → Rat × Rat

/-- die_trim of a die (0 to 6) in ns, from the rows of VENDOR_TRIM (R262), whose layout is not stated. Free value. -/
opaque dieTrim : List DWord → Nat → Rat

/-- Address group of a row position, from AddrCount and the position: a property of the head (R244, R256). Free value. -/
opaque addressGroup : Nat → Nat → Nat

/-- What the motor arithmetic makes of a division by zero, which no rule states, from the dividend. Free value. -/
opaque overZero : Rat → Rat

/-- The level a test-multiplexer signal of groups 1 to 15 or a handshake toggle shows (R412). Free value. -/
opaque tmxLevel : Nat → Bool

/-- What a die's temperature sensor reads at a time, signed, in 1/16 °C: die (0 hub, 1 to 7 for F0 to F6) and
timestamp (R439, R445). Free value. -/
opaque dieTemp : Nat → DWord → BitVec 16

/-- Which of the three other states FAULT_OUT's balls show, at a timestamp, while they read unlike their drive (R391).
Free value. -/
opaque faultBalls : DWord → Fin 3

/-- Microseconds until the command processor's watchdog expires, at a timestamp (R92, Table 19.5). Free value. -/
opaque wdogLeft : DWord → BitVec 14

end Sys2Proof.Config
end

