-- ==== Sys2Proof/Machine/Crypto.lean ====
section
/-! DEFINITION. CRC-32C (R104), SHA-256 and HMAC-SHA-256 (R104, R116, R400), and little-endian byte order. -/

namespace Sys2Proof.Machine

/-- The low `n` bytes of a value, least significant first. -/
def leBytes : Nat → Nat → List Byte
  | 0, _ => []
  | n + 1, v => BitVec.ofNat 8 v :: leBytes n (v / 256)

/-- The value of bytes, least significant first. -/
def leNat : List Byte → Nat
  | [] => 0
  | b :: bs => b.toNat + 256 * leNat bs

/-- One bit of the reflected CRC-32C register: polynomial 0x1EDC_6F41, reflected 0x82F6_3B78. -/
def crcBit (r : Nat) : Nat :=
  if r % 2 = 1 then Nat.xor (r / 2) 0x82F63B78 else r / 2

/-- One byte through the CRC register. -/
def crcByte (r : Nat) (b : Byte) : Nat :=
  crcBit (crcBit (crcBit (crcBit (crcBit (crcBit (crcBit (crcBit (Nat.xor r b.toNat))))))))

/-- CRC-32C: initial value and final XOR 0xFFFF_FFFF (R104). -/
def crc32c (bs : List Byte) : Word :=
  BitVec.ofNat 32 (Nat.xor (bs.foldl crcByte 0xFFFFFFFF) 0xFFFFFFFF)

/-- The greatest `r` with `r ^ k ≤ x` that agrees with `r` above bit `n`, found bit by bit. -/
def rootBits (k x : Nat) : Nat → Nat → Nat
  | 0, r => r
  | n + 1, r => rootBits k x n (if (r + 2 ^ n) ^ k ≤ x then r + 2 ^ n else r)

/-- The first 32 bits of the fractional part of the `k`-th root of a number below 2^12. -/
def rootFraction (k p : Nat) : Nat := rootBits k (p * 2 ^ (32 * k)) 38 0 % 2 ^ 32

/-- The primes below 312, the first 64; a composite below 312 has a divisor from 2 to 17. -/
def shaPrimes : List Nat :=
  (List.range 312).filter fun n => 2 ≤ n && (List.range 16).all fun i => n = i + 2 || n % (i + 2) ≠ 0

/-- The round constants of SHA-256: from the cube roots of the first 64 primes. -/
def shaK : List Nat := shaPrimes.map (rootFraction 3)

/-- The initial hash value of SHA-256: from the square roots of the first eight primes. -/
def shaH0 : List Nat := (shaPrimes.take 8).map (rootFraction 2)

/-! ### SHA-256 as two sequences

The eight working words are the last four values of two sequences A and E (a to d, and e to h), and the sixteen words of
the message schedule are the last sixteen of a third, so each round only puts one new value at the head of each. -/

/-- The XOR of a 32-bit value turned right by each amount. -/
def spin (amounts : List Nat) (x : Nat) : Nat :=
  amounts.foldl (fun acc n => Nat.xor acc (x / 2 ^ n + x % 2 ^ n * 2 ^ (32 - n))) 0

/-- Addition modulo 2^32, of a list. -/
def sum32 (xs : List Nat) : Nat := xs.foldl (· + ·) 0 % 2 ^ 32

/-- A value of a sequence `k` places back; 1 is the newest. -/
def back (k : Nat) (xs : List Nat) : Nat := xs.getD (k - 1) 0

/-- `n` more words of the message schedule. -/
def shaExtend (n : Nat) (w : List Nat) : List Nat :=
  n.repeat (fun w =>
    sum32 [back 16 w, Nat.xor (spin [7, 18] (back 15 w)) (back 15 w / 2 ^ 3), back 7 w,
      Nat.xor (spin [17, 19] (back 2 w)) (back 2 w / 2 ^ 10)] :: w) w

/-- Each bit of `y` where `x` has a 1, of `z` where it has a 0. -/
def pick (x y z : Nat) : Nat := Nat.xor z (Nat.land x (Nat.xor y z))

/-- The bits that at least two of three values have. -/
def most (x y z : Nat) : Nat := Nat.lor (Nat.land x y) (Nat.land z (Nat.lor x y))

/-- One round: `kw` is the sum of the round's constant and schedule word. -/
def shaRound (v : List Nat × List Nat) (kw : Nat) : List Nat × List Nat :=
  let given := sum32 [back 4 v.2, kw, spin [6, 11, 25] (back 1 v.2), pick (back 1 v.2) (back 2 v.2) (back 3 v.2)]
  let own := sum32 [spin [2, 13, 22] (back 1 v.1), most (back 1 v.1) (back 2 v.1) (back 3 v.1)]
  ((sum32 [given, own] :: v.1).take 4, (sum32 [back 4 v.1, given] :: v.2).take 4)

/-- A 32-bit word from four bytes, most significant first. -/
def beWord (bs : List Byte) : Nat := bs.foldl (fun acc b => acc * 256 + b.toNat) 0

/-- The bytes of a 32-bit word, most significant first. -/
def beBytes (v : Nat) : List Byte :=
  [BitVec.ofNat 8 (v / 2 ^ 24), BitVec.ofNat 8 (v / 2 ^ 16), BitVec.ofNat 8 (v / 2 ^ 8), BitVec.ofNat 8 v]

/-- `n` pieces of `k` elements each. -/
def pieces {α : Type} (k : Nat) : Nat → List α → List (List α)
  | 0, _ => []
  | n + 1, l => l.take k :: pieces k n (l.drop k)

/-- One 64-byte block into the hash. -/
def shaBlock (h : List Nat) (blk : List Byte) : List Nat :=
  let w := (shaExtend 48 ((pieces 4 16 blk).map beWord).reverse).reverse
  let v := (List.zipWith (· + ·) shaK w).foldl shaRound (h.take 4, h.drop 4)
  List.zipWith (fun x y => sum32 [x, y]) h (v.1 ++ v.2)

/-- The padding of a message of `n` bytes. -/
def shaPad (n : Nat) : List Byte :=
  0x80 :: List.replicate ((119 - n % 64) % 64) 0 ++ (beBytes (n * 8 / 2 ^ 32) ++ beBytes (n * 8 % 2 ^ 32))

/-- SHA-256. -/
def sha256 (m : List Byte) : List Byte :=
  let p := m ++ shaPad m.length
  ((pieces 64 (p.length / 64) p).foldl shaBlock shaH0).flatMap beBytes

/-- One pass of HMAC: the key block under a mask, then the message. -/
def keyedPass (key : List Byte) (mask : Byte) (m : List Byte) : List Byte :=
  sha256 ((List.range 64).map (fun i => key.getD i 0 ^^^ mask) ++ m)

/-- HMAC-SHA-256 with a 32-byte key (R104, R116). -/
def hmacSha256 (key m : List Byte) : List Byte := keyedPass key 0x5C (keyedPass key 0x36 m)

end Sys2Proof.Machine
end

