-- ==== Sys2Proof/Machine/Flags.lean ====
section
/-! DEFINITION. Status codes and words (Tables 5.4, 5.5, 17.11), packet flags (Table 5.2), modes (Table 4.1), roles
(Table 5.6), register fields, saturating counters, and the real functions of the rules (log 60). -/

namespace Sys2Proof.Machine

/-! Status codes. -/
abbrev stOk : Nat := 0x00
abbrev stQueued : Nat := 0x01
abbrev stBadOpcode : Nat := 0x10
abbrev stBadLength : Nat := 0x11
abbrev stLengthExceeds : Nat := 0x12
abbrev stBadParam : Nat := 0x13
abbrev stNoSession : Nat := 0x20
abbrev stAuthFail : Nat := 0x21
abbrev stRole : Nat := 0x22
abbrev stMac : Nat := 0x23
abbrev stBusy : Nat := 0x30
abbrev stNoCredit : Nat := 0x31
abbrev stTooLate : Nat := 0x40
abbrev stMode : Nat := 0x41
abbrev stHalted : Nat := 0x42
abbrev stRestarted : Nat := 0x43
abbrev stOtpLocked : Nat := 0x50
abbrev stOtpRange : Nat := 0x51
abbrev stOtpConflict : Nat := 0x52
abbrev stOtpVerify : Nat := 0x53
abbrev stOtpNoSpare : Nat := 0x54
abbrev stOtpMarginal : Nat := 0x55
abbrev stOtpCount : Nat := 0x56
abbrev stOtpDigest : Nat := 0x57

/-- Offset when no single field is at fault (Table 5.4). -/
abbrev noField : Nat := 0xFFFF

/-- The status word of Table 5.4. -/
def statusWord (code offset : Nat) : Word := BitVec.ofNat 32 (code % 256 + 65536 * (offset % 65536))

/-! Modes. -/
abbrev mBoot : BitVec 4 := 0
abbrev mFallow : BitVec 4 := 1
abbrev mReady : BitVec 4 := 2
abbrev mPrint : BitVec 4 := 3
abbrev mService : BitVec 4 := 4
abbrev mCalibrate : BitVec 4 := 5
abbrev mHalted : BitVec 4 := 6
abbrev mTest : BitVec 4 := 7

/-! Roles. -/
abbrev rObserver : BitVec 2 := 0
abbrev rOperator : BitVec 2 := 1
abbrev rService : BitVec 2 := 2
abbrev rVendor : BitVec 2 := 3

/-! Event classes (Table 5.17). -/
abbrev evMode : Fin 16 := 0
abbrev evFault : Fin 16 := 1
abbrev evJob : Fin 16 := 2
abbrev evDma : Fin 16 := 3
abbrev evPort : Fin 16 := 4
abbrev evPosition : Fin 16 := 5
abbrev evTransport : Fin 16 := 6
abbrev evAux : Fin 16 := 7
abbrev evHealth : Fin 16 := 8
abbrev evHeat : Fin 16 := 9
abbrev evSession : Fin 16 := 10
abbrev evOtp : Fin 16 := 11
abbrev evPower : Fin 16 := 12
abbrev evPace : Fin 16 := 13
abbrev evStream : Fin 16 := 15

/-- A counter that saturates at 0xFFFF_FFFF (R424). -/
def satInc (n : Nat) : Nat := if n < 0xFFFFFFFF then n + 1 else n

/-- A counter that saturates at a stated maximum. -/
def satTo (m n : Nat) : Nat := if n < m then n + 1 else n

/-- A Boolean field as a number. -/
def bit (b : Bool) : Nat := if b then 1 else 0

/-- A field of `w` bits placed at bit `k`. -/
def fld (k w v : Nat) : Nat := (v % 2 ^ w) * 2 ^ k

/-- The field of `w` bits at bit `k` of a value. -/
def getF (k w v : Nat) : Nat := v / 2 ^ k % 2 ^ w

/-- One bit of a value. -/
def getB (k v : Nat) : Bool := v.testBit k

/-- A signed number as a two's-complement field of `w` bits. -/
def sfld (k w : Nat) (v : Int) : Nat := fld k w (BitVec.ofInt w v).toNat

/-- The signed reading of the low `w` bits. -/
def toSigned (w v : Nat) : Int := (BitVec.ofNat w v).toInt

/-- R318: `a` is after `b`, modulo 2^32 within half the range. -/
def after (a b : Word) : Bool := let d := (a - b).toNat; 1 ≤ d && d ≤ 0x7FFFFFFF

/-- R318: `a` is before `b`. -/
def before (a b : Word) : Bool := let d := (a - b).toNat; 0x80000000 ≤ d

/-- A forward crossing of `p`: the count steps from before `p` to `p` or beyond (R203, R208). -/
def crossesForward (old new p : Word) : Bool := before old p && !before new p && after new old

/-- Rounding to the nearest integer, halves away from zero. -/
def roundAway (q : Rat) : Int := if q < 0 then -((-q + 1 / 2).floor) else (q + 1 / 2).floor

/-! Square root, 2π, sine and atan2, which the rules name as real numbers: held to 2^-64 (DESIGN CHOICE, log 60). -/

/-- The integer square root, rounded down: one bit at a time from the highest. -/
def isqrt (n : Nat) : Nat :=
  (List.range (Nat.log2 n / 2 + 1)).foldr (fun i r => if (r + 2 ^ i) * (r + 2 ^ i) ≤ n then r + 2 ^ i else r) 0

/-- The square root of a rational number of at least 0. -/
def ratSqrt (x : Rat) : Rat :=
  (isqrt (x.num.toNat * x.den * 2 ^ 128) : Rat) / ((x.den * 2 ^ 64 : Nat) : Rat)

/-- 2π. -/
def twoPi : Rat := 497805226624462170461043889244 / 2 ^ 96

/-- The angle in turns whose tangent is s ÷ c, for s from 0 to c: Euler's series of the arc tangent, whose terms fall by
half or more. -/
def octant (s c : Nat) : Rat :=
  if s = 0 then 0 else if s = c then 1 / 8 else
  let one := 2 ^ 96
  let u := s * s * one / (s * s + c * c)
  let sum := (List.range 100).foldl (fun (x : Nat × Nat) n =>
    let t := x.1 * u * (2 * n + 2) / (one * (2 * n + 3))
    (t, x.2 + t)) (one, one)
  ((s * c * sum.2 : Nat) : Rat) / (((s * s + c * c) * one : Nat) : Rat) / twoPi

/-- atan2(y, x) in turns, from 0 to below 1. -/
def turnsOf (y x : Int) : Rat :=
  let a := y.natAbs
  let b := x.natAbs
  let t := if a ≤ b then octant a b else 1 / 4 - octant b a
  if 0 ≤ y then (if 0 ≤ x then t else 1 / 2 - t)
  else if x < 0 then 1 / 2 + t
  else 1 - t

/-- The sine of i/1,024 turn for i from 0 to 256, by its series. -/
def sinQuarter (i : Nat) : Rat :=
  if i = 0 then 0 else if i = 256 then 1 else
  let x := twoPi * i / 1024
  let one : Int := 2 ^ 96
  let sq : Int := (x * x * one).floor
  let sum := (List.range 24).foldl (fun (y : Int × Int) n =>
    let t := -(y.1 * sq) / (one * ((2 * n + 2) * (2 * n + 3) : Nat))
    (t, y.2 + t)) (one, one)
  x * sum.2 / one

/-- The sine of i/1,024 turn. -/
def sinExact (i : Nat) : Rat :=
  let r := i % 256
  match i / 256 % 4 with
  | 0 => sinQuarter r
  | 1 => sinQuarter (256 - r)
  | 2 => -sinQuarter r
  | _ => -sinQuarter (256 - r)

/-- Entry i of the sine table: the sine of i/1,024 turn, rounded up or down to so many fraction bits. The number of bits and
the way of rounding are free values (R341; log 2). -/
def sineEntry (i : Nat) : Rat :=
  let v := sinExact i * 2 ^ Config.sineBits
  (if (v.floor : Rat) = v then v else (v.floor + (bit (Config.sineUp i) : Nat) : Rat)) / 2 ^ Config.sineBits

/-- A signed 32-bit value, saturating (R321). -/
def satInt32 (i : Int) : Word :=
  if i > 0x7FFFFFFF then 0x7FFFFFFF else if i < -0x80000000 then 0x80000000 else BitVec.ofInt 32 i

end Sys2Proof.Machine
end

