-- ==== Sys2Proof/Machine/State.lean ====
section
/-! DEFINITION. Everything the spec gives the machine, as plain data, and its value at reset.
A register field is named after the spec's own; `State.reset` is the part held in reset before a COLD_START. -/

namespace Sys2Proof.Machine

/-! ## Sessions, transports, events -/

/-- The response slot a reply holds until it is delivered (R107, R119): one of its session's Credits slots, the
session's reserved slot, the pre-session's slot on the transport, a provisional ID's slot, or none. -/
inductive RespSlot where
  | session | reserved | pre | prov | free
  deriving DecidableEq, Repr

/-- One reply or pushed event packet, before it is put into bytes (Table 5.1). -/
structure Reply where
  slot : RespSlot := .free
  bound : BitVec 16 := 0                 -- session bound to the queue pair when the SQ slot was taken (Table 5.14)
  via : Via
  session : BitVec 16
  seq : Word
  flags : Byte
  opcode : Byte
  variant : Byte
  status : Word
  tag : DWord
  params : List Byte
  mac : List Byte          -- empty when the packet carries none (R118)
  replyAddr : DWord
  deriving DecidableEq, Repr

/-- A slot of a row's sequence as it leaves a port (R254 to R257, R272): its transfer over D0 to D3, which ends with its
STB at the start of the slot, and the edges of the row's fire line. Times in ns of the die's fire timebase. -/
structure SlotOut where
  phase : Nat
  slot : Nat
  groups : List Nat                      -- address groups it fires, one in each bank
  start : Rat
  width : Nat                            -- ns
  command : BitVec 16
  lanes : List (List Bool)               -- data bits of D0 to D3, in the order sent
  edges : List (Rat × Bool)              -- of FA or FB: true rises
  deriving DecidableEq, Repr

/-- A transfer due on a port's lanes: its row, phase and slot, and the time at which its STB ends (R255). -/
structure Transfer where
  row : RowId
  phase : Nat
  slot : Nat
  deadline : Rat
  deriving DecidableEq, Repr

/-- What leaves the part. A trace of the model: nothing in the model reads it (log 3). -/
inductive Emission where
  | datagram (src : Word) (dst : Via) (mac : BitVec 48) (sourcePort checksum : BitVec 16) (payload : List Byte)
  | hostWrite (address : DWord) (bytes : List Byte)
  | reply (r : Reply)
  | cqSlot (q : Nat) (seq status : Word) (sqHead replyBytes : Nat) (phase discarded : Bool) (session : BitVec 16)
  | msix (vector : Nat) (address : DWord) (data : Word)
  | arpReply
  | echoReply
  | spiOut (bytes : List Byte)
  | value (v : Word)                                  -- what a register read returned
  | line (gp : Nat) (row : RowId) (line : Word) (start : Rat) (blank : Bool) (slots : List SlotOut)
  | lanes (gp : Nat) (order : List Transfer)           -- transfers still due on the lanes, in the order served (R255)
  | held (gp : Nat)                                    -- fire outputs held at once, a sequence cut (R259)
  | slotHold (gp : Nat) (row : RowId) (slots : Nat)    -- a sequence stopped after so many slots (R284)
  | spit (gp : Nat) (row : RowId) (level : Nat) (slots : List SlotOut)
  | keepWarm (gp : Nat) (row : RowId) (slots : List SlotOut)
  | pieceStop (gp : Nat) (at' : Rat)                   -- a background piece stops at a slot boundary (R287)
  | hpen (gp : Nat) (high : Bool)                      -- HPEN of a port changes
  | gates (axis : Nat) (ns : List (Rat × Rat))         -- low-side and high-side on-time of each phase in the next period; all low if none (R334)
  | zeroVector (axis : Nat) (start : DWord)            -- a probe: every low side on for 20 µs from then (R346)
  | testWord (gp : Nat) (word : BitVec 16)             -- test word on D0, latched by STB (R292)
  | mdio (write : Bool) (phy reg : BitVec 5) (data : BitVec 16)
  | jtag (op : JtagOp)
  deriving DecidableEq, Repr

/-- An open entry of the session table (R112). -/
structure Session where
  id : BitVec 8
  role : BitVec 2
  slot : BitVec 3
  via : Via
  key : List Byte
  macRequired : Bool
  credits : Nat                          -- 1 to 64 (R119)
  expectedSeq : Word
  history : List (Word × Option Word)    -- up to 64 numbers that passed step 7, newest first, with the status word once answered (R110)
  idleSeconds : Nat
  idleSince : DWord                      -- start of the running idle timer
  idleUsed : DWord                       -- what it had counted when it last stopped (R120)
  macFails : Nat
  subs : BitVec 16
  subPort : BitVec 16
  pushSeq : Word
  lost : Nat
  dups : List Packet                     -- duplicates whose original is not yet answered (R110)
  responses : List Reply                 -- replies not yet delivered, oldest first
  reservedResponse : Option Reply            -- the reserved response slot (R119)
  deriving DecidableEq, Repr

/-- A provisional ID (R114, R115). -/
structure Provisional where
  id : BitVec 8
  role : BitVec 2
  slot : BitVec 3
  via : Via
  macRequired : Bool
  credits : Nat
  hostNonce : List Byte
  deviceNonce : List Byte
  deriving DecidableEq, Repr

/-- What a CONTAIN reaction stops (Tables 16.2, 16.3). -/
inductive FaultUnit where
  | port (gp : Fin 112)
  | swath (s : Fin 16)
  | transport (n : Fin 4)
  | aux (n : Fin 8)
  | session (id : BitVec 8)
  | die (f : Fin 7)
  deriving DecidableEq, Repr

/-- One queue pair (R122, Tables 5.19, 5.20). -/
structure QueuePair where
  sqBase : DWord := 0
  cqBase : DWord := 0
  entries : BitVec 7 := 17
  enable : Bool := false
  vector : BitVec 9
  sqHead : Nat := 0
  sqTail : BitVec 7 := 0
  cqHead : BitVec 7 := 0
  cqTail : Nat := 0
  phase : Bool := true
  cqOut : List (RespSlot × BitVec 16) := [] -- CQ slots written and not yet passed by CqHead, oldest first: response slot held, session
  deriving DecidableEq, Repr

/-- A CTRL message between the hub and a furrow die that waits for a credit of its link (R29). -/
inductive CtrlMsg where
  | commit                               -- of the armed job (R207), with its acknowledgement and the late answer
  | commitAck
  | commitLate (ch : Fin 4)
  | preset (ch : Fin 4)                  -- an offset (R325), and its acknowledgement
  | presetAck (ch : Fin 4)
  | snapshot (ch : Fin 4)                -- R34
  | switchRecord (s : Fin 16)            -- R35
  | slotFreed (gp : Fin 112)             -- R191
  | access                               -- a write of a register or a window of the die
  deriving DecidableEq, Repr

/-- What a command that waits on a hardware block waits for (R194). -/
inductive Park where
  | modeChange (previous target : BitVec 4)
  | modeWait                             -- a SET_MODE behind another that has not completed (R80)
  | dieReset (f : Fin 7)                 -- its copies are being brought into agreement (R97)
  | jobEnd (job : Nat)
  | arming (job : Nat)
  | preset (ch : Fin 4)
  | encMode (ch : Fin 4)                 -- its mode or Interp waits for the channel's next agreement (R326)
  | axisQueue
  | profile                              -- its set-point is in the axis's queue (R361)
  | otpRead                              -- its request is in the OTP queue (R404)
  | unitReset (u : FaultUnit)            -- its ports end the lines they fire (R96)
  | writes (words : List (Nat × Nat)) (privileged : Bool) -- words to write, one of them to a busy OTP_CMD (R148)
  | modify (privileged : Bool)           -- a MODIFY_WORD of a busy OTP_CMD
  deriving DecidableEq, Repr

/-- A command that has passed steps 1 to 7: waiting to be taken, or in a work-queue entry (Table 7.1, row 10). -/
structure WorkEntry where
  packet : Packet
  slot : RespSlot := .session            -- the response slot of its reply
  bound : BitVec 16 := 0                 -- session bound to its queue pair when its SQ slot was taken (Table 5.14)
  park : Option Park := none
  orphan : Option Session := none        -- its session, which has closed: the reply is discarded (R121)
  deriving DecidableEq, Repr

/-- The session table, the transports' buffers and the command processor. -/
structure Sessions where
  openS : List Session := []
  prov : List Provisional := []
  freeIds : List (BitVec 8)              -- the one freed longest ago first (R114)
  wrongProofs : List (Nat × DWord) := [] -- slot and time (R117)
  lockout : BitVec 8 := 0                -- slots refusing challenges (R117)
  sesIdle : Nat := 60
  dropCrc : Nat := 0
  dropLen : Nat := 0
  dropMac : Nat := 0
  dropNet : Nat := 0
  dropSpi : Nat := 0
  dropDoorbell : Nat := 0
  qp : Vector QueuePair 256
  epoch : Word := 0
  ethRx : List (Packet × Bool) := []     -- received packets not yet checked; true when the bytes were a whole packet
  spiRx : List (Option Packet) := []         -- none: fewer bytes than a packet has
  spiLastDropped : Bool := false
  spiOut : List Reply := []              -- replies and events waiting for an SPI READ
  waiting : List WorkEntry := []         -- commands that passed steps 1 to 7, not yet taken
  work : List WorkEntry := []
  rr : BitVec 8 := 0                     -- session served last (R194)
  running : Bool := false                -- the command processor runs
  executed : Nat := 0
  gate : Option (BitVec 8) := none       -- session holding PF0's gate (R143)
  overrun : Option (BitVec 8) := none    -- session whose reply found the reserved slot full, while that is collected
  nonces : Nat := 0                      -- device nonces taken from the entropy source (log 44)
  deriving DecidableEq, Repr

/-- An event record (Table 5.18). -/
structure EventRecord where
  cls : Nat
  kind : Nat
  source : BitVec 16
  classSeq : Word
  ts : DWord
  count : Nat
  data : List Byte
  deriving DecidableEq, Repr

/-- A ring entry with the pull subscribers that have still to read it (R135). -/
structure RingEntry where
  record : EventRecord
  written : DWord
  readers : List (BitVec 8)
  deriving DecidableEq, Repr

/-- The event queue and the sequence counters (R132, R135, R425). -/
structure Events where
  ring : List RingEntry := []
  counters : List EventRecord := []      -- counters in the order first used; a class-wide one has Source 0xFFFF
  seq : Vector Word 16 := Vector.replicate 16 0
  ack : Vector Word 16 := Vector.replicate 16 0
  deriving DecidableEq, Repr

/-! ## Position -/

/-- One die's copy of an encoder channel (R310 to R325). -/
structure EncCopy where
  count : Word := 0
  wrap : BitVec 8 := 0
  dir : Bool := false                    -- true: reverse
  dirExt : Word := 0                     -- M or m of R322
  event : Word := 0
  a : Bool := true                       -- receivers, biased to differential high (R48, Table 3.8)
  b : Bool := true
  z : Bool := true
  cosHigh : Bool := false                -- comparators of COS and SIN (R314)
  sinHigh : Bool := false
  index : Word := 0
  indexSeen : Bool := false
  unreferenced : Bool := true
  sincosAmp : Bool := false
  still : Bool := false
  period : Int := 0                      -- P of R314
  quadrant : BitVec 2 := 0
  quadCount : Word := 0                  -- quadrant count, for R322 and R324
  outside : Nat := 0
  inside : Nat := 0
  m : BitVec 12 := 0
  gen : BitVec 8 := 0
  ts : DWord := 0                        -- time of the last count change
  x : Rat := 0
  v : Rat := 0
  acc : Rat := 0
  t : DWord := 0
  latch : Option (Word × BitVec 8 × Word × Bool) := none -- snapshot number, generation, count, Guard (R34)
  fineDue : Bool := false                -- the next sample is recorded for R324
  fineOwed : Bool := false               -- the snapshot has been compared, its fine counts have not
  fine : Option (Word × BitVec 8 × Word) := none -- fine count at the first sample after the strobe: its number, the generation, the count
  base : Int := 0                        -- presets since the last configuration, mode 4 (log 22)
  syncing : Bool := false                -- the copy is being brought into agreement (R97, R326)
  deriving DecidableEq, Repr

/-- Configuration of a channel (Table 6.20). -/
structure EncCfg where
  mode : BitVec 3 := 0
  term : Bool := false
  winN : BitVec 8 := 4
  interp : BitVec 13 := 4096
  bandwidth : BitVec 13 := 500
  winLo : BitVec 12 := 369
  winHi : BitVec 12 := 1731
  deriving DecidableEq, Repr

/-- An offset of ENC_PRESET on its way to the dies (R325). -/
structure Preset where
  offset : BitVec 40
  apply : List (Fin 7)                   -- dies that have not applied it
  ack : List (Fin 7) := []               -- dies whose acknowledgement waits for a credit
  silent : Bool := false                 -- its command was answered at a control-plane restart
  deriving DecidableEq, Repr

/-- An encoder channel: configuration and the copies of hub (0) and F0 to F6 (1 to 7). -/
structure Enc where
  cfg : EncCfg := {}
  nextCfg : Option EncCfg := none        -- waiting for ENC_MODE_CHANGE (R326)
  dirHyst : BitVec 8 := 4
  copies : Vector EncCopy 8 := Vector.replicate 8 {}
  seqErr : Nat := 0
  presets : List Preset := []            -- oldest first
  deriving DecidableEq, Repr

/-- A pass-through output (Table 13.5). -/
structure EncOut where
  source : Fin 4 := 0
  enable : Bool := false
  divider : BitVec 9 := 1
  origin : Word := 0                     -- q0 of R323
  state : BitVec 2 := 0                  -- level of A (bit 1) and B (bit 0)
  z : Bool := false
  deriving DecidableEq, Repr

/-- The position subsystem (R331). -/
structure Position where
  enc : Vector Enc 4 := Vector.replicate 4 {}
  out : Vector EncOut 4 := Vector.replicate 4 {}
  snapNumber : Word := 0                 -- of the last strobe
  snapNext : Word := 0
  divChannel : BitVec 2 := 0
  divDie : BitVec 3 := 0
  divKind : BitVec 2 := 0
  divValid : Bool := false
  divEvent : Word := 0
  divHub : Word := 0
  divDieCount : Word := 0
  wrDrop : Nat := 0
  deriving DecidableEq, Repr

/-! ## Jobs, swaths, ports -/

/-- A descriptor (Table 9.1). -/
structure Desc where
  op : BitVec 8
  xform : BitVec 8
  flags : BitVec 8
  split : BitVec 8
  count : Word
  srcA : DWord
  srcB : DWord
  strideA : Word
  strideB : Word
  deriving DecidableEq, Repr

/-- What a swath entry of a job context selects (Table 8.3). -/
structure JobSwath where
  gearNum : Nat
  gearDen : Nat
  length : Nat
  firstDesc : Nat
  descCount : Nat
  chainEnd : Nat
  waveSet : Fin 4
  shareSet : Fin 4
  calSet : Fin 4
  hidePolicy : Nat
  overspeed : Nat
  dropLimit : Nat
  windowTolNs : Nat
  underrunStop : Nat
  deriving DecidableEq, Repr

/-- A job or a pattern on a swath. `epoch` is the model's own tag: the runs of a swath in order. `origin` is the
count of line 0, extended by WRAP_SEQ to 40 bits (R201, R317): positions a run compares with it lie nearer than 2^39
counts. `lines` is how many of its lines fire at most, none without a limit. -/
structure Run where
  epoch : Nat
  job : Nat := 0
  origin : Nat
  gearNum : Nat
  gearDen : Nat
  policy : JobSwath
  pattern : Option (BitVec 2) := none
  lines : Option Nat := none
  chain : List Desc := []
  deriving DecidableEq, Repr

/-- A pending switch of a swath: its position and what starts there, nothing when the swath ends there (R203, R208). -/
structure JobChange where
  pos : Nat
  run : Option Run
  tag : Nat := 0                         -- the switch's number on its swath, for the records of R35
  deriving DecidableEq, Repr

/-- An armed job (R207, R213). -/
structure Armed where
  job : Nat
  boundary : Word
  wrap : BitVec 8                        -- WRAP_SEQ at the boundary
  swaths : List (Fin 16)                 -- of the armed job
  switching : List (Fin 16)              -- of either job, which take its commit (R207)
  toSwitch : List (Fin 16)               -- swaths still to switch on the hub
  waitAck : List (Fin 7)                 -- dies that have not acknowledged the commit
  deriving DecidableEq, Repr

/-- One die's line generator of a swath (R201, R214). -/
structure LineGen where
  epoch : Nat := 0                       -- run in force on this die, 0 before the first
  pos : Int := 0                         -- counts since Origin of that run, exact over any length (R201); kept on the hub
  armed : Bool := false                  -- the commit of the pending switch has arrived
  crossed : Bool := false                -- the die has passed the pending switch
  swCount : Word := 0
  late : List JobChange := []            -- earlier switches whose commit has come and that this die has still to pass
  records : List (Nat × Word × Word) := [] -- switches by tag, with the count and the hub's snapshot number at each: of a die, those not yet reported; of the hub, the last 16 (R35, Table 13.6)
  deriving DecidableEq, Repr

/-- A swath (R198, Table 8.1). -/
structure Swath where
  defined : Bool := false
  reference : Bool := false
  channel : Fin 4 := 0
  barOffset : Word := 0
  portMap : BitVec 112 := 0
  state : BitVec 2 := 0                  -- 0 undefined, 1 idle, 2 job, 3 pattern
  job : Nat := 0
  gearNum : Nat := 1                     -- ratio in force
  gearDen : Nat := 1
  epoch : Nat := 0                       -- of the newest run made
  runs : List Run := []                  -- newest first: in force, or with rows still on its lines
  switch : Option JobChange := none
  endPos : Option (Nat × Nat) := none    -- where its present job ends, when a later switch has been armed (R208), with that end's tag
  gens : Vector LineGen 8 := Vector.replicate 8 {}
  linesFired : Nat := 0
  firePoint : Nat := 0                   -- next line to reach its fire point (R248)
  endAtBoundary : Bool := false          -- ends at the next line boundary (R79, R157, R217)
  ended : Bool := false                  -- its present job ended here by Length
  resumed : Bool := false                -- kind 4 still to emit after a reversal (R268)
  deriving DecidableEq, Repr

/-- A line token in a row's fire queue (R261, R263). -/
structure Token where
  epoch : Nat                            -- run it is a line of
  line : Nat
  processed : Option (List Nat) := none  -- level of each nozzle of the row after stages 2 to 5
  dots : Bool := true
  pred : Option Rat := none              -- S(L) as last predicted (R261)
  start : Option Rat := none             -- S(L) in ns once committed
  complete : Bool := false               -- data complete at the commit
  missed : Bool := false                 -- not handed to the timebase by its commit moment (R263)
  started : Bool := false
  blanked : Bool := false                -- its start found the port HOT (R281)
  skip : Bool := false                   -- taken off unfired and uncounted: data not complete after a reset (R96, R159)
  deriving DecidableEq, Repr

/-- A line-buffer slot granted to the swath channel (R191, R245). -/
structure LineSlot where
  epoch : Nat
  line : Nat
  complete : Bool := false
  told : Bool := false                   -- every row has passed the line, and the message of it is on its way (R191)
  deriving DecidableEq, Repr

/-- One row of a port. -/
structure Row where
  last : Word := 0xFFFFFFFF              -- high-water mark
  markEpoch : Nat := 0                   -- run of the mark: the one whose lines the row fires
  upTo : Nat := 0                        -- lines of that run up to the mark
  firedTo : Nat := 0                     -- lines of that run up to the last it fired, a blank one included (R79)
  queue : List Token := []               -- at most 4 (Table 7.1)
  epoch : Nat := 0                       -- run whose lines it queues, 0 before the first
  nextLine : Nat := 0                    -- next line to queue
  waitData : Bool := false               -- no line with complete data has been committed since a reset or enable (R96, R159)
  fAdm : Nat := 0                        -- admissible rate in force since the row's last line boundary (R26, R259)
  prevStart : Option Rat := none
  busyUntil : Option Rat := none         -- end of the sequence in progress
  firing : Bool := false
  dots : Bool := false                   -- the sequence in progress is of a line with dots
  band : BitVec 4 := 0
  deriving DecidableEq, Repr

/-- A background piece in progress (R287). Times in ns of the die's fire timebase. -/
structure Piece where
  spit : Bool                            -- a spit burst; else a keep-warm piece
  start : Rat
  pattern : BitVec 3 := 0                -- SpitPattern of the burst (R290)
  lineAt : Rat                           -- start of the spit line in progress
  slotNs : Nat
  lineNs : Nat                           -- length of one spit line, or of the piece
  stop : Rat                             -- when it ends
  deriving DecidableEq, Repr

/-- A scan of a port (R292). -/
structure Scan where
  state : BitVec 2 := 0                  -- 0 idle, 1 foreground, 2 background
  aborted : Bool := false
  testMode : Bool := false
  next : Nat := 0
  limit : Nat := 0
  measured : Nat := 0
  newMasked : Nat := 0
  aborts : Nat := 0
  bandShort : BitVec 16 := 20
  bandLow : BitVec 16 := 21
  bandHigh : BitVec 16 := 6999
  bandOpen : BitVec 16 := 7000
  cold : Bool := false                   -- the scan of cold-start step 8
  deriving DecidableEq, Repr

/-- Temperature and pulse state of a port (R275 to R291). Temperatures in 0.1 °C. -/
structure Heat where
  temp : Int := 0
  band : BitVec 4 := 0
  belowWarm : Bool := false
  hot : Bool := false
  crit : Bool := false
  sensorFault : Bool := false
  code : BitVec 14 := 0
  recent : List Int := []                -- last valid Tc values, newest first, at most 8
  lastBad : Option Bool := none          -- previous conversion out of range (true: open)
  fresh : Bool := true                   -- next conversion is placed without hysteresis
  hotRatePct : BitVec 8 := 80
  kwPeriodUs : BitVec 10 := 100
  spitPeriodMs : BitVec 8 := 10
  tsnValid : Bool := false
  warm : Int := 300
  hotTh : Int := 600
  critTh : Int := 700
  bandBase : Int := 200
  hyst : Nat := 30
  hotAction : BitVec 2 := 0
  keepWarm : Bool := false
  spitPattern : BitVec 3 := 0
  keepWarmNs : BitVec 10 := 200
  headlandMinUs : BitVec 10 := 40
  hotBlank : Nat := 0
  blanks : List Nat := []                -- lines counted in it, newest first, at most 256: run × 2^32 + line (R281)
  spits : Nat := 0
  spitCounter : Nat := 0
  spitLeft : Nat := 0                    -- spit lines of a burst not begun
  headland : Bool := false               -- a headland window is open (R286)
  spitDone : Bool := false               -- a burst has started in it (R289)
  spitLast : Option DWord := none        -- start of the last burst, and of the last keep-warm piece (R288, R289)
  kwLast : Option DWord := none
  hotDue : Bool := false                 -- HOT under HOT_ACTION 2: CONTAIN follows once the rows have ended (R283)
  critLine : Word := 0xFFFFFFFF
  critSlotsA : BitVec 8 := 0
  critSlotsB : BitVec 8 := 0
  tsnTab : Vector (BitVec 16) 17 := Vector.replicate 17 0
  deriving DecidableEq, Repr

/-- One head port (R244, Tables 6.17, 10.8). -/
structure Port where
  enable : Tv 1 := Tv.mk3 0
  hpen : Tv 1 := Tv.mk3 0
  headValid : Bool := false
  headId : DWord := 0
  idVerified : Bool := false
  rows2 : Bool := false
  staggered : Bool := false
  banks : BitVec 2 := 0
  blocks : BitVec 8 := 0
  group : Bool := false
  phases : BitVec 2 := 0
  addrM1 : BitVec 6 := 0
  rotStep : BitVec 6 := 0
  stagger : BitVec 16 := 0
  slotGap : BitVec 10 := 0
  tmin : Nat := 0
  rowA : Row := {}
  rowB : Row := {}
  underruns : Nat := 0
  drops : Nat := 0
  consecDrops : Nat := 0
  consecUnderruns : Nat := 0
  underrunLines : List Nat := []         -- runs and lines counted as an underrun, 2^32 times the epoch plus the line
  wrDrop : Nat := 0
  lost : Nat := 0
  lines : Word := 0
  resetting : Bool := false              -- a unit reset waits for its rows to end (R96)
  piece : Option Piece := none
  slots : List LineSlot := []            -- granted and, as far as the hub knows, not freed
  heat : Heat := {}
  scan : Scan := {}
  calSel : Fin 4 := 0
  waveSel : Fin 4 := 0
  shareSel : Fin 4 := 0
  deriving DecidableEq, Repr

/-! ## DMA -/

/-- A read in flight or arrived (R189). -/
structure ReadReq where
  num : Word                             -- running number of its descriptor
  line : Nat                             -- line within the descriptor (swath feed)
  second : Bool                          -- of SrcB
  cache : Bool                           -- job cache
  address : Nat
  off : Nat                              -- its first byte, of the source line or of the general MOVE
  len : Nat
  half : Nat := 0                        -- half-slot of the buffer it holds: slot `half / 2` of the channel (R189)
  data : Option (List Byte) := none
  failed : Bool := false                 -- it failed: the read that halted the channel, or one after it (R239)
  dead : Bool := false                   -- its data is wanted no longer: it holds its tag and its space until it ends (Table 7.1)
  deriving DecidableEq, Repr

/-- Where a write goes. -/
inductive Dest where
  | host (address : Nat)
  | cache (address : Nat)
  | window (address : Nat)
  | line (gp : Fin 112) (epoch line : Nat) (offset : Nat) (lastOfLine : Bool)
  deriving DecidableEq, Repr

/-- A beat of at most 32 bytes in a write-engine entry (R222, R236, Table 7.1 row 5). -/
structure Beat where
  num : Word
  dest : Dest
  bytes : List Byte
  last : Bool := false                   -- the last beat of its entry
  frees : List Nat := []                 -- half-slots of the buffer whose last byte it sends
  deriving DecidableEq, Repr

/-- A descriptor started and not yet complete. -/
structure Running where
  num : Word
  desc : Desc
  posted : Bool                          -- it holds an entry of the list
  epoch : Nat := 0                       -- run it feeds, and the line of that run its line 0 is (swath feed)
  firstLine : Nat := 0
  count : Nat                            -- lines, or bytes; lowered when its job ends earlier (R233)
  issued : Nat := 0                      -- lines, or bytes, for which every read was issued
  partA : Nat := 0                       -- bytes issued of the present source lines of SrcA and SrcB
  partB : Nat := 0
  formed : Nat := 0                      -- lines, or bytes, that are in entries of the write engine
  ports : Nat := 0                       -- ports whose segment of the next line is in an entry
  early : Bool := false                  -- of the segment with the failing request, what comes before it is written (R239)
  retries : Nat := 0                     -- R238
  deriving DecidableEq, Repr

/-- A FENCE waiting for the writes before it (R237). -/
structure FenceWait where
  num : Word
  posted : Bool
  failed : Bool := false                 -- its read halted the channel (R241)
  retries : Nat := 0
  deriving DecidableEq, Repr

/-- One DMA channel (R220 to R243). -/
structure Channel where
  state : BitVec 2 := 3
  retries : Nat := 0                     -- of the descriptor that last retried, until it completes (Table 9.5)
  retryNum : Word := 0                   -- that descriptor
  errorCode : BitVec 2 := 0
  swathFeed : Bool := false
  retryMax : BitVec 3 := 0
  swath : Fin 16 := 0
  vector : BitVec 9 := 0
  list : List Desc := []
  next : Word := 0
  done : Word := 0xFFFFFFFF
  fenced : Word := 0xFFFFFFFF
  errIdx : Word := 0
  epoch : Nat := 0                       -- run it feeds, 0 none
  nextLine : Nat := 0                    -- next line of that run to start a descriptor at
  chain : List Desc := []                -- rest of the chain's present pass
  chainWhole : List Desc := []
  chainEnd : Nat := 0
  running : List Running := []
  reads : List ReadReq := []
  beats : List Beat := []
  fences : List FenceWait := []
  lastHost : Option Nat := none          -- last host address written
  hostDropped : Bool := false            -- a host write was dropped since (R241)
  excess : Bool := false                 -- it held more than 16 slots when the pre-emptive discipline began (R225)
  deriving DecidableEq, Repr

/-- The DMA engine (Table 9.6). -/
structure Dma where
  ch : Vector Channel 32 := Vector.replicate 32 {}
  rrFeed : Nat := 0                      -- last swath-feed channel the read engine served, and last general one
  rrGen : Nat := 0
  wrFeed : Nat := 0                      -- the same for the write engine
  wrGen : Nat := 0
  turn : Option (Fin 32) := none         -- channel whose write-engine entry is being sent (R224)
  drop : Nat := 0
  ecc : Nat := 0
  deriving DecidableEq, Repr

/-! ## Motion -/

/-- A speed set-point (R172). -/
structure SpeedCmd where
  speed : Int                            -- 0.01 rpm
  accel : Nat
  deriving DecidableEq, Repr

/-- A recatch in progress (R346). Probe currents in A, in the order taken. -/
structure Recatch where
  since : DWord                          -- first reference
  start : DWord                          -- step 1 of the present attempt
  atEnable : Bool                        -- begun by an enable (R347)
  probes : List (Rat × Rat) := []
  resumed : Bool := false                -- PWM has resumed (step 6)
  good : Bool := true                    -- resid has stayed below ResidualPct since
  deriving DecidableEq, Repr

/-- A transport axis (chapter 14). -/
structure Tax where
  enable : Tv 1 := Tv.mk3 0
  state : BitVec 3 := 0
  dutyClamp : Bool := false
  capActive : Bool := false
  capHit : Bool := false                 -- the web, 20 ms ahead, has reached the cap (R267)
  cap : Option Rat := none               -- rpm
  configured : Bool := false
  polePairs : Nat := 0
  angleSrc : Nat := 0
  coast : Bool := false                  -- LossAction 1
  pwmHz : Nat := 0
  deadTime : Nat := 0
  tMinNs : Nat := 0
  ratedRpm : Nat := 0
  kp : Nat := 0
  ki : Nat := 0
  accelMax : Nat := 0
  advance : Vector (BitVec 16) 32 := Vector.replicate 32 0
  queue : List SpeedCmd := []
  target : Rat := 0                      -- rpm
  accel : Nat := 0                       -- of the last set-point; 0 and one above AccelMax stand for AccelMax
  ref : Rat := 0                         -- rpm
  speed : Rat := 0                       -- rpm, latest estimate
  iq : Rat := 0                          -- mA
  id : Rat := 0
  angle : Rat := 0                       -- turns, electrical
  olAngle : Rat := 0                     -- open-loop angle
  olFreq : Rat := 0                      -- open-loop speed, rpm
  pa : Rat := 0
  pb : Rat := 0
  fa : Rat := 0
  fb : Rat := 0
  w : Rat := 0                           -- electrical speed, turns/s
  th : Rat := 0
  resid : Rat := 0
  emf : Rat := 0
  integ : Rat := 0
  idInteg : Rat := 0
  iqInteg : Rat := 0
  ia : Rat := 0
  ib : Rat := 0
  duty : List Rat := []
  ea : Rat := 0                          -- d(rotor flux)/dt, V
  eb : Rat := 0
  follow : Bool := false                 -- State 1 entered from State 2 (R338 step 5)
  agree : Rat := 0                       -- s for which the observer has agreed at 4 %
  slew : Rat := 0                        -- angle difference still to slew out, turns
  slewStep : Rat := 0                    -- its rate, turns/s
  recatch : Option Recatch := none
  lineUp : Option (Bool × Bool) := none  -- VU - VV and VV - VW positive at the last sample of a coast (R347)
  crossUv : Option DWord := none         -- last zero crossing of VU - VV in it
  crossVw : Option DWord := none         -- last zero crossing of VV - VW
  skipRun : Nat := 0
  openRun : Nat := 0
  zero : Word := 0
  aligning : Bool := false
  stopping : Bool := false               -- ramping to 0 under STOP (R351)
  masterOf : BitVec 16 := 0
  countsPerRev : Nat := 1
  rs : BitVec 16 := 0
  ls : BitVec 16 := 0
  psi : BitVec 16 := 0
  imax : BitVec 16 := 0
  shunt : BitVec 16 := 0
  ascRpm : BitVec 16 := 0
  ifCurrent : BitVec 16 := 0
  ifRamp : BitVec 16 := 100
  encRev : Word := 0
  residualPct : BitVec 8 := 25
  skips : Nat := 0
  late : Nat := 0
  recatches : Nat := 0
  deriving DecidableEq, Repr

/-- The DC bus and the brake chopper (Tables 14.2, 14.4). -/
structure Bus where
  code : BitVec 12 := 0
  state : BitVec 2 := 0
  regenLimit : Bool := false
  ovWarnActive : Bool := false
  configured : Bool := false
  brkOff : BitVec 12 := 0
  brkOn : BitVec 12 := 0
  ovWarn : BitVec 12 := 0
  ovTrip : BitVec 12 := 0
  brkIMin : BitVec 12 := 100
  riseCodes : BitVec 8 := 8
  scale : Word := 0
  pscale : Word := 0
  taxWrDrop : Nat := 0
  gate : Bool := false                   -- BRK_GATE
  history : List (BitVec 12) := []       -- bus samples since BRK_GATE rose, newest first, at most 201
  lowRun : Nat := 0                      -- consecutive BRK_ISNS samples below BrkIMin
  braking : Nat := 0                     -- samples since BRK_GATE rose
  runOn : Nat := 0                       -- consecutive samples at or above BrkOn
  runOff : Nat := 0
  runWarn : Nat := 0
  runTrip : Nat := 0
  deriving DecidableEq, Repr

/-- A trapezoidal move (R360). -/
structure Move where
  target : Word
  vmax : Nat
  accel : Nat
  decel : Nat
  deriving DecidableEq, Repr

/-- A set-point waiting in an auxiliary axis's queue (R195). -/
inductive AuxCmd where
  | move (relative : Bool) (m : Move)
  | profile (vmax accel decel : Nat)
  | stop (now : Bool)
  deriving DecidableEq, Repr

/-- A homing in progress (Table 15.1). -/
structure Homing where
  method : Nat
  switch : Nat
  limit : Nat
  negative : Bool
  debounceMs : Nat
  chatterN : Nat
  chatterWinMs : Nat
  fastV : Nat
  slowV : Nat
  backoff : Nat
  accel : Nat
  step : Nat
  mark : Word := 0                       -- latched point
  released : Bool := false
  edges : List DWord := []               -- raw transitions in the window (R369)
  deriving DecidableEq, Repr

/-- A gearing in force or pending (R367). -/
structure Gear where
  channel : Fin 4
  num : Int
  den : Nat
  c0 : Word
  p0 : Rat := 0                          -- exact position at c0
  deriving DecidableEq, Repr

/-- An auxiliary axis (chapter 15). -/
structure Aux where
  enable : Tv 1 := Tv.mk3 0
  state : BitVec 3 := 0
  posValid : Bool := false
  accelOverridden : Bool := false
  idle : Bool := false
  configured : Bool := false
  idlePct : BitVec 8 := 0
  pwmKhz : BitVec 8 := 0
  stallDeg : BitVec 8 := 80
  rmOhm : BitVec 16 := 0
  ke : BitVec 16 := 0
  irunMa : BitVec 16 := 0
  idleDelay : BitVec 12 := 0
  stepsPerRev : BitVec 10 := 0
  pos : Word := 0
  posFrac : Rat := 0                     -- part of a microstep not yet in pos
  speed : Rat := 0                       -- microsteps/s, signed
  load : Nat := 0                        -- |δ| in 0.1°
  loadSum : Rat := 0
  loadN : Nat := 0
  stallRun : Nat := 0
  stallStart : Word := 0
  stepStart : Word := 0                  -- p at the start of the present full step
  loadLow : Bool := false                -- some period of the step lay below 1 rev/s
  queue : List AuxCmd := []
  move : Option Move := none
  followOn : Option Move := none
  nextProfile : Option (Nat × Nat × Nat) := none
  moveAccel : Option Nat := none         -- Accel of the last AUX_PROFILE taken in a move, for later moves (R361)
  lastDecel : Option Nat := none         -- Decel given last
  stopping : Option Nat := none          -- decelerating to a stop at this rate
  braking : Bool := false                -- in the deceleration toward the target
  cruise : Bool := false                 -- holding speed until the steeper deceleration begins (R361)
  deenergise : Bool := false             -- de-energise at standstill (R364)
  stopEvent : Option Nat := none         -- AUX kind due at standstill
  homing : Option Homing := none
  gear : Option Gear := none
  gearNext : Option Gear := none         -- engages at the forward crossing of its c0
  lmUh : BitVec 16 := 0
  corrPct : BitVec 8 := 50
  iscale : Word := 0
  stalls : Nat := 0
  dutyA : Rat := 0
  dutyB : Rat := 0
  ia : Rat := 0
  ib : Rat := 0
  deriving DecidableEq, Repr

/-- Debounce state of one switch (R368). -/
structure Switch where
  raw : Bool := true
  active : Bool := false
  heldReads : Nat := 0                   -- reads since the one that began the raw level
  debounceMs : Nat := 0                  -- of the AUX_HOME that named it last
  deriving DecidableEq, Repr

/-- Motors and axes. -/
structure Motion where
  tax : Vector Tax 4 := Vector.replicate 4 {}
  bus : Bus := {}
  aux : Vector Aux 8 := Vector.replicate 8 {}
  vbusMv : BitVec 16 := 0
  vbusSrc : Bool := false
  swPol : BitVec 16 := 0
  switches : Vector Switch 16 := Vector.replicate 16 {}
  switchEdge : Vector (List Word) 16 := Vector.replicate 16 []  -- commanded p of each axis at the raw read that began the level
  auxWrDrop : Nat := 0
  deriving DecidableEq, Repr

/-! ## Faults -/

/-- One fault source (Table 16.9). -/
structure Source where
  cls : Tv 3
  force : Tv 1 := Tv.mk3 0
  cause : Bool := false                  -- the real cause is present
  hotCause : Bool := false               -- PORT_FLT: the port is HOT under HOT_ACTION 2 (R283)
  latched : Bool := false
  forced : Bool := false
  left : BitVec 3 := 0                   -- class it latched at, whose left state the latch waits for (R377)
  wire : Bool := false
  count : Nat := 0
  deriving DecidableEq, Repr

/-- A fault record (Table 16.5). -/
structure FaultRecord where
  source : BitVec 16 := 0xFFFF
  cls : BitVec 8 := 0
  forced : Bool := false
  escalated : Bool := false
  complete : Bool := false
  valid : Bool := false
  merged : Nat := 0
  ts : DWord := 0
  escSource : BitVec 16 := 0
  escClass : BitVec 8 := 0
  doneDelta : Nat := 0
  mergeMap : BitVec 1024 := 0
  deriving DecidableEq, Repr

/-- A reaction in progress (R386). -/
structure Reaction where
  cls : Nat
  first : Bool                           -- the first-fault record is this reaction's
  deriving DecidableEq, Repr

/-- The fault collector (chapter 16). -/
structure Faults where
  src : List Source                      -- IDs 0x000 to 0x2BF
  firstRec : FaultRecord := {}
  latestRec : FaultRecord := {}
  reaction : Option Reaction := none
  units : List (FaultUnit × Nat) := []   -- contained units and the source that contained each
  outClass : Tv 3 := Tv.mk3 4
  gateDual : Tv 4 := Tv.mk3 0
  gateHigh : Tv 1 := Tv.mk3 0
  gateFilter : Tv 7 := Tv.mk3 10
  estopFilter : Tv 7 := Tv.mk3 10
  gpioEnable : Tv 16 := Tv.mk3 0
  gpioHigh : Tv 16 := Tv.mk3 0
  wrDrop : Nat := 0
  asserted : Bool := true                -- FAULT_OUT driven to "fault asserted"
  estop : Option (Bool × Bool) := none   -- filtered ESTOP_P, ESTOP_N
  dualRail : Vector (BitVec 16) 7 := Vector.replicate 7 0     -- FRW_FLTCFG
  activeHigh : Vector Bool 7 := Vector.replicate 7 false
  filter : Vector (BitVec 7) 7 := Vector.replicate 7 10
  deriving DecidableEq, Repr

/-! ## OTP -/

/-- One OTP row: the bits that read solid 1 and the bits that read marginal (R393). -/
structure OtpRow where
  ones : DWord := 0
  marginal : DWord := 0
  deriving DecidableEq, Repr

/-- A queued OTP request (R178, R396, R402, R404). -/
inductive OtpReq where
  | read (p : Packet) (row count : Nat) (privileged : Bool)
  | program (row : Nat) (data : DWord) (vendor : Bool)
  | finalise (region : Nat) (bitCount : Word) (digest : List Byte)
  deriving DecidableEq, Repr

/-- The OTP controller and its shadows (Table 17.12, R405). -/
structure Otp where
  queue : List OtpReq := []
  cmdRow : BitVec 12 := 0
  statMarginal : Bool := false
  statRedirected : Bool := false
  statReadLocked : Bool := false
  lastStatus : BitVec 8 := 0
  lastRow : BitVec 12 := 0
  dlo : Word := 0
  dhi : Word := 0
  lock : Tv 9 := Tv.mk3 0
  integ : BitVec 6 := 0
  sealedR : BitVec 3 := 0                -- KEY, OEM_CONFIG, OEM_DATA
  debugOpen : Bool := false
  feat : Tv 9 := Tv.mk3 0
  marRow : BitVec 12 := 0
  marCount : Nat := 0
  marSeen : List Nat := []               -- rows that have raised OTP_MARGIN since cold start
  control : DWord := 0
  deviceId : DWord := 0
  trims : List DWord := []               -- logical rows of VENDOR_TRIM: trims of the sense sources and of the dies (R64, R262)
  headPwrWait : Nat := 200
  coldScan : Bool := false
  patchKeyOk : Bool := false
  netShadow : Option (Word × BitVec 6) := none   -- address and prefix length of OEM_CONFIG, when IpValid is 1 (R443)
  slotDebug : BitVec 8 := 0              -- Debug attribute of each key slot (R409)
  deriving DecidableEq, Repr

/-! ## The rest of the device -/

/-- A posted write accepted and not yet in effect (R431). -/
structure Posted where
  block : Block
  master : Master
  privileged : Bool
  address : Nat
  words : List (Word × BitVec 4)         -- one word for a register; words and byte enables for a memory window
  deriving DecidableEq, Repr

/-- Memory registers (Table 18.3) and the writes in flight. -/
structure MemRegs where
  posted : List Posted := []
  errBank : Vector (BitVec 4) 8 := Vector.replicate 8 0
  errValid : Vector Bool 8 := Vector.replicate 8 false
  errAddr : Vector Word 8 := Vector.replicate 8 0
  ce : Vector Nat 8 := Vector.replicate 8 0
  vote : Vector Nat 8 := Vector.replicate 8 0
  pvDrop : Nat := 0
  wrDrop : Nat := 0
  wpDrop : Nat := 0
  badWords : List (Nat × Nat × Nat) := []   -- die, bank, byte offset of a word with two bits in error
  flipped : List (Nat × Nat × Nat) := []    -- the same of a word with one bit in error, which its read corrects (R417)
  latches : List (Master × Nat × Word) := []
  received : List (Nat × Word) := []     -- the values the hub last received from registers of dies (R445)
  deriving DecidableEq, Repr

/-- PCIe endpoint and MSI-X (Table 19.7, R446, R447). -/
structure Pci where
  speed : BitVec 4 := 0
  width : BitVec 6 := 0
  power : BitVec 2 := 0
  perst : Bool := false
  down : Bool := false                   -- the link went down (R241)
  uncorrectable : Nat := 0
  correctable : Nat := 0
  perstFalls : Nat := 0
  flrs : Nat := 0
  msixEnable : Bool := false
  functionMask : Bool := false
  msixAddr : Vector DWord 512 := Vector.replicate 512 0   -- the table of BAR2 (R446)
  msixData : Vector Word 512 := Vector.replicate 512 0
  vecMask : BitVec 512 := BitVec.allOnes 512
  vecPending : BitVec 512 := 0
  deriving DecidableEq, Repr

/-- Management Ethernet (Table 19.8). -/
structure Eth where
  ip : Word := 0
  prefixLen : BitVec 6 := 0
  valid : Bool := false
  fromOtp : Bool := false
  mac : BitVec 48 := 0
  link : Bool := false
  rx : Nat := 0
  tx : Nat := 0
  phy : BitVec 5 := 0
  reg : BitVec 5 := 0
  write : Bool := false
  pendingMdio : Bool := false
  data : BitVec 16 := 0
  peers : List (Via × BitVec 48) := []   -- Ethernet source address of the last frame accepted from an address (R443)
  deriving DecidableEq, Repr

/-- Test multiplexers and JTAG (R412, R413, R444). -/
structure Tmx where
  signal : Vector (BitVec 12) 8 := Vector.replicate 8 0
  die : Vector (BitVec 3) 8 := Vector.replicate 8 0
  vendor : BitVec 8 := 0                 -- pins selected by a VENDOR session
  high : List Nat := []                  -- toggles of Table 17.10 whose level is 1: die × 4,096 + signal
  deriving DecidableEq, Repr

/-- One furrow die's status (Table 19.11). -/
structure Die where
  tine : BitVec 2 := 0
  resetting : Bool := false
  latches : List (DWord × Nat) := []     -- timestamp and fire-timebase counters latched together, newest first, at most 256 (R262)
  retrains : Nat := 0
  codeErrors : Nat := 0
  dataCredits : Nat := 24                -- hub to furrow (R29)
  ctrlCredits : Nat := 8
  dataCreditsUp : Nat := 24
  ctrlCreditsUp : Nat := 8
  ctrlWait : List CtrlMsg := []          -- messages that wait for a CTRL credit, towards the die and towards the hub, oldest first
  ctrlWaitUp : List CtrlMsg := []
  dataWaitUp : Nat := 0                  -- scan results that wait for a DATA credit towards the hub
  hands : BitVec 8 := 0                  -- handshake toggles of the link: bits 3:0 at the hub, 7:4 at the die (Table 17.10)
  deriving DecidableEq, Repr

/-- Mode, starts, references, pace, temperatures. -/
structure Sys where
  mode : Tv 4 := Tv.mk3 0
  bootStep : BitVec 4 := 1
  changing : Bool := false
  target : BitVec 4 := 0                 -- mode that a SET_MODE in progress leads to
  taken : Bool := false                  -- a row or an engine has taken it (R16, Table 1.3a)
  resets : List FaultUnit := []          -- unit resets that a control-plane restart has left to run to their end (R16)
  warm : Bool := false                   -- the present BOOT is that of a warm start
  warmDue : Bool := false                -- RESET variant 0 was answered (R90)
  lastStart : BitVec 2 := 0
  shadowReread : Bool := false
  tineRetrained : Bool := false
  coldScan : Bool := false
  refFail : BitVec 2 := 0
  bootFail : BitVec 4 := 0
  wakeSource : BitVec 4 := 0
  cpRestarts : Nat := 0
  held : Bool := true                    -- held in reset (R53)
  porstN : Bool := false
  wrstN : Bool := true
  coldArgs : Option ColdStart := none    -- a cold start held at step 1 (R58)
  patchLevel : BitVec 16 := 0
  cache0 : BitVec 16 := 0
  cache1 : BitVec 16 := 0
  refLost : BitVec 2 := 0
  mgmtSec : Bool := false
  hostIf : BitVec 2 := 0
  packageP65 : Bool := false
  supplyOrder : Bool := false
  now : DWord := 0
  pace : Vector (BitVec 16) 8 := Vector.replicate 8 0
  paceLow : Bool := false
  fresh : Nat := 0                       -- counter behind the free values (log 2)
  deriving DecidableEq, Repr

/-- Everything but the memory banks, the OTP array and the command queue. -/
structure Dev where
  sys : Sys
  ses : Sessions
  ev : Events
  pos : Position
  armed : Option Armed
  activeJob : Option Nat
  activeSwaths : List (Fin 16)           -- of the active job
  activeEnded : List (Fin 16)            -- of those, ended by its Length (R216)
  activeLines : Vector Nat 16            -- lines fired of the active job on each swath (Table 6.12)
  swaths : Vector Swath 16
  ports : Vector Port 112
  dma : Dma
  mot : Motion
  flt : Faults
  otp : Otp
  mr : MemRegs
  pci : Pci
  eth : Eth
  tmx : Tmx
  dies : Vector Die 7
  sent : List Emission
  deriving DecidableEq, Repr

/-- The two byte spaces: the memory windows of BAR0 and the job cache. -/
structure Banks where
  win : List Host.Cell := []
  cache : List Host.Cell := []
  deriving DecidableEq, Repr

/-- The whole machine. `rows` is the OTP array, rows strictly rising, blank rows not listed. -/
structure State where
  dev : Dev
  mem : Banks
  rows : List (Nat × OtpRow)
  pending : List Instr
  deriving DecidableEq, Repr

/-- Why a step could fault. The spec gives this part no way to stop: its errors are states, status codes and
counters. -/
inductive Fault where
  /-- Raised by no command (safe: nothing is hidden by it). -/
  | neverRaised
  deriving DecidableEq, Repr

/-- Why a step is refused. -/
inductive Refusal where
  /-- The command has no meaning yet; raised by the arms of exec alone (safe: the run stops). -/
  | notModelled (mnemonic : String)
  /-- A JTAG instruction beyond IEEE 1149.1 in TEST with an entitled session open: a vendor instruction whose effect
  the spec does not give (R413); raised by JTAG_TAP_ACCESS (safe: the run stops). -/
  | vendorJtagInstruction
  deriving DecidableEq, Repr

/-! ## Reset values -/

/-- Default class of a hub source (Table 16.2). -/
def hubDefaultClass (id : Nat) : BitVec 3 :=
  if id == 0x001 || id == 0x002 || id == 0x00D || id == 0x00E || id == 0x010 then 5
  else if id == 0x004 || id == 0x008 then 4
  else if id == 0x006 || id == 0x007 || id == 0x012 || id == 0x013 || id == 0x016 || id == 0x017 then 1
  else if id < 0x018 then 2
  else if id < 0x028 then 3
  else if id < 0x048 then 2
  else if id < 0x058 then (if id % 4 == 1 then 4 else if id % 4 == 2 then 5 else 2)
  else if id < 0x068 then (if id % 4 == 0 then 4 else if id % 4 == 1 then 3 else if id % 4 == 2 then 5 else 1)
  else if id < 0x088 then (if id % 4 == 3 then 3 else 2)
  else 2

/-- Default class of a furrow-die source at offset `o` from its base (Table 16.3). -/
def dieDefaultClass (o : Nat) : BitVec 3 :=
  if o < 0x30 then (if o % 3 == 2 then 2 else 3)
  else if o == 0x30 || o == 0x31 || o == 0x34 || o == 0x35 || o == 0x38 || o == 0x3B then 3
  else if o == 0x32 || o == 0x33 || o == 0x3A then 1
  else 2

/-- Default class of a source (Tables 16.2, 16.3). -/
def defaultClass (id : Nat) : BitVec 3 :=
  if id < 0x100 then hubDefaultClass id else dieDefaultClass ((id - 0x100) % 0x40)

/-- The 704 sources at their defaults (R380). -/
def resetSources : List Source := (List.range 704).map fun id => { cls := Tv.mk3 (defaultClass id) }

/-- Session IDs 1 to 255, in the order the model hands them out first (log 6). -/
def resetFreeIds : List (BitVec 8) := (List.range 255).map fun i => BitVec.ofNat 8 (i + 1)

/-- Queue pairs at reset: vector q (Table 5.19). -/
def resetQps : Vector QueuePair 256 :=
  ⟨⟨(List.range 256).map fun q => { vector := BitVec.ofNat 9 q }⟩, by simp⟩

/-- The session block at reset. -/
def resetSessions : Sessions := { freeIds := resetFreeIds, qp := resetQps }

/-- The device at reset. -/
def Dev.reset : Dev :=
  { sys := {}, ses := resetSessions, ev := {}, pos := {}, armed := none, activeJob := none, activeSwaths := [], activeEnded := [], activeLines := Vector.replicate 16 0
    swaths := Vector.replicate 16 {}, ports := Vector.replicate 112 {}, dma := {}, mot := {},
    flt := { src := resetSources }, otp := {}, mr := {}, pci := {}, eth := {}, tmx := {},
    dies := Vector.replicate 7 {}, sent := [] }

/-- The machine right after reset: held in reset, every register at its reset value, the memory as R84 and R416
leave it, a blank OTP array (log 9), no command waiting. -/
def State.reset : State := { dev := Dev.reset, mem := {}, rows := [], pending := [] }

end Sys2Proof.Machine
end

