-- ==== Sys2Proof/Machine/Operands.lean ====
section
/-! DEFINITION. The operands of the commands: packets as bytes (Table 5.1), parameter fields, and the checks that
name the field at fault (R108, R111, R139). -/

namespace Sys2Proof.Machine

/-- A refusal: status code and packet offset. -/
abbrev Chk := Except (Nat × Nat)

/-- Refuse unless a condition holds. -/
def need (b : Bool) (code offset : Nat) : Chk Unit := if b then .ok () else .error (code, offset)

/-- Refuse with ST_BAD_PARAM at a parameter offset (R108) unless a condition holds. -/
def needP (b : Bool) (param : Nat) : Chk Unit := need b stBadParam (24 + param)

/-- Refuse with ST_BUSY unless a condition holds. -/
def needFree (b : Bool) : Chk Unit := need b stBusy noField

/-- Parameter bytes as an unsigned number. -/
def pU (ps : List Byte) (offset size : Nat) : Nat := leNat ((ps.drop offset).take size)

/-- Parameter bytes as a signed number. -/
def pI (ps : List Byte) (offset size : Nat) : Int := toSigned (8 * size) (pU ps offset size)

/-- Reserved parameter bytes must be 0; the first that is not is the field at fault (R139). -/
def needZero (ps : List Byte) (offset : Nat) : Nat → Chk Unit
  | 0 => .ok ()
  | n + 1 =>
    if ps.getD offset 0 = 0 then needZero ps (offset + 1) n else .error (stBadParam, 24 + offset)

/-- A field within its range, inclusive. -/
def needRange (ps : List Byte) (offset size lo hi : Nat) : Chk Unit :=
  needP (lo ≤ pU ps offset size && pU ps offset size ≤ hi) offset

/-- A signed field within its range, inclusive. -/
def needRangeI (ps : List Byte) (offset size : Nat) (lo hi : Int) : Chk Unit :=
  needP (decide (lo ≤ pI ps offset size) && decide (pI ps offset size ≤ hi)) offset

/-- Flags.Mac of a packet. -/
def pktMac (p : Packet) : Bool := p.flags.toNat.testBit 1

/-- The parameters of a packet. -/
def pktParams (p : Packet) : List Byte := p.payload.take p.length.toNat

/-- The bytes a packet has on the wire. -/
def pktBytesReceived (p : Packet) : Nat := 24 + p.payload.length + 4

/-- The 24 header bytes (Table 5.1). -/
def headerBytes (version flags : Byte) (session : BitVec 16) (seq : Word) (opcode variant : Byte)
    (length : Nat) (status : Word) (tag : DWord) : List Byte :=
  [version, flags] ++ leBytes 2 session.toNat ++ leBytes 4 seq.toNat ++ [opcode, variant]
    ++ leBytes 2 length ++ leBytes 4 status.toNat ++ leBytes 8 tag.toNat

/-- The bytes before the CRC. -/
def pktBody (p : Packet) : List Byte :=
  headerBytes p.version p.flags p.session p.seq p.opcode p.variant p.length.toNat p.status p.tag ++ p.payload

/-- Step 1 of Table 5.3. -/
def pktStep1 (p : Packet) : Bool :=
  28 ≤ pktBytesReceived p && pktBytesReceived p ≤ 4096 && p.crc == crc32c (pktBody p)

/-- A packet from received bytes (Table 5.1); none when there are fewer than 28. -/
def parsePacket (via : Via) (epoch : Word) (replyLen : BitVec 16) (replyAddr : DWord) (bs : List Byte) :
    Option Packet :=
  if bs.length < 28 then none else
  some {
    via, epoch, replyLen, replyAddr
    version := bs.getD 0 0, flags := bs.getD 1 0
    session := BitVec.ofNat 16 (pU bs 2 2), seq := BitVec.ofNat 32 (pU bs 4 4)
    opcode := bs.getD 8 0, variant := bs.getD 9 0
    length := BitVec.ofNat 16 (pU bs 10 2), status := BitVec.ofNat 32 (pU bs 12 4)
    tag := BitVec.ofNat 64 (pU bs 16 8)
    payload := (bs.drop 24).take (bs.length - 28)
    crc := BitVec.ofNat 32 (pU bs (bs.length - 4) 4) }

/-- The bytes of a reply or event packet, CRC included. -/
def replyBytes (r : Reply) : List Byte :=
  let body := headerBytes 8 r.flags r.session r.seq r.opcode r.variant r.params.length r.status r.tag
    ++ r.params ++ r.mac
  body ++ leBytes 4 (crc32c body).toNat

/-- The MAC of a packet with these header fields (R104). -/
def replyMac (key : List Byte) (r : Reply) : List Byte :=
  (hmacSha256 key (headerBytes 8 r.flags r.session r.seq r.opcode r.variant r.params.length r.status r.tag
    ++ r.params)).take 16

/-- A reply of `n` parameter bytes can be carried by the transport: 1,412 over UDP, the reply buffer over PCIe with header,
CRC and MAC, and 4,060 (4,052 with a MAC) at most (R102, R105, R124, R147). -/
def replyFits (p : Packet) (mac : Bool) (n : Nat) : Bool :=
  let room := decide (n ≤ if mac then 4052 else 4060)
  match p.via with
  | .udp _ _ => decide (n ≤ 1412)
  | .pcie _ => room && decide (28 + n + (if mac then 16 else 0) ≤ p.replyLen.toNat)
  | .spi => room

end Sys2Proof.Machine
end

