-- ==== Sys2Proof/Machine/Ops.lean ====
section
/-! DEFINITION. The named operations over State: indexed updates, memory, the shapes of a meaning, what is present,
MSI-X messages, replies. -/

namespace Sys2Proof.Machine

/-! ## Indexed data -/

/-- Change one element. -/
def vmod {α : Type} {n : Nat} (v : Vector α n) (i : Fin n) (f : α → α) : Vector α n := v.set i (f v[i])

/-- Change every element. -/
def vall {α : Type} {n : Nat} (f : α → α) (v : Vector α n) : Vector α n :=
  ⟨⟨v.toList.map f⟩, by simp⟩

/-- Change every element, knowing its index. -/
def vallIdx {α : Type} {n : Nat} (f : Nat → α → α) (v : Vector α n) : Vector α n :=
  ⟨⟨v.toList.mapIdx f⟩, by simp⟩

/-- The numbers below `n`, as indices. -/
def fins (n : Nat) : List (Fin n) := List.finRange n

/-! ## Memory -/

/-- What a byte reads as that no entry lists. -/
abbrev Blank := Nat → Byte

/-- The map windows of a furrow die read 0x14 where nothing was written (R84), everything else 0 (R416). -/
def winBlank : Blank := fun a =>
  let o := a % 2 ^ 24
  if 2 ^ 24 ≤ a && 0xB00000 ≤ o && o < 0xB40000 && (o - 0xB00000) % 0x4000 < 10240 then 0x14 else 0

/-- The job cache holds 0 where nothing was written (log 8). -/
def cacheBlank : Blank := fun _ => 0

/-- Read one byte. -/
def memGet (d : Blank) : List Host.Cell → Nat → Byte
  | [], a => d a
  | (k, v) :: r, a => if a < k then d a else if k = a then v else memGet d r a

/-- Write one byte, keeping the canonical form: addresses rising, nothing listed that reads as blank. -/
def memPut (d : Blank) : List Host.Cell → Nat → Byte → List Host.Cell
  | [], a, b => if b = d a then [] else [(a, b)]
  | (k, v) :: r, a, b =>
    if a < k then (if b = d a then (k, v) :: r else (a, b) :: (k, v) :: r)
    else if k = a then (if b = d a then r else (a, b) :: r)
    else (k, v) :: memPut d r a b

/-- Every listed address rises and no entry equals what an unlisted address reads as. -/
def memWf (d : Blank) (m : List Host.Cell) : Bool :=
  decide (m.Pairwise fun x y => x.1 < y.1) && m.all fun c => c.2 != d c.1

/-- Both byte spaces are in canonical form. -/
def Banks.wf (b : Banks) : Bool := memWf winBlank b.win && memWf cacheBlank b.cache

/-- Write bytes at ascending addresses. -/
def memPuts (d : Blank) (m : List Host.Cell) (a : Nat) : List Byte → List Host.Cell
  | [] => m
  | b :: bs => memPuts d (memPut d m a b) (a + 1) bs

/-- Read `n` bytes at ascending addresses. -/
def memGets (d : Blank) (m : List Host.Cell) (a : Nat) : Nat → List Byte
  | 0 => []
  | n + 1 => memGet d m a :: memGets d m (a + 1) n

/-- One byte of a memory window, by BAR0 offset. -/
def Banks.byte (b : Banks) (a : Nat) : Byte := memGet winBlank b.win a

/-- A byte written to a memory window. -/
def Banks.put (b : Banks) (a : Nat) (v : Byte) : Banks := { b with win := memPut winBlank b.win a v }

/-- Bytes written to a memory window. -/
def Banks.puts (b : Banks) (a : Nat) (vs : List Byte) : Banks := { b with win := memPuts winBlank b.win a vs }

/-- Bytes of a memory window. -/
def Banks.bytes (b : Banks) (a n : Nat) : List Byte := memGets winBlank b.win a n

/-- Bytes written to the job cache. -/
def Banks.cputs (b : Banks) (a : Nat) (vs : List Byte) : Banks :=
  { b with cache := memPuts cacheBlank b.cache a vs }

/-- Bytes of the job cache. -/
def Banks.cbytes (b : Banks) (a n : Nat) : List Byte := memGets cacheBlank b.cache a n

/-- Forget the listed bytes for which `p` holds: they read as blank. -/
def Banks.clear (b : Banks) (p : Nat → Bool) : Banks := { b with win := b.win.filter fun c => !p c.1 }

/-- BAR0 offset of byte 0 of job context `j` (Table 18.2). -/
def ctxBase (j : Nat) : Nat := 0x100000 + 0x2000 * j

/-- BAR0 offset of an offset in the window of furrow die `f`. -/
def dieBase (f : Nat) : Nat := 0x1000000 * (f + 1)

/-- BAR0 offset of map byte `n` of port gp (Table 12.5). -/
def mapAddr (gp n : Nat) : Nat := dieBase (gp / 16) + 0xB00000 + 0x4000 * (gp % 16) + n

/-- BAR0 offset of raw entry `n`. -/
def rawAddr (gp n : Nat) : Nat := dieBase (gp / 16) + 0xBC0000 + 0x8000 * (gp % 16) + 2 * n

/-- BAR0 offset of a calibration set record. -/
def calAddr (gp set : Nat) : Nat := dieBase (gp / 16) + 0xC40000 + 0x80 * (gp % 16) + 0x20 * set

/-- BAR0 offset of a share set (Table 10.2). -/
def shareAddr (gp set : Nat) : Nat := dieBase (gp / 16) + 0xC80000 + 0x80 * (gp % 16) + 0x20 * set

/-- BAR0 offset of wave entry `i` of a set (R271). -/
def waveAddr (gp set i : Nat) : Nat := dieBase (gp / 16) + 0xC90000 + 0x800 * (gp % 16) + 0x200 * set + 8 * i

/-- BAR0 offset of the slot of line `l` in a port's line buffer (R245). -/
def lineAddr (gp l : Nat) : Nat := dieBase (gp / 16) + 0x100000 + 0xA0000 * (gp % 16) + l % 256 * 2560

/-! ## The shapes of a meaning

`pending` is changed by none of them, the memory by `onMem` and `onAll`, the OTP array by `onAll` alone. -/

/-- The outcomes of a step of this machine. -/
abbrev Out := Host.Outcome State Fault Refusal

/-- A command whose effect lies in the device alone. -/
def onDev (f : State → Dev) (s : State) : Out := .next { s with dev := f s }

/-- A command that may write memory. -/
def onMem (f : State → Dev × Banks) (s : State) : Out :=
  let r := f s
  .next { s with dev := r.1, mem := r.2 }

/-- A command that may burn OTP rows and write memory. -/
def onAll (f : State → Dev × Banks × List (Nat × OtpRow)) (s : State) : Out :=
  let r := f s
  .next { s with dev := r.1, mem := r.2.1, rows := r.2.2 }

/-! ## Updates of one part of the device -/

def Dev.modSys (d : Dev) (f : Sys → Sys) : Dev := { d with sys := f d.sys }
def Dev.modSes (d : Dev) (f : Sessions → Sessions) : Dev := { d with ses := f d.ses }
def Dev.modEv (d : Dev) (f : Events → Events) : Dev := { d with ev := f d.ev }
def Dev.modRing (d : Dev) (f : List RingEntry → List RingEntry) : Dev :=
  d.modEv fun e => { e with ring := f e.ring }
def Dev.modPos (d : Dev) (f : Position → Position) : Dev := { d with pos := f d.pos }
def Dev.modMot (d : Dev) (f : Motion → Motion) : Dev := { d with mot := f d.mot }
def Dev.modFlt (d : Dev) (f : Faults → Faults) : Dev := { d with flt := f d.flt }
def Dev.modOtp (d : Dev) (f : Otp → Otp) : Dev := { d with otp := f d.otp }
def Dev.modMr (d : Dev) (f : MemRegs → MemRegs) : Dev := { d with mr := f d.mr }
def Dev.modPci (d : Dev) (f : Pci → Pci) : Dev := { d with pci := f d.pci }
def Dev.modEth (d : Dev) (f : Eth → Eth) : Dev := { d with eth := f d.eth }
def Dev.modDma (d : Dev) (f : Dma → Dma) : Dev := { d with dma := f d.dma }
def Dev.modPort (d : Dev) (i : Fin 112) (f : Port → Port) : Dev := { d with ports := vmod d.ports i f }
def Dev.modSwath (d : Dev) (i : Fin 16) (f : Swath → Swath) : Dev := { d with swaths := vmod d.swaths i f }
def Dev.modDie (d : Dev) (i : Fin 7) (f : Die → Die) : Dev := { d with dies := vmod d.dies i f }
/-- A handshake toggle of a link changes level: DATA out, DATA in, CTRL out and CTRL in, 0 to 3 at the hub and 4 to 7 at
the die (Table 17.10). -/
def Die.flip (x : Die) (k : Nat) : Die := { x with hands := x.hands ^^^ BitVec.ofNat 8 (2 ^ k) }

/-- A CTRL message is sent over a Tine link against a credit, or waits for one behind those that do (R29, Table 7.1 row 4).
A register access that completes within one command, and the telemetry, hold a credit while they run and none afterwards
(DESIGN CHOICE, log 70). -/
def Die.sendCtrl (x : Die) (toHub : Bool) (m : CtrlMsg) : Die :=
  if toHub then
    if x.ctrlCreditsUp = 0 then { x with ctrlWaitUp := x.ctrlWaitUp ++ [m] } else { x.flip 6 with ctrlCreditsUp := x.ctrlCreditsUp - 1 }
  else if x.ctrlCredits = 0 then { x with ctrlWait := x.ctrlWait ++ [m] } else { x.flip 2 with ctrlCredits := x.ctrlCredits - 1 }

/-- The pools of a link start over: every credit is free, nothing waits (R29, R31). -/
def Die.freshPools (x : Die) : Die :=
  { x with
    dataCredits := 24, ctrlCredits := 8, dataCreditsUp := 24, ctrlCreditsUp := 8, ctrlWait := [], ctrlWaitUp := []
    dataWaitUp := 0 }

/-- A scan result is sent to the hub on DATA, or waits for a credit (R29). -/
def Die.sendData (x : Die) : Die :=
  if x.dataCreditsUp = 0 then { x with dataWaitUp := x.dataWaitUp + 1 } else { x.flip 4 with dataCreditsUp := x.dataCreditsUp - 1 }

/-- A furrow die, given by its encoder copy (0 the hub), sends a CTRL message to the hub. -/
def Dev.tellHub (d : Dev) (k : Fin 8) (m : CtrlMsg) : Dev :=
  if h : k.val = 0 then d else d.modDie ⟨k.val - 1, by omega⟩ fun x => x.sendCtrl true m
def Dev.modCh (d : Dev) (i : Fin 32) (f : Channel → Channel) : Dev :=
  { d with dma := { d.dma with ch := vmod d.dma.ch i f } }
def Dev.modEnc (d : Dev) (i : Fin 4) (f : Enc → Enc) : Dev :=
  { d with pos := { d.pos with enc := vmod d.pos.enc i f } }
def Dev.modCopy (d : Dev) (i : Fin 4) (die : Fin 8) (f : EncCopy → EncCopy) : Dev :=
  d.modEnc i fun e => { e with copies := vmod e.copies die f }
def Dev.modTax (d : Dev) (i : Fin 4) (f : Tax → Tax) : Dev :=
  { d with mot := { d.mot with tax := vmod d.mot.tax i f } }
def Dev.modAux (d : Dev) (i : Fin 8) (f : Aux → Aux) : Dev :=
  { d with mot := { d.mot with aux := vmod d.mot.aux i f } }
def Dev.modBus (d : Dev) (f : Bus → Bus) : Dev := { d with mot := { d.mot with bus := f d.mot.bus } }
def Dev.modSrc (d : Dev) (id : Nat) (f : Source → Source) : Dev :=
  { d with flt := { d.flt with src := d.flt.src.modify id f } }
def Dev.modSession (d : Dev) (id : BitVec 8) (f : Session → Session) : Dev :=
  { d with ses := { d.ses with openS := d.ses.openS.map fun x => if x.id = id then f x else x } }
def Dev.modRow (d : Dev) (gp : Fin 112) (r : RowId) (f : Row → Row) : Dev :=
  d.modPort gp fun p => match r with
    | .a => { p with rowA := f p.rowA }
    | .b => { p with rowB := f p.rowB }

/-- An occurrence of a signal of the test multiplexers that toggles: its level changes (R412). -/
def Dev.toggle (d : Dev) (die signal : Nat) : Dev :=
  let k := die * 4096 + signal
  { d with tmx := { d.tmx with
    high := if d.tmx.high.contains k then d.tmx.high.filter (· != k) else k :: d.tmx.high } }

/-- A toggle of a port: its signal by the port's place on its die (Table 17.10). -/
def Dev.togglePort (d : Dev) (gp : Fin 112) (signal : Nat → Nat) : Dev := d.toggle (1 + gp.val / 16) (signal (gp.val % 16))

/-- One 10 ns tick of the 64-bit timestamp counter (Table 1.4 of R21), which stands while the part is held in reset
(R22, R53; log 1). -/
def Dev.tick (d : Dev) : Dev := if d.sys.held then d else d.modSys fun x => { x with now := x.now + 1 }

/-- Something leaves the part (log 3). -/
def Dev.emit (d : Dev) (e : Emission) : Dev := { d with sent := d.sent ++ [e] }

/-- The furrow die of a port. -/
def dieOf (gp : Fin 112) : Fin 7 := ⟨gp.val / 16, by omega⟩

/-- The timestamp and the fire-timebase counter of a die are latched together, once an observer tick (R262). -/
def Dev.latchTimebase (d : Dev) (f : Fin 7) : Dev :=
  if d.dies[f].latches.head?.map Prod.fst = some d.sys.now then d
  else d.modDie f fun x => { x with latches := ((d.sys.now, Config.fireCount f.val d.sys.now) :: x.latches).take 256 }

/-- ft_of(): timestamp time to fire-timebase time of a die, in ns (R262). -/
def Dev.ftOf (d : Dev) (f : Fin 7) (ns : Rat) : Rat :=
  let k := Config.fireFit d.dies[f].latches
  k.1 * ns + k.2

/-- Time on a port's fire timebase now, in ns. -/
def Dev.fireNow (d : Dev) (gp : Fin 112) : Rat := d.ftOf (dieOf gp) ((10 * d.sys.now.toNat : Nat) : Rat)

/-- The next point of a port's 250 ps grid (R63). -/
def Dev.fireGrid (d : Dev) (gp : Fin 112) : Rat := ((4 * d.fireNow gp).ceil : Rat) / 4

/-- A row of a port. -/
def Port.row (p : Port) : RowId → Row
  | .a => p.rowA
  | .b => p.rowB

/-! ## What the variant holds -/

/-- The applied feature word (Table 17.6), bits 8:0. -/
def Dev.feat (d : Dev) : Nat := d.otp.feat.val.toNat

/-- Furrow dies of the variant. -/
def Dev.furrowDies (d : Dev) : Nat := getF 0 3 d.feat

/-- Furrow die f is present (R2, R436). -/
def Dev.hasDie (d : Dev) (f : Nat) : Bool := f < d.furrowDies

/-- Option H. -/
def Dev.half (d : Dev) : Bool := getB 7 d.feat

/-- Port gp is present (R2, R3, R6). -/
def Dev.hasPort (d : Dev) (gp : Nat) : Bool := d.hasDie (gp / 16) && gp < 112 && (!d.half || gp % 16 < 8)

/-- Transport axes are enabled: motion M (Table 0.2). -/
def Dev.hasTax (d : Dev) : Bool := getF 3 2 d.feat == 2

/-- Auxiliary axes are enabled: motion S or M. -/
def Dev.hasAux (d : Dev) : Bool := getF 3 2 d.feat == 1 || getF 3 2 d.feat == 2

/-- The fused line rate in Hz (Table 17.6). -/
def Dev.fusedHz (d : Dev) : Nat :=
  match getF 5 2 d.feat with
  | 1 => 48000
  | 2 => 72000
  | 3 => 100000
  | _ => 0

/-- Job-cache bytes the part serves: none under option X (R228, Table 2.7). -/
def Dev.cacheBytes (d : Dev) : Nat :=
  if getB 8 d.feat then (d.sys.cache0.toNat + d.sys.cache1.toNat) * 2 ^ 20 else 0

/-- The mode (R77), as every reader sees it (R427). -/
def Dev.mode (d : Dev) : BitVec 4 := d.sys.mode.val

/-- The port is enabled. -/
def Port.on (p : Port) : Bool := p.enable.val == 1

/-- The port asks for HPEN. -/
def Port.powered (p : Port) : Bool := p.hpen.val == 1

/-- Level of a port's HPEN ball: TEST forces it off whatever the port asks for; it stands again when TEST is left
(Table 4.1; DEDUCED, log 55). -/
def Dev.hpenPin (d : Dev) (gp : Fin 112) : Bool := d.ports[gp].powered && d.mode != mTest

/-- HPEN of a port is asked for or not. -/
def Dev.setHpen (d : Dev) (gp : Fin 112) (v : Bool) : Dev :=
  let was := d.hpenPin gp
  let d := d.modPort gp fun p => { p with hpen := Tv.mk3 (if v then 1 else 0) }
  if d.hpenPin gp = was then d else d.emit (.hpen gp.val v)

/-- The SNS source of a port is on: an element of a scan is being measured; outside a scan SNS is at high impedance
(R64, Table 12.1). -/
def Port.snsOn (p : Port) : Bool := p.scan.state == 1

/-- The TSN source of a port is on whenever the port is enabled (R64). -/
def Port.tsnOn (p : Port) : Bool := p.enable.val == 1

/-- TAX_EN.Enable. -/
def Tax.on (t : Tax) : Bool := t.enable.val == 1

/-- AUX_EN.Enable. -/
def Aux.on (a : Aux) : Bool := a.enable.val == 1

/-- Nozzles of a port as configured; 0 when not configured. -/
def Port.nozzles (p : Port) : Nat := p.blocks.toNat * 64

/-- Rows of a port. -/
def Port.nRows (p : Port) : Nat := if p.rows2 then 2 else 1

/-- Nr of R244. -/
def Port.nr (p : Port) : Nat := p.nozzles / p.nRows

/-- Address groups fired together: 1, 2, 4 or 8. -/
def Port.nBanks (p : Port) : Nat := 2 ^ p.banks.toNat

/-- The port is configured: nozzles set, and AddrCount a multiple of Banks (R244). -/
def Port.configured (p : Port) : Bool := p.blocks != 0 && (p.addrM1.toNat + 1) % p.nBanks == 0

/-- Swath s carries port gp. -/
def Swath.carries (w : Swath) (gp : Nat) : Bool := w.defined && w.portMap.getLsbD gp

/-- The defined swath that carries a port (R154). -/
def Dev.swathOf (d : Dev) (gp : Nat) : Option (Fin 16) := (fins 16).find? fun s => d.swaths[s].carries gp

/-- The ports of a swath in ascending order of gp. -/
def Dev.swathPorts (d : Dev) (s : Fin 16) : List (Fin 112) := (fins 112).filter fun gp => d.swaths[s].carries gp

/-- A swath takes part in the armed job. -/
def Dev.armedOn (d : Dev) (s : Fin 16) : Bool :=
  match d.armed with
  | some a => a.swaths.contains s
  | none => false

/-- A swath holds an armed or active job (R140). -/
def Dev.swathInUse (d : Dev) (s : Fin 16) : Bool := d.swaths[s].state == 2 || d.armedOn s

/-- Buffer slots a channel holds: a slot holds two requests, until the last byte of both is sent (R189, row 6 of
Table 7.1; log 15). -/
def Channel.slots (c : Channel) : Nat := (c.reads.map fun (q : ReadReq) => q.half / 2).eraseDups.length

/-- The discipline of R223: 0 shared, 1 pre-emptive, 2 off. -/
def Dev.discipline (d : Dev) : Nat :=
  if d.mode = mFallow then 2
  else if d.mode = mBoot || d.mode = mHalted || d.mode = mTest then 1
  else 0

/-- Descriptors pending on a channel (R140, R221). -/
def Channel.pendingAny (c : Channel) : Bool := !c.list.isEmpty || !c.running.isEmpty || !c.fences.isEmpty

/-- The swath-feed channel of a swath, if there is exactly one (R200). -/
def Dev.feedOf (d : Dev) (s : Fin 16) : Option (Fin 32) :=
  match (fins 32).filter fun c => d.dma.ch[c].state != 3 && d.dma.ch[c].swathFeed && d.dma.ch[c].swath == s with
  | [c] => some c
  | _ => none

/-- A swath counts as in use: a job, or a feed with descriptors pending (R140, R221). -/
def Dev.swathBusy (d : Dev) (s : Fin 16) : Bool :=
  d.swathInUse s ||
  (fins 32).any fun c =>
    d.dma.ch[c].state != 3 && d.dma.ch[c].swathFeed && d.dma.ch[c].swath == s && d.dma.ch[c].pendingAny

/-- A port counts as in use (R140, R221). -/
def Dev.portInUse (d : Dev) (gp : Nat) : Bool :=
  match d.swathOf gp with
  | some s => d.swathBusy s
  | none => false

/-- An encoder channel counts as in use: master of a swath with a job, of an enabled axis, or of a geared axis
(R140, R328, R367). -/
def Dev.encInUse (d : Dev) (ch : Fin 4) : Bool :=
  ((fins 16).any fun s => d.swaths[s].channel == ch && d.swathInUse s)
  || ((fins 4).any fun n => d.mot.tax[n].on && d.mot.tax[n].angleSrc == ch.val + 1)
  || ((fins 8).any fun n => match d.mot.aux[n].gear, d.mot.aux[n].gearNext with
      | some g, some h => g.channel == ch || h.channel == ch
      | some g, none => g.channel == ch
      | none, some h => h.channel == ch
      | none, none => false)

/-! ## Interrupt messages -/

/-- The message of a vector goes out, to the address and with the data of its table entry (R446). -/
def Dev.sendMsix (d : Dev) (v : Nat) : Dev :=
  d.emit (.msix v (d.pci.msixAddr.toList.getD v 0) (d.pci.msixData.toList.getD v 0))

/-- A source raises an MSI-X vector: the message goes out, or the vector's pending bit holds it while the vector
or the function is masked (R447). -/
def Dev.raise (d : Dev) (v : Nat) : Dev :=
  if d.pci.msixEnable && !d.pci.functionMask && !d.pci.vecMask.getLsbD v then d.sendMsix v
  else d.modPci fun p => { p with vecPending := p.vecPending ||| BitVec.ofNat 512 (2 ^ v) }

/-! ## Sessions and replies -/

/-- A transport address lies on PCIe. -/
def viaPcie : Via → Bool
  | .pcie _ => true
  | _ => false

/-- A transport address lies on UDP. -/
def viaUdp : Via → Bool
  | .udp _ _ => true
  | _ => false

/-- The code of a transport (Table 6.3). -/
def viaCode : Via → Nat
  | .pcie _ => 0
  | .udp _ _ => 1
  | .spi => 2

/-- The open session with an ID. -/
def Dev.session? (d : Dev) (id : Nat) : Option Session := d.ses.openS.find? fun x => x.id.toNat == id

/-- The open session a packet acts for: its Session field names it and it came from its address (R113). -/
def Dev.owner? (d : Dev) (p : Packet) : Option Session :=
  match d.session? p.session.toNat with
  | some x => if x.via = p.via then some x else none
  | none => none

/-- The provisional ID a packet names from the address that asked for it (R107). -/
def Dev.prov? (d : Dev) (p : Packet) : Option Provisional :=
  d.ses.prov.find? fun (x : Provisional) => x.id.toNat == p.session.toNat && x.via == p.via

/-- A command of an open session, which holds one of its credits and response slots. -/
def WorkEntry.holds (e : WorkEntry) (x : Session) : Bool :=
  e.slot == .session && e.orphan.isNone && e.packet.session.toNat == x.id.toNat

/-- Response slots in use beside the reserved one: reserved at intake, taken by duplicates, replies not delivered
(R119, R194, Table 7.1 row 9). -/
def Dev.slotsUsed (d : Dev) (x : Session) : Nat :=
  (d.ses.work.filter fun e => e.holds x).length + x.dups.length + x.responses.length

/-- Credits a session's commands hold: those waiting, and those with a response slot (Table 7.1 row 11). -/
def Dev.creditsUsed (d : Dev) (x : Session) : Nat :=
  (d.ses.waiting.filter fun e => e.holds x).length + d.slotsUsed x

/-- The session bound to a queue pair, or 0 (Table 5.20). -/
def Dev.qpSession (d : Dev) (q : Fin 256) : BitVec 16 :=
  match d.ses.openS.find? fun x => x.via == .pcie q with
  | some x => BitVec.ofNat 16 x.id.toNat
  | none => 0

/-- An entry for a packet: the response slot its reply uses (R107, R119) and the session bound to its queue pair now
(Table 5.14). A packet of no open session and no provisional ID uses the pre-session's slot (log 46). -/
def Dev.entry (d : Dev) (p : Packet) : WorkEntry :=
  { packet := p
    slot := if (d.owner? p).isSome then .session else if (d.prov? p).isSome then .prov else .pre
    bound := match p.via with
      | .pcie q => d.qpSession q
      | _ => 0 }

/-- The work-queue entry of a packet, or the one it would have now. -/
def Dev.entryOf (d : Dev) (p : Packet) : WorkEntry :=
  (d.ses.work.find? fun (e : WorkEntry) => e.packet = p).getD (d.entry p)

/-- A reply packet for a command (R102, R103, R118). -/
def mkReply (d : Dev) (p : Packet) (code offset : Nat) (params : List Byte) (dup : Bool) : Reply :=
  let key := match d.owner? p with
    | some x => if x.macRequired then some x.key else none
    | none => none
  let e := d.entryOf p
  let r : Reply := {
    slot := e.slot, bound := e.bound, via := p.via, session := p.session, seq := p.seq,
    flags := BitVec.ofNat 8 (1 + (if key.isSome then 2 else 0) + (if dup then 4 else 0)),
    opcode := p.opcode, variant := p.variant, status := statusWord code offset, tag := p.tag,
    params := params, mac := [], replyAddr := p.replyAddr }
  match key with
  | some k => { r with mac := replyMac k r }
  | none => r

/-- A CQ slot is written and its vector raised (R124, R125). `out`: the response slot it holds, and whose. -/
def Dev.cqWrite (d : Dev) (q : Fin 256) (seq status : Word) (bytes : Nat) (discarded : Bool)
    (bound : BitVec 16) (out : RespSlot × BitVec 16) : Dev :=
  let x := d.ses.qp[q]
  let wrap := decide (x.cqTail + 1 ≥ x.entries.toNat)
  let tail := if wrap then 0 else x.cqTail + 1
  let ph := if wrap then !x.phase else x.phase
  let d := d.emit (.cqSlot q.val seq status x.sqHead bytes x.phase discarded bound)
  let d := d.modSes fun t => { t with qp := vmod t.qp q fun y => { y with
    cqTail := tail, phase := ph, cqOut := y.cqOut ++ [out] } }
  d.raise x.vector.toNat

/-- A session's idle timer starts to run again when nothing is outstanding and no reply waits (R120). -/
def Dev.idleRun (d : Dev) (id : Nat) : Dev :=
  match d.session? id with
  | some x =>
    if d.creditsUsed x = 0 && x.reservedResponse.isNone then
      d.modSession x.id fun (y : Session) => { y with idleSince := d.sys.now - y.idleUsed }
    else d
  | none => d

/-- The idle timer of a session runs (R120). -/
def Dev.idleRuns (d : Dev) (id : Nat) : Bool :=
  match d.session? id with
  | some x => d.creditsUsed x == 0 && x.reservedResponse.isNone
  | none => true

/-- After a change, an idle timer that stood before it runs on if nothing holds it any more; one that ran is left
alone (R120). -/
def Dev.idleAfter (d : Dev) (id : Nat) (f : Dev → Dev) : Dev := if d.idleRuns id then f d else (f d).idleRun id

/-- A session's idle timer stops for a reply that waits, if it was running (R120). -/
def Dev.idleStop (d : Dev) (id : Nat) : Dev :=
  match d.session? id with
  | some x =>
    if d.creditsUsed x = 0 && x.reservedResponse.isNone then
      d.modSession x.id fun (y : Session) => { y with idleUsed := d.sys.now - y.idleSince }
    else d
  | none => d

/-- Sum of 16-bit words in ones' complement arithmetic, the first byte of each the higher one. -/
def onesSum : List Byte → Nat
  | [] => 0
  | [a] => a.toNat * 256
  | a :: b :: r => let s := a.toNat * 256 + b.toNat + onesSum r
                   if s < 65536 then s else s - 65535

/-- The UDP checksum over IPv4, never 0 (PRESUMED, log 47: the spec names it and does not give it). Addresses hold the
first octet in bits 7:0. -/
def udpChecksum (src dst : Word) (sport dport : Nat) (payload : List Byte) : BitVec 16 :=
  let n := payload.length + 8
  let s := 65535 - onesSum (leBytes 4 src.toNat ++ leBytes 4 dst.toNat ++ [0, 17] ++ (leBytes 2 n).reverse
    ++ (leBytes 2 sport).reverse ++ (leBytes 2 dport).reverse ++ (leBytes 2 n).reverse ++ [0, 0] ++ payload)
  if s = 0 then 0xFFFF else BitVec.ofNat 16 s

/-- The transport header of Table 5.15 that the part sends: Kind 1 for a reply, 2 for an event. -/
def udpHeader (kind : Nat) (epoch : Word) (length : Nat) : List Byte :=
  leBytes 2 0x5A38 ++ leBytes 1 kind ++ [0] ++ leBytes 4 epoch.toNat ++ leBytes 4 length ++ [0, 0, 0, 0]

/-- The Ethernet source address of the last frame accepted from a transport address (R443). -/
def Eth.peer (e : Eth) (v : Via) : BitVec 48 := ((e.peers.find? fun (x : Via × BitVec 48) => x.1 == v).map (·.2)).getD 0

/-- A frame from a transport address is accepted: its Ethernet source address is the one to answer to (R443). -/
def Eth.heard (e : Eth) (v : Via) (mac : BitVec 48) : Eth :=
  { e with rx := satInc e.rx, peers := (v, mac) :: e.peers.filter fun (x : Via × BitVec 48) => x.1 != v }

/-- A packet leaves in a datagram: one packet behind the header, with a checksum, from the address in force and port 47300
for a reply or 47301 for an event, to the Ethernet address last heard from the session's transport address `peer`
(R126 to R128, R443). A port without a valid address sends none: the packet is lost (DEDUCED, log 68). -/
def Dev.datagram (d : Dev) (kind : Nat) (peer : Via) (r : Reply) : Dev :=
  match r.via with
  | .udp ip port =>
    if !d.eth.valid then d else
    let sport := if kind = 1 then 47300 else 47301
    let payload := udpHeader kind d.ses.epoch (replyBytes r).length ++ replyBytes r
    (d.emit (.datagram d.eth.ip r.via (d.eth.peer peer) (BitVec.ofNat 16 sport)
      (udpChecksum d.eth.ip ip sport port.toNat payload) payload)).modEth fun e => { e with tx := satInc e.tx }
  | _ => d

/-- A reply enters the response slot it holds, of a session that is open at its address. -/
def Dev.holdReply (d : Dev) (r : Reply) : Dev :=
  d.modSes fun t => { t with
    openS := t.openS.map fun (x : Session) =>
      if x.id.toNat = r.session.toNat && x.via = r.via then
        match r.slot with
        | .session => { x with responses := x.responses ++ [r] }
        | .reserved => { x with reservedResponse := some r }
        | _ => x
      else x }

/-- A reply goes to its transport. Over UDP it leaves at once; over PCIe it stays in the response queue until CqHead
passes it, over SPI until a READ has clocked it out (R193). -/
def Dev.deliver (d : Dev) (r : Reply) : Dev :=
  match r.via with
  | .udp _ _ => d.datagram 1 r.via r
  | .pcie q =>
    let d := ((if r.slot = .session then d.idleStop r.session.toNat else d).emit
      (.hostWrite r.replyAddr (replyBytes r))).holdReply r
    d.cqWrite q r.seq r.status (replyBytes r).length false r.bound (r.slot, r.session)
  | .spi =>
    ((if r.slot = .session then d.idleStop r.session.toNat else d).modSes
      fun t => { t with spiOut := t.spiOut ++ [r] }).holdReply r

/-- Replies to the duplicates of an answered command (R110). -/
def Dev.answerDups (d : Dev) (w : Word) : List Packet → Dev
  | [] => d
  | q :: qs =>
    let r := mkReply d q (w.toNat % 256) (w.toNat / 65536) [] true
    ((d.modSession (BitVec.ofNat 8 q.session.toNat) fun x => { x with dups := x.dups.erase q }).deliver r).answerDups w qs

/-- A command is answered: its reply is written into its response slot, then its work-queue entry is free, its status
word kept for duplicates and waiting duplicates answered (R106, R110, R184, Table 7.1 row 10). The reply of a session
that has closed is discarded (R121). ST_INTERNAL is a code of no path: the spec gives no condition for it, so the model
never returns it (DESIGN CHOICE, log 48). -/
def Dev.answer (d : Dev) (p : Packet) (code offset : Nat) (params : List Byte) : Dev :=
  let params := if code == stOk || code == stQueued then params else []
  let w := statusWord code offset
  let orphan := (d.entryOf p).orphan.isSome
  let ran := d.idleRuns p.session.toNat
  let own := if orphan then none else d.owner? p
  let dups := match own with
    | some x => x.dups.filter fun (q : Packet) => q.seq == p.seq
    | none => []
  let r := mkReply d p code offset params false
  let d := match own with
    | some x => d.modSession x.id fun x =>
        { x with history := x.history.map fun (h : Word × Option Word) => if h.1 = p.seq then (h.1, some w) else h }
    | none => d
  let d := (if orphan then d else d.deliver r).modSes fun t => { t with
    executed := satInc t.executed
    work := t.work.filter fun (e : WorkEntry) => e.packet ≠ p }
  let d := if orphan then d else d.answerDups w dups
  if orphan || ran then d else d.idleRun p.session.toNat

end Sys2Proof.Machine
end

