-- ==== Sys2Proof/Machine/Events.lean ====
section
/-! DEFINITION. Event records, the ring and the counters (R132 to R135). `Dev.occur` records one occurrence; the
source EVENT_OVF, which a full set of counters raises, is added by `Dev.event` in Faults.lean. -/

namespace Sys2Proof.Machine

/-- The 32 bytes of an event record (Table 5.18). -/
def recordBytes (r : EventRecord) : List Byte :=
  leBytes 1 r.cls ++ leBytes 1 r.kind ++ leBytes 2 r.source.toNat ++ leBytes 4 r.classSeq.toNat
    ++ leBytes 8 r.ts.toNat ++ leBytes 4 r.count ++ r.data

/-- Parameters of EVENT_READ's reply and of a pushed event packet (R182). -/
def eventParams (rs : List EventRecord) : List Byte :=
  leBytes 2 rs.length ++ [0, 0] ++ rs.flatMap recordBytes

/-- Data of a record: 12 bytes, those not named are 0 (R183). -/
def eventData (bs : List Byte) : List Byte := (bs ++ List.replicate 12 0).take 12

/-- A record is pushed to a UDP subscriber (R134). The Sequence counts its event packets from 1. -/
def Dev.push (d : Dev) (x : Session) (r : EventRecord) : Dev :=
  match x.via with
  | .udp ip _ =>
    let q : Reply := {
      via := .udp ip (if x.subPort = 0 then 47301 else x.subPort)
      session := BitVec.ofNat 16 x.id.toNat
      seq := x.pushSeq + 1
      flags := if x.macRequired then 0x0A else 0x08
      opcode := 0xE1, variant := 0, status := 0, tag := 0
      params := eventParams [r], mac := [], replyAddr := 0 }
    let q := if x.macRequired then { q with mac := replyMac x.key q } else q
    let d := d.modSession x.id fun (y : Session) => { y with pushSeq := y.pushSeq + 1 }
    d.datagram 2 x.via q
  | _ => d

/-- A session pulls its events: it came over PCIe or SPI (R134). -/
def Session.pulls (x : Session) : Bool :=
  match x.via with
  | .udp _ _ => false
  | _ => true

/-- A record goes to the push subscribers; it takes a ring entry while a pull subscriber has still to read it. -/
def Dev.writeRecord (d : Dev) (r : EventRecord) : Dev :=
  let subs := d.ses.openS.filter fun (x : Session) => x.subs.getLsbD r.cls
  let d := subs.foldl (fun d x => d.push x r) d
  let readers := (subs.filter Session.pulls).map fun x => x.id
  if readers.isEmpty then d else
  { d with ev := { d.ev with ring := d.ev.ring ++ [{ record := r, written := d.sys.now, readers }] } }

/-- Ring entries (R135). -/
abbrev ringSize : Nat := 1024

/-- Coalescing counters (R135). -/
abbrev counterSize : Nat := 2048

/-- Counters become records, in the order they were first used, as ring entries free (R135). -/
def Dev.drainCounters : Nat → Dev → Dev
  | 0, d => d
  | n + 1, d =>
    match d.ev.counters with
    | [] => d
    | r :: rs =>
      if d.ev.ring.length < ringSize then
        ({ d with ev := { d.ev with counters := rs } }.writeRecord r).drainCounters n
      else d

/-- The ring loses the entries that no subscriber has still to read, and counters become records. -/
def Dev.freeEntries (d : Dev) : Dev :=
  let ring := d.ev.ring.filter fun (e : RingEntry) => !e.readers.isEmpty
  let d := { d with ev := { d.ev with ring } }
  d.drainCounters d.ev.counters.length

/-- One more occurrence in a counter. -/
def addOccurrence (c r : EventRecord) : EventRecord :=
  { r with source := c.source, count := satInc c.count }

/-- Coalescing counters in use, the class-wide ones apart. -/
def Events.used (e : Events) : Nat := (e.counters.filter fun (c : EventRecord) => c.source != 0xFFFF).length

/-- EVENT_SEQ of a class counts on, which raises the class's vector for its PCIe subscribers (R132, R134). -/
def Dev.countEvent (d : Dev) (cls : Fin 16) : Dev :=
  let d := { d with ev := { d.ev with seq := d.ev.seq.set cls (d.ev.seq[cls] + 1) } }
  if d.ses.openS.any fun (x : Session) => x.subs.getLsbD cls.val && viaPcie x.via then d.raise (256 + cls.val) else d

/-- One occurrence of an event (R132, R135). -/
def Dev.occur (d : Dev) (cls : Fin 16) (kind source : Nat) (data : List Byte) : Dev :=
  let seq := d.ev.seq[cls] + 1
  let d := d.countEvent cls
  let r : EventRecord := {
    cls := cls.val, kind, source := BitVec.ofNat 16 source, classSeq := seq, ts := d.sys.now, count := 1
    data := eventData data }
  let same := fun (c : EventRecord) => c.cls == r.cls && c.kind == r.kind && c.source == r.source
  if d.ev.counters.any same then
    { d with ev := { d.ev with counters := d.ev.counters.map fun c => if same c then addOccurrence c r else c } }
  else if d.ev.ring.length < ringSize then d.writeRecord r
  else if d.ev.used < counterSize then { d with ev := { d.ev with counters := d.ev.counters ++ [r] } }
  else
    let wide := fun (c : EventRecord) => c.cls == r.cls && c.source == 0xFFFF
    if d.ev.counters.any wide then
      { d with ev := { d.ev with counters := d.ev.counters.map fun c => if wide c then addOccurrence c r else c } }
    else { d with ev := { d.ev with counters := d.ev.counters ++ [{ r with source := 0xFFFF }] } }

/-- The first `n` bytes of a number, for event data. -/
abbrev le4 (v : Nat) : List Byte := leBytes 4 v

/-- The mode is another one. The DMA discipline changes with it, and finds the channels that hold more than the
pre-emptive share (R223, R225). -/
def Dev.setMode (d : Dev) (m : BitVec 4) : Dev :=
  let was := d.discipline
  let d := d.modSys fun x => { x with mode := Tv.mk3 m, bootStep := 0, changing := false, taken := false }
  if d.discipline = 1 && was ≠ 1 then
    d.modDma fun x => { x with ch := vall (fun c => { c with excess := decide (16 < c.slots) }) x.ch }
  else d

/-- The mode changes: MODE kind 0 carries the new and the previous mode (Table 6.28). -/
def Dev.enterMode (d : Dev) (m : BitVec 4) : Dev :=
  (d.setMode m).occur evMode 0 0 (leBytes 1 m.toNat ++ leBytes 1 d.mode.toNat)

end Sys2Proof.Machine
end

