-- ==== Sys2Proof/Machine/Ports.lean ====
section
/-! DEFINITION. Port geometry, the minimum line period and the rate limits (R244 to R260), containment of units. -/

namespace Sys2Proof.Machine

/-- The set names a port holds. -/
def sets4 : List (Fin 4) := fins 4

/-- Slots per phase, G (R256, R257). -/
def Port.slotsPerPhase (p : Port) : Nat := if p.group then (p.addrM1.toNat + 1) / p.nBanks else 1

/-- Duration of one transfer, T_x, in ns (R255). -/
def Port.tx (p : Port) : Nat := 6 + (p.nr + 4 * p.slotsPerPhase - 1) / (4 * p.slotsPerPhase)

/-- Slots of one line of a row: G times Phases. -/
def Port.slotsPerLine (p : Port) : Nat := p.slotsPerPhase * p.phases.toNat

/-! ## Delivery of a sequence (R254 to R257, R272) -/

/-- A row's index. -/
def rowIndex : RowId → Nat
  | .a => 0
  | .b => 1

/-- Width of a slot of a line in ns: Tmin divided among the slots (R260). -/
def Port.slotNs (p : Port) : Nat := p.tmin / max 1 p.slotsPerLine

/-- Phase and slot of the i-th slot of a line: each phase runs through its slots from (L × RotStep) mod G on (R256). -/
def Port.slotAt (p : Port) (line i : Nat) : Nat × Nat :=
  let g := max 1 p.slotsPerPhase
  (i / g, (line * p.rotStep.toNat + i) % g)

/-- The command word of a transfer (R255). -/
def commandWord (row : RowId) (phase slot : Nat) : BitVec 16 :=
  BitVec.ofNat 16 (fld 0 6 slot + fld 6 2 phase + fld 8 1 (rowIndex row))

/-- Row positions whose nozzles a slot carries: every one in LATCH mode, those of its address groups in GROUP mode
(R256, R257). The address group of a nozzle is a property of the head: free value. -/
def Port.slotNozzles (p : Port) (slot : Nat) : List Nat :=
  if p.group then
    (List.range p.nr).filter fun j => Config.addressGroup (p.addrM1.toNat + 1) j % max 1 p.slotsPerPhase == slot
  else List.range p.nr

/-- Address groups a slot fires together (R256). -/
def Port.slotGroups (p : Port) (slot : Nat) : List Nat :=
  if p.group then (List.range p.nBanks).map fun b => b * p.slotsPerPhase + slot else []

/-- The on-bits of a slot over the four lanes in turn, padded with 0 (R255). -/
def Port.laneBits (p : Port) (bits : List Bool) : List (List Bool) :=
  let g := max 1 p.slotsPerPhase
  let n := (p.nr + 4 * g - 1) / (4 * g)
  (List.range 4).map fun lane => (List.range n).map fun i => bits.getD (4 * i + lane) false

/-- The edges of a pulse in a slot that starts at t0 (R272). -/
def pulseEdges (t0 : Rat) (w : Nat × Nat × Nat) : List (Rat × Bool) :=
  (if w.1 = 0 then [] else [(t0, true), (t0 + w.1, false)])
    ++ (if w.2.2 = 0 then [] else [(t0 + w.1 + w.2.1, true), (t0 + w.1 + w.2.1 + w.2.2, false)])

/-- The slots of a row's sequence from t0 on: one shape for each phase, and the phases each nozzle of the row is on. -/
def Port.slotPlan (p : Port) (row : RowId) (t0 : Rat) (line width : Nat) (shapes : List (Nat × Nat × Nat))
    (phases : List Nat) : List SlotOut :=
  let on := phases.toArray
  (List.range (shapes.length * p.slotsPerPhase)).map fun i =>
    let k := p.slotAt line i
    let t := t0 + ((i * width : Nat) : Rat)
    { phase := k.1, slot := k.2, groups := p.slotGroups k.2, start := t, width, command := commandWord row k.1 k.2
      lanes := p.laneBits ((p.slotNozzles k.2).map fun j => decide (k.1 < on.getD j 0))
      edges := pulseEdges t (shapes.getD k.1 (0, 0, 0)) }

/-- A transfer put among others by its deadline. -/
def insertDue (t : Transfer) : List Transfer → List Transfer
  | [] => [t]
  | u :: us => if t.deadline < u.deadline then t :: u :: us else u :: insertDue t us

/-- The transfers of a row's sequence in progress. -/
def Port.rowTransfers (p : Port) (row : RowId) (r : Row) : List Transfer :=
  match r.firing, r.prevStart with
  | true, some t0 => (List.range p.slotsPerLine).map fun i =>
      let k := p.slotAt r.last.toNat i
      { row, phase := k.1, slot := k.2, deadline := t0 + ((i * p.slotNs : Nat) : Rat) }
  | _, _ => []

/-- The lanes of a port serve the transfers of both rows still due after `now` earliest deadline first (R255). -/
def Port.laneOrder (p : Port) (now : Rat) : List Transfer :=
  ((p.rowTransfers .a p.rowA ++ p.rowTransfers .b p.rowB).filter fun t => decide (now ≤ t.deadline)).foldr insertDue []

/-- A wave entry: precursor, gap, main in ns and pulses (Table 6.14, R271). -/
def Banks.wave (b : Banks) (gp set level band : Nat) : Nat × Nat × Nat × Nat :=
  let bs := b.bytes (waveAddr gp set (level * 16 + band)) 8
  (leNat (bs.take 2), leNat ((bs.drop 2).take 2), leNat ((bs.drop 4).take 2), leNat (bs.drop 6))

/-- A wave set is loaded: every entry of levels 1 to 3 has 1 to 3 pulses (R273). -/
def Banks.waveLoaded (b : Banks) (gp set : Nat) : Bool :=
  (List.range 48).all fun i =>
    let n := (b.wave gp set (1 + i / 16) (i % 16)).2.2.2
    decide (1 ≤ n ∧ n ≤ 3)

/-- The largest pulse over levels 1 to Phases and all bands of every loaded set (R260, R273). -/
def Banks.longestPulse (b : Banks) (gp phases : Nat) : Nat :=
  ((List.range 4).filter (b.waveLoaded gp)).foldl (fun m set =>
    (List.range (16 * phases)).foldl (fun m i =>
      let w := b.wave gp set (1 + i / 16) (i % 16)
      max m (w.1 + w.2.1 + w.2.2.1)) m) 0

/-- Tmin in ns (R260); 0 for a port that is not configured (R244). -/
def Banks.tminOf (b : Banks) (gp : Nat) (p : Port) : Nat :=
  if p.configured then
    let w := b.longestPulse gp p.phases.toNat + max p.slotGap.toNat 2
    p.slotsPerLine * max w (p.nRows * p.tx)
  else 0

/-- A port's rate limit in Hz (R260); 0 when not configured (R244). -/
def Dev.portHz (d : Dev) (p : Port) : Nat := if p.tmin = 0 then 0 else min (1000000000 / p.tmin) d.fusedHz

/-- A port's rate limit as f_adm uses it: lowered while HOT under HOT_ACTION 1 (R282). -/
def Dev.portHzNow (d : Dev) (p : Port) : Nat :=
  if p.heat.hot && p.heat.hotAction == 1 then p.heat.hotRatePct.toNat * d.portHz p / 100 else d.portHz p

/-- The lowest of a list of rates; 0 for none. -/
def lowest : List Nat → Nat
  | [] => 0
  | x :: xs => xs.foldl min x

/-- A swath's rate limit, pace excluded: the lowest of its ports (R154, R260). -/
def Dev.swathHz (d : Dev) (s : Fin 16) : Nat := lowest ((d.swathPorts s).map fun gp => d.portHz d.ports[gp])

/-- A swath's admissible rate now, with pace included (R26, R282). The ratio is an unsigned number with 12 fraction bits
and is divided by 0.62. -/
def Dev.admissible (d : Dev) (s : Fin 16) : Nat :=
  let f := lowest ((d.swathPorts s).map fun gp => d.portHzNow d.ports[gp])
  let ratio := lowest (((d.sys.pace.toList).take (1 + d.furrowDies)).map BitVec.toNat)
  if d.sys.paceLow then f * ratio * 100 / (4096 * 62) else f

/-! ## Sets -/

/-- A calibration set: Column, Along, RowB, Blend (Table 12.6). -/
def Banks.cal (b : Banks) (gp set : Nat) : Int × Int × Int × Nat :=
  let bs := b.bytes (calAddr gp set) 20
  (pI bs 0 2, pI bs 4 4, pI bs 8 4, pU bs 12 8)

/-- Along-web offset of a row under a calibration set, in 1/256 line (R247). -/
def Banks.offset (b : Banks) (gp set : Nat) (r : RowId) : Int :=
  let c := b.cal gp set
  match r with
  | .a => c.2.1
  | .b => c.2.1 + c.2.2.1

/-- The rows of a port. -/
def Port.rowIds (p : Port) : List RowId := if p.rows2 then [.a, .b] else [.a]

/-- Every row's offset on a swath. -/
def Dev.swathOffsets (d : Dev) (b : Banks) (s : Fin 16) (set : Nat) : List Int :=
  (d.swathPorts s).flatMap fun gp => d.ports[gp].rowIds.map fun r => b.offset gp.val set r

/-- The smallest offset, 0 of none. -/
def leastOffset : List Int → Int
  | [] => 0
  | x :: xs => xs.foldl min x

/-- The spread of a list of offsets (R248). -/
def spread (xs : List Int) : Int := xs.foldl max (leastOffset xs) - leastOffset xs

/-- A share set: pattern, K, index of each row, ColStep (Table 10.2). -/
def Banks.share (b : Banks) (gp set : Nat) : List Byte × Nat × Nat × Nat × Nat :=
  let bs := b.bytes (shareAddr gp set) 19
  (bs.take 16, pU bs 16 1, getF 0 2 (pU bs 17 1), getF 2 2 (pU bs 17 1), pU bs 18 1 % 64)

/-- Entry `e` of a share pattern. -/
def sharePattern (pat : List Byte) (e : Nat) : Nat := getF (2 * (e % 4)) 2 (pat.getD (e / 4) 0).toNat

/-- A share set is loaded (R250). -/
def Banks.shareLoaded (b : Banks) (gp set : Nat) : Bool :=
  let x := b.share gp set
  (x.2.1 == 1 || x.2.1 == 2 || x.2.1 == 4) && (List.range 64).all fun e => decide (sharePattern x.1 e < x.2.1)

/-! ## Containment -/

/-- A contained unit. -/
def Dev.contained (d : Dev) (u : FaultUnit) : Bool := d.flt.units.any fun (x : FaultUnit × Nat) => x.1 == u

/-- A port is contained by itself, by its swath or by its die (R382, Table 16.4). -/
def Dev.portContained (d : Dev) (gp : Fin 112) : Bool :=
  d.flt.units.any fun (x : FaultUnit × Nat) => match x.1 with
    | .port g => g == gp
    | .swath s => d.swaths[s].carries gp.val
    | .die f => f.val == gp.val / 16
    | _ => false

/-- The port's furrow die is being reset: its ports stop (R96). -/
def Dev.dieResetting (d : Dev) (gp : Fin 112) : Bool :=
  d.dies[gp.val / 16].resetting

/-- Ports a unit takes in. -/
def Dev.unitPorts (d : Dev) : FaultUnit → List (Fin 112)
  | .port gp => [gp]
  | .swath s => d.swathPorts s
  | .die f => (fins 112).filter fun gp => gp.val / 16 == f.val && d.hasPort gp.val
  | _ => []

/-- A swath's admissible rate in force: the lowest of its rows', each of which takes a new rate at its own line boundary
(R26, R259, R282; SWA_MAXRATE). -/
def Dev.rateInForce (d : Dev) (s : Fin 16) : Nat :=
  lowest ((d.swathPorts s).flatMap fun gp => d.ports[gp].rowIds.map fun k => (d.ports[gp].row k).fAdm)

/-- Head discovery has found no head on the port (R83). -/
def Dev.portEmpty (d : Dev) (gp : Fin 112) : Bool := d.ports[gp].idVerified && !d.ports[gp].headValid

/-- PORT_STATUS State (Table 6.17). Of several that hold, CONTAIN comes first (R285), then empty, disabled, HOT and
firing: the spec fixes only the first (DESIGN CHOICE, log 56). -/
def Dev.portState (d : Dev) (gp : Fin 112) : Nat :=
  let p := d.ports[gp]
  if d.portContained gp then 4
  else if d.portEmpty gp then 5
  else if !p.on then 0
  else if p.heat.hot then 3
  else if p.rowA.firing || p.rowB.firing || (match d.swathOf gp.val with
      | some s => d.swaths[s].state == 2 || d.swaths[s].state == 3
      | none => false) then 2
  else 1

/-- The run that a pending switch starts, while the hub has not passed the switch. -/
def Swath.pendingRun (w : Swath) : Option Run :=
  if w.gens[0].crossed then none else
  match w.switch with
  | some x => x.run
  | none => none

/-- The die of a port, as an index of encoder copies. -/
def dieCopy (gp : Fin 112) : Fin 8 := ⟨gp.val / 16 + 1, by omega⟩

/-- The channel of a swath shows reverse on a port's die (R268, R328). -/
def Dev.swathReversed (d : Dev) (s : Fin 16) (gp : Fin 112) : Bool :=
  (d.pos.enc[d.swaths[s].channel].copies[dieCopy gp]).dir

/-- Firing of a port's swath is inhibited by R268: it prints, or is to print, and its channel shows reverse. -/
def Dev.reversed (d : Dev) (gp : Fin 112) : Bool :=
  match d.swathOf gp.val with
  | some s => (d.swathInUse s || d.swaths[s].state == 3 || d.swaths[s].pendingRun.isSome) && d.swathReversed s gp
  | none => false

end Sys2Proof.Machine
end

