-- ==== Sys2Proof/Machine/Outputs.lean ====
section
/-! DEFINITION. Causes and latches of fault sources, and what reactions do to outputs, jobs, feeds and axes
(R226, R259, R284, R350, R351, R364, R377, R381). -/

namespace Sys2Proof.Machine

/-- The descriptor operation FENCE (Table 9.1). -/
abbrev opFence : BitVec 8 := 3

/-- A STOP or KILL reaction is in progress, from its detection until HALTED is entered (R451). -/
def Dev.halting (d : Dev) : Bool :=
  match d.flt.reaction with
  | some r => decide (4 ≤ r.cls)
  | none => false

/-- A KILL reaction is in progress. -/
def Dev.killing (d : Dev) : Bool :=
  match d.flt.reaction with
  | some r => r.cls == 5
  | none => false

/-! ## Sources -/

/-- A source by its ID. -/
def Dev.src (d : Dev) (id : Nat) : Source := d.flt.src.getD id { cls := Tv.mk3 0 }

/-- The ID names a source in use: a hub ID, or one of a present furrow die (R376). -/
def Dev.sourceInUse (d : Dev) (id : Nat) : Bool := id < 0x100 || (id < 0x2C0 && d.hasDie ((id - 0x100) / 0x40))

/-- The source's unit is contained by this source (Table 16.9). -/
def Dev.srcContained (d : Dev) (id : Nat) : Bool := d.flt.units.any fun (x : FaultUnit × Nat) => x.2 == id

/-- A source whose cause is present: real, HOT under HOT_ACTION 2, or forced (R377, R387). -/
def Source.active (x : Source) : Bool := x.cause || x.hotCause || x.force.val == 1

/-- The latch clears when the cause has gone, the force bit is clear and the state the class left has been cleared:
nothing up to NOTIFY, containment at CONTAIN, a start at STOP and KILL (R377). -/
def Dev.unlatch (d : Dev) (id : Nat) : Dev :=
  let x := d.src id
  if x.latched && !x.active && (x.left.toNat ≤ 2 || (x.left == 3 && !d.srcContained id)) then
    d.modSrc id fun y => { y with latched := false }
  else d

/-- FAULT kind 2 when a source's cause has just gone (R377). -/
def Dev.causeLeft (d : Dev) (id : Nat) (was : Bool) : Dev :=
  let x := d.src id
  if was && !x.active then
    (if x.cls.val.toNat ≥ 2 then d.occur evFault 2 id [] else d).unlatch id
  else d

/-- The real cause of a source goes. -/
def Dev.endCause (d : Dev) (id : Nat) : Dev :=
  (d.modSrc id fun x => { x with cause := false, wire := false }).causeLeft id (d.src id).active

/-- The HOT cause of a port's PORT_FLT goes (R283). -/
def Dev.endHotCause (d : Dev) (id : Nat) : Dev :=
  (d.modSrc id fun x => { x with hotCause := false }).causeLeft id (d.src id).active

/-- IDs of the sources of Tables 16.2 and 16.3. -/
def idPortFlt (gp : Nat) : Nat := 0x100 + 0x40 * (gp / 16) + 3 * (gp % 16)
def idTempCrit (gp : Nat) : Nat := idPortFlt gp + 1
def idUnderrun (gp : Nat) : Nat := idPortFlt gp + 2
def idDie (f o : Nat) : Nat := 0x100 + 0x40 * f + o
abbrev oTineLink : Nat := 0x30
abbrev oMemUe : Nat := 0x31
abbrev oMemCe : Nat := 0x32
abbrev oRegVote : Nat := 0x33
abbrev oBist : Nat := 0x35
abbrev oResync : Nat := 0x38
abbrev oWrDrop : Nat := 0x3A
abbrev oTestMode : Nat := 0x3D
def idOverspeed (s : Nat) : Nat := 0x018 + s
def idDmaErr (c : Nat) : Nat := 0x028 + c
def idEncSeq (ch : Nat) : Nat := 0x048 + 4 * ch
def idSincosAmp (ch : Nat) : Nat := 0x049 + 4 * ch
def idDiverge (ch : Nat) : Nat := 0x04A + 4 * ch
def idTaxLost (n : Nat) : Nat := 0x058 + 4 * n
def idTaxOver (n : Nat) : Nat := 0x059 + 4 * n
def idTaxGate (n : Nat) : Nat := 0x05A + 4 * n
def idTaxLate (n : Nat) : Nat := 0x05B + 4 * n
def idAuxStall (n : Nat) : Nat := 0x068 + 4 * n
def idHomeChatter (n : Nat) : Nat := 0x069 + 4 * n
def idHomeFail (n : Nat) : Nat := 0x06A + 4 * n
def idAuxOver (n : Nat) : Nat := 0x06B + 4 * n

/-! ## FALLOW -/

/-- FALLOW ends for a wake source: WakeSource is recorded, every encoder channel is unreferenced (Table 4.9), the mode
becomes READY unless the fault that woke the part goes on to HALTED, POWER kind 0 (R101, Table 4.2). -/
def Dev.wakeFrom (d : Dev) (source : BitVec 4) (ready : Bool) : Dev :=
  if d.mode = mFallow then
    let d := d.modSys fun x => { x with wakeSource := source }
    let d := d.modPos fun x => { x with enc := vall (fun (e : Enc) =>
      { e with copies := vall (fun (c : EncCopy) => { c with unreferenced := true }) e.copies }) x.enc }
    let d := d.modPci fun x => { x with power := 0 }
    let d := if ready then d.enterMode mReady else d
    d.occur evPower 0 source.toNat [BitVec.ofNat 8 source.toNat]
  else d

/-! ## Ports -/

/-- A scan in progress or armed ends early: HEALTH kind 0 gives what it measured (R297). -/
def Dev.abortScan (d : Dev) (gp : Fin 112) : Dev :=
  let c := d.ports[gp].scan
  if c.state = 0 then d else
  let d := d.modPort gp fun p => { p with scan := { p.scan with state := 0, aborted := true, testMode := false } }
  d.occur evHealth 0 gp.val (leBytes 2 c.measured ++ leBytes 2 c.newMasked)

/-- A port is disabled: HPEN and Enable go off together, its fault input is read no longer, its temperature stands
(R90, R159, R277, R389). -/
def Dev.portOff (d : Dev) (gp : Fin 112) : Dev :=
  let d := (d.setHpen gp false).modPort gp fun p => { p with enable := Tv.mk3 0 }
  (d.endCause (idPortFlt gp.val)).abortScan gp

/-- A row's mark is later than another's. -/
def Row.later (a b : Row) : Bool := decide (b.markEpoch < a.markEpoch) || (a.markEpoch == b.markEpoch && decide (b.upTo < a.upTo))

/-- The line a port's events name: the later high-water mark of its rows. -/
def Port.lineNow (p : Port) : Word := if p.rowB.later p.rowA then p.rowB.last else p.rowA.last

/-- A line of a run leaves a row's queue fired, blank or unfired: the high-water mark advances. -/
def Row.mark (r : Row) (epoch line : Nat) : Row :=
  { r with
    last := BitVec.ofNat 32 line, markEpoch := epoch, upTo := line + 1
    firedTo := if r.markEpoch = epoch then r.firedTo else 0 }

/-- A line of a run leaves a row's queue fired. -/
def Row.fire (r : Row) (epoch line : Nat) : Row := { r.mark epoch line with firedTo := line + 1 }

/-- A background piece of a port is in progress. -/
def Dev.pieceOn (d : Dev) (gp : Fin 112) : Bool := match d.ports[gp].piece with
  | some x => decide (d.fireNow gp < x.stop)
  | none => false

/-- A spit burst of a port is in progress. -/
def Dev.spitting (d : Dev) (gp : Fin 112) : Bool := d.pieceOn gp && d.ports[gp].piece.any fun x => x.spit

/-- A piece is over. With its last spit line a burst ends: the burst counter advances (R289). -/
def Port.endPiece (p : Port) : Port :=
  { p with
    piece := none
    heat := if p.piece.any (fun x => x.spit) && p.heat.spitLeft = 0 then
      { p.heat with spitCounter := p.heat.spitCounter + 1 } else p.heat }

/-- The spit lines of a burst not begun are given up. A burst of which no line is in progress ends with them. -/
def Port.dropBurst (p : Port) : Port :=
  { p with heat := { p.heat with
    spitLeft := 0
    spitCounter := if p.heat.spitLeft ≠ 0 && !p.piece.any (fun x => x.spit) then p.heat.spitCounter + 1
      else p.heat.spitCounter } }

/-- A background piece stops at its next boundary of `unit` ns; the spit lines not begun are left for the next window
(R284, R287). -/
def Dev.stopPiece (d : Dev) (gp : Fin 112) (unit : Piece → Nat) : Dev :=
  match d.ports[gp].piece with
  | none => d
  | some x =>
    let now := d.fireNow gp
    if x.stop ≤ now then d.modPort gp Port.endPiece
    else
      let u : Nat := max 1 (unit x)
      let stop := min x.stop (x.start + ((((now - x.start) / (u : Rat)).ceil.toNat * u : Nat) : Rat))
      if stop = x.stop then d else
      (d.emit (.pieceStop gp.val stop)).modPort gp fun p => { p with piece := some { x with stop } }

/-- Slots of a row's present sequence that have started by now: all of them when none is in progress. -/
def Dev.slotsStarted (d : Dev) (gp : Fin 112) (r : Row) : Nat :=
  let p := d.ports[gp]
  let n := p.slotsPerLine
  if !r.firing then n else
  match r.prevStart with
  | none => 0
  | some t0 =>
    let t := d.fireNow gp
    if t < t0 then 0 else
    min n ((((t - t0) * (n : Rat)) / ((max p.tmin 1 : Nat) : Rat)).floor.toNat + 1)

/-- The line with dots that a hold now cuts after at least one of its slots, and the slots each row has fired of it; the
later line where the rows are on two (R284). -/
def Dev.critCut (d : Dev) (gp : Fin 112) : Option (Word × Nat × Nat) :=
  let p := d.ports[gp]
  let n := p.slotsPerLine
  let a := d.slotsStarted gp p.rowA
  let b := d.slotsStarted gp p.rowB
  let cutA := p.rowA.firing && p.rowA.dots && decide (0 < a ∧ a < n)
  let cutB := p.rowB.firing && p.rowB.dots && decide (0 < b ∧ b < n)
  if cutA || cutB then
    let r := if cutA && (!cutB || !p.rowB.later p.rowA) then p.rowA else p.rowB
    let slots := fun (x : Row) (k : Nat) =>
      if x.markEpoch = r.markEpoch && x.last = r.last then k else if x.later r then n else 0
    some (r.last, slots p.rowA a, slots p.rowB b)
  else none

/-- The hold of R284: no slot starts later, the slot in progress completes. A line it cuts is recorded with the slots
each row fired; a piece stops at its slot boundary and is not resumed. -/
def Dev.critHold (d : Dev) (gp : Fin 112) : Dev :=
  let p := d.ports[gp]
  let out := fun (d : Dev) (k : RowId) (r : Row) => if r.firing then d.emit (.slotHold gp.val k (d.slotsStarted gp r)) else d
  let cut := d.critCut gp
  let d := out (out d .a p.rowA) .b p.rowB
  let stop := fun (r : Row) => { r with firing := false, busyUntil := none, dots := false }
  let d := (d.stopPiece gp fun x => x.slotNs).modPort gp fun p => { p with
    rowA := stop p.rowA, rowB := stop p.rowB }.dropBurst
  match cut with
  | some (line, a, b) => d.modPort gp fun p => { p with heat := { p.heat with
      critLine := line, critSlotsA := BitVec.ofNat 8 a, critSlotsB := BitVec.ofNat 8 b } }
  | none => d

/-- A port enters CONTAIN: scans, keep-warm and spitting end, PORT kind 2 with the line a hold of R284 has cut, else the
last one (Table 16.4, R284). -/
def Dev.containPort (d : Dev) (crit : Bool) (gp : Fin 112) : Dev :=
  let line := match crit, d.critCut gp with
    | true, some x => x.1
    | _, _ => d.ports[gp].lineNow
  let d := if crit then d.critHold gp else d.stopPiece gp fun x => x.lineNs
  let d := d.modPort gp Port.dropBurst
  (d.abortScan gp).occur evPort 2 gp.val (le4 line.toNat)

/-- Fire outputs held low at once: a sequence in progress is cut (R54, R89, R259, R381). -/
def Dev.cutPort (d : Dev) (gp : Fin 112) : Dev :=
  let p := d.ports[gp]
  let d := if p.rowA.firing || p.rowB.firing || p.piece.isSome then d.emit (.held gp.val) else d
  let stop := fun (r : Row) => { r with firing := false, busyUntil := none, dots := false, queue := [] }
  (d.modPort gp fun p => { p.dropBurst.endPiece with rowA := stop p.rowA, rowB := stop p.rowB }).portOff gp

/-! ## Axes -/

/-- Every gate of a transport axis goes low (R347, R350, R351, R352). -/
def Tax.gatesOff (t : Tax) : Tax :=
  { t with
    state := 0, duty := [], stopping := false, aligning := false, ref := 0, iq := 0, id := 0, integ := 0
    idInteg := 0, iqInteg := 0, skipRun := 0, openRun := 0, dutyClamp := false, follow := false, agree := 0, slew := 0
    recatch := none, lineUp := none, crossUv := none, crossVw := none }

/-- A transport axis is disabled; its gate pair is read no longer (R389). -/
def Dev.taxOff (d : Dev) (n : Fin 4) : Dev :=
  let d := d.modTax n fun t => { t.gatesOff with enable := Tv.mk3 0 }
  d.endCause (idTaxGate n.val)

/-- A transport axis in a KILL reaction: active short circuit at or above AscRpm, gates off otherwise (R350). -/
def Dev.taxKill (d : Dev) (n : Fin 4) : Dev :=
  let t := d.mot.tax[n]
  if t.state = 5 then d
  else if t.state ≠ 0 && t.ascRpm ≠ 0 && decide ((t.ascRpm.toNat : Rat) ≤ |t.speed|) then
    d.modTax n fun t => { t.gatesOff with state := 5 }
  else d.taxOff n

/-- An axis in a STOP reaction ramps to 0, or turns its gates off at once under the regeneration limit, in a
recatch, in a coast and while aligning (R351, R353). -/
def Dev.taxStop (d : Dev) (n : Fin 4) : Dev :=
  let t := d.mot.tax[n]
  if !t.on || t.state = 5 then d
  else if d.mot.bus.regenLimit || t.state = 0 || t.state = 3 || t.state = 4 || t.aligning then d.taxOff n
  else d.modTax n fun t => { t with stopping := true }

/-- An auxiliary axis loses its current: POS_VALID clears, everything in motion or queued ends (R364). -/
def Aux.unpowered (a : Aux) : Aux :=
  { a with
    state := 0, posValid := false, speed := 0, posFrac := 0, queue := [], move := none, followOn := none
    stopping := none, cruise := false, deenergise := false, stopEvent := none, homing := none, gear := none
    gearNext := none, moveAccel := none, idle := false, braking := false, loadSum := 0, loadN := 0, stallRun := 0, load := 0 }

/-- An auxiliary axis loses its current: homing ends with its AUX event (R176), AUX_STALL's cause with State 5 (R377). -/
def Dev.auxUnpower (d : Dev) (n : Fin 8) : Dev :=
  let a := d.mot.aux[n]
  let d := if a.homing.isSome then d.occur evAux 1 n.val (le4 a.pos.toNat) else d
  (d.modAux n Aux.unpowered).endCause (idAuxStall n.val)

/-- An auxiliary axis is disabled. -/
def Dev.auxOff (d : Dev) (n : Fin 8) : Dev :=
  (d.modAux n fun a => { a with enable := Tv.mk3 0 }).auxUnpower n

/-- The deceleration of an axis that must stop: Accel of a homing, else the Decel given last; where none was given,
the greatest (R363, R364, R367; log 21). -/
def Aux.stopRate (a : Aux) : Nat :=
  match a.homing with
  | some h => h.accel
  | none => a.lastDecel.getD 16777215

/-- An axis begins to decelerate to a stop; everything else it was doing or was to do ends. -/
def Aux.beginStop (a : Aux) (event : Option Nat) : Aux :=
  { a with
    stopping := some a.stopRate, stopEvent := event, state := 2, move := none, followOn := none, homing := none
    gear := none, gearNext := none, cruise := false, braking := false }

/-- An auxiliary axis in a STOP reaction: it decelerates and de-energises at standstill (R364). -/
def Dev.auxStop (d : Dev) (n : Fin 8) : Dev :=
  let a := d.mot.aux[n]
  if !a.on then d
  else if a.speed = 0 then d.auxOff n
  else d.modAux n fun a =>
    { a.beginStop (if a.homing.isSome then some 1 else none) with deenergise := true, queue := [] }

/-! ## Jobs and feeds -/

/-- A channel has work: descriptors started, or on a general channel any descriptor; on a swath feed also a chain. -/
def Channel.busy (c : Channel) : Bool :=
  !c.running.isEmpty || !c.fences.isEmpty || !c.beats.isEmpty || !c.chain.isEmpty || (!c.swathFeed && !c.list.isEmpty)

/-- State 0 or 1, by whether the channel has work (Table 9.5). -/
def Channel.norm (c : Channel) : Channel :=
  if c.state = 2 || c.state = 3 then c else { c with state := if c.busy then 1 else 0 }

/-- Descriptors whose last beat has left complete, in order (R236). `n` bounds how many. -/
def Dev.dmaComplete (c : Fin 32) : Nat → Dev → Dev
  | 0, d => d
  | n + 1, d =>
    match d.dma.ch[c].running with
    | [] => d
    | r :: rs =>
      if r.count ≤ r.formed && !d.dma.ch[c].beats.any (fun (b : Beat) => b.num == r.num) then
        let d := d.modCh c fun x => { x with
          done := r.num, running := rs
          retries := if x.retryNum = r.num then 0 else x.retries }
        let d := if r.desc.flags.getLsbD 0 then
            (d.occur evDma 0 c.val (le4 r.num.toNat)).raise d.dma.ch[c].vector.toNat
          else d
        d.dmaComplete c n
      else d

/-- Completions after a change of a channel, and its State. -/
def Dev.dmaSettle (d : Dev) (c : Fin 32) : Dev :=
  (d.dmaComplete c d.dma.ch[c].running.length).modCh c Channel.norm

/-- Buffered data of reads that `p` picks is wanted no longer. One that has not ended goes on to hold its tag and its
space; data whose last byte lies in an entry keeps its space until that byte is sent (Table 7.1). -/
def Channel.dropReads (p : ReadReq → Bool) (c : Channel) : Channel :=
  { c with reads := c.reads.filterMap fun (q : ReadReq) =>
      if !p q || c.beats.any fun (b : Beat) => b.frees.contains q.half then some q
      else if q.data.isNone && !q.failed then some { q with dead := true }
      else none }

/-- Beats that `p` picks are not sent; the space of the data they end is free. -/
def Channel.dropBeats (p : Beat → Bool) (c : Channel) : Channel :=
  let frees := (c.beats.filter p).flatMap fun (b : Beat) => b.frees
  { c with
    beats := c.beats.filter fun b => !p b
    reads := c.reads.filter fun (q : ReadReq) => !frees.contains q.half }

/-- Everything buffered, chained and listed is discarded; the configuration and the numbers stay (R226, R240). -/
def Channel.discard (c : Channel) : Channel :=
  { (c.dropBeats fun _ => true).dropReads fun _ => true with
    state := if c.state = 3 then 3 else 0, retries := 0, list := [], chain := [], chainWhole := [], chainEnd := 0
    running := [], fences := [], hostDropped := false }

/-- Every swath-feed channel stops in a STOP reaction (R226). -/
def Dev.stopFeeds (d : Dev) : Dev :=
  (fins 32).foldl (fun d c =>
    let x := d.dma.ch[c]
    if x.swathFeed && x.state ≠ 3 then
      (d.modCh c Channel.discard).endCause (idDmaErr c.val)
    else d) d

/-- A run that a channel feeds fires no more than `lines` lines: the rest of its descriptors is not read, what was
read for later lines is discarded (R79, R233). -/
def Channel.endRun (c : Channel) (epoch lines : Nat) : Channel :=
  let cut := fun (r : Running) =>
    if r.epoch = epoch then { r with count := max r.formed (min r.count (lines - r.firstLine)) } else r
  let running := c.running.map cut
  let late := fun (num : Word) (line : Nat) =>
    running.any fun (r : Running) => r.num == num && r.epoch == epoch && decide (lines ≤ r.firstLine + line)
  let c := (c.dropBeats fun (b : Beat) => match b.dest with
      | .line _ e l _ _ => e == epoch && decide (lines ≤ l)
      | _ => false).dropReads fun (q : ReadReq) => late q.num q.line
  { c with
    running := running.map fun r => if r.count ≤ r.issued then { r with issued := r.count, partA := 0, partB := 0 } else r }

/-- The chain of a run that is over is given up, but for a FENCE that closes the lines moved (R233). -/
def Channel.cutChain (c : Channel) (lines : Nat) : Channel :=
  { c with
    chain := if lines = 0 then [] else c.chain.takeWhile fun (t : Desc) => t.op == opFence
    chainWhole := [], chainEnd := 0 }

/-- A swath's run ends after `lines` lines: its channel and the slots granted beyond it (R209, R233). A run that is
over leaves no chain but a closing FENCE. -/
def Dev.endFeed (d : Dev) (s : Fin 16) (epoch lines : Nat) (ends : Bool) : Dev :=
  let d := (d.swathPorts s).foldl (fun d gp => d.modPort gp fun p =>
    { p with slots := p.slots.filter fun (x : LineSlot) => !(x.epoch == epoch && decide (lines ≤ x.line)) }) d
  match d.feedOf s with
  | none => d
  | some c =>
    (d.modCh c fun x =>
      let x := x.endRun epoch lines
      if ends && x.epoch = epoch then x.cutChain lines else x).dmaSettle c

/-- A swath stops printing its present run and is idle (R216). Rows still on the lines of a run before it go on, unless
nothing may fire (`all`). -/
def Swath.endJob (w : Swath) (all : Bool) : Swath :=
  { w with
    state := if w.defined then 1 else 0, endAtBoundary := false, ended := false, endPos := none
    runs := w.runs.filter fun (r : Run) => !all && decide (r.epoch < w.gens[0].epoch) }

/-- The rows of a swath's ports fire nothing at the moment. -/
def Dev.rowsIdle (d : Dev) (s : Fin 16) : Bool :=
  (d.swathPorts s).all fun gp => !d.ports[gp].rowA.firing && !d.ports[gp].rowB.firing

/-- Tokens of one run from a line on are dropped from a row's queue, and no further one is queued. -/
def Row.dropFrom (r : Row) (epoch lines : Nat) : Row :=
  { r with
    queue := r.queue.filter fun (t : Token) => t.started || !(t.epoch == epoch && decide (lines ≤ t.line))
    nextLine := if r.epoch = epoch then min r.nextLine lines else r.nextLine }

/-- Tokens of one run from a line on are dropped on a swath's ports (R208). -/
def Dev.dropTokens (d : Dev) (s : Fin 16) (epoch lines : Nat) : Dev :=
  (d.swathPorts s).foldl (fun d gp => d.modPort gp fun p =>
    { p with rowA := p.rowA.dropFrom epoch lines, rowB := p.rowB.dropFrom epoch lines }) d

/-- A row leaves a run that is over: no line of it is queued any more, and it has passed every one. A line started stays
until its window closes. -/
def Row.leaveRun (r : Row) (epoch : Nat) : Row :=
  { r with
    queue := r.queue.filter fun (t : Token) => t.started || t.epoch != epoch
    nextLine := if r.epoch = epoch then 2 ^ 32 else r.nextLine }

/-- The rows of a swath's ports leave a run that is over. -/
def Dev.leaveRun (d : Dev) (s : Fin 16) (epoch : Nat) : Dev :=
  (d.swathPorts s).foldl (fun d gp => d.modPort gp fun p =>
    { p with rowA := p.rowA.leaveRun epoch, rowB := p.rowB.leaveRun epoch }) d

/-- Lines a row has fired of a run. -/
def Row.fired (r : Row) (epoch : Nat) : Nat := if r.markEpoch = epoch then r.firedTo else 0

/-- One more than the last line any row of a swath has fired of a run. -/
def Dev.firedOf (d : Dev) (s : Fin 16) (epoch : Nat) : Nat :=
  (d.swathPorts s).foldl (fun n gp => max n (max (d.ports[gp].rowA.fired epoch) (d.ports[gp].rowB.fired epoch))) 0

/-- No line may fire any more: a STOP or KILL reaction is in progress, or a change from a mode that fires (R79, R381). -/
def Dev.firingOver (d : Dev) : Bool := d.halting || (d.sys.changing && d.sys.taken && d.mode != mReady)

/-- A swath told to end at its next line boundary has reached it on every row. Its feed stops behind the last line fired
(R79). -/
def Dev.settleSwath (d : Dev) (s : Fin 16) : Dev :=
  let w := d.swaths[s]
  if w.endAtBoundary && d.rowsIdle s then
    let e := w.gens[0].epoch
    let d := (if d.firingOver then w.runs.map fun (r : Run) => r.epoch else [e]).foldl (fun d k => d.leaveRun s k) d
    let d := if w.state = 3 then d.occur evJob 5 0 [BitVec.ofNat 8 s.val] else d.endFeed s e (d.firedOf s e) true
    d.modSwath s fun w => w.endJob d.firingOver
  else d

/-- The active job is over once no swath prints; while a job is armed the old one remains active (R213). -/
def Dev.settleActive (d : Dev) : Dev :=
  if d.armed.isSome || (fins 16).any fun s => d.swaths[s].state == 2 then d
  else { d with activeJob := none, activeSwaths := [], activeEnded := [] }

/-- A swath told to end: at once when no row is in a sequence, else at the row's line boundary (R259). No line of its
present run starts from now on. -/
def Dev.endSwath (d : Dev) (s : Fin 16) : Dev :=
  let w := d.swaths[s]
  if w.state = 2 || w.state = 3 then
    ((d.modSwath s fun w => { w with endAtBoundary := true }).settleSwath s).settleActive
  else d

/-- The run of a pending switch is given up, with the data fetched for it. -/
def Dev.dropPending (d : Dev) (s : Fin 16) : Dev :=
  match d.swaths[s].pendingRun with
  | some r => ((d.endFeed s r.epoch 0 true).dropTokens s r.epoch 0).modSwath s fun w =>
      { w with switch := w.switch.map fun x => { x with run := none } }
  | none => d

/-- The pending switch of a swath is forgotten. -/
def Swath.noSwitch (w : Swath) : Swath :=
  { w with switch := none, endPos := none, gens := vall (fun (g : LineGen) => { g with armed := false, late := [] }) w.gens }

/-- The armed job is disarmed: JOB kind 4 with its boundary. The swaths keep their switch positions, where the present
job ends (R157, R217). A JOB_SWITCH that still waits for acknowledgements has armed and is answered now (DESIGN CHOICE,
log 57). -/
def Dev.disarmKeep (d : Dev) : Dev :=
  match d.armed with
  | none => d
  | some a =>
    let d := (a.toSwitch.foldl Dev.dropPending { d with armed := none }).occur evJob 4 a.job (le4 a.boundary.toNat)
    (d.ses.work.filter fun (e : WorkEntry) => e.park == some (.arming a.job)).foldl
      (fun d e => d.answer e.packet stOk noField (le4 a.boundary.toNat)) d.settleActive

/-- Every job is disarmed and no switch is left (R216). -/
def Dev.disarm (d : Dev) : Dev :=
  let d := d.disarmKeep
  { d with swaths := vall Swath.noSwitch d.swaths }

/-- No port is being reset any more. -/
def Dev.noReset (d : Dev) : Dev :=
  { d with ports := vall (fun (p : Port) => { p with resetting := false }) d.ports }.modSys fun x => { x with resets := [] }

/-- A reaction overtakes what a parked command waits for: a change of mode, a job, a port's reset, a motion. A preset, the
agreement of a die's copies and requests to the OTP controller run on (R404, R451). -/
def Park.overtaken : Park → Bool
  | .modeChange _ _ | .modeWait | .jobEnd _ | .arming _ | .axisQueue | .profile | .unitReset _ => true
  | .dieReset _ | .preset _ | .encMode _ | .otpRead | .writes _ _ | .modify _ => false

/-- Commands parked for something that a reaction has overtaken are answered ST_HALTED (R80, R451). -/
def Dev.overtake (d : Dev) : Dev :=
  (d.ses.work.filter fun (e : WorkEntry) => e.park.any Park.overtaken).foldl (fun d e => d.answer e.packet stHalted noField []) d.noReset

/-- STOP: waiting commands are overtaken, feeds stop and what they held is discarded without a completion, jobs are
disarmed, each row ends at its line boundary, background pieces and scans end, axes ramp down (Table 16.4, R80, R216,
R226, R287, R351, R364). -/
def Dev.stopActions (d : Dev) : Dev :=
  let d := (d.overtake).stopFeeds
  let d := d.disarm
  let d := (fins 16).foldl Dev.endSwath d
  let d := (fins 112).foldl (fun d gp => (d.stopPiece gp fun x => x.lineNs).modPort gp Port.dropBurst) d
  let d := (fins 112).foldl Dev.abortScan d
  let d := (fins 4).foldl Dev.taxStop d
  ((fins 8).foldl Dev.auxStop d).modSys fun x => { x with changing := false, taken := false }

/-- BRK_GATE changes: TRANSPORT kind 4 with Source 0 at each change (R348). -/
def Dev.setBrk (d : Dev) (v : Bool) : Dev :=
  if d.mot.bus.gate = v then d
  else (d.modBus fun b => { b with gate := v, history := [], lowRun := 0, braking := 0 }).occur evTransport 4 0 []

/-- The output actions of a KILL reaction: FAULT_OUT asserted, every fire output held, HPEN off, gates low or in
active short circuit, BRK_GATE low, auxiliary gates low (Table 16.4, R54, R89). -/
def Dev.killOutputs (d : Dev) : Dev :=
  let d := d.modFlt fun x => { x with asserted := true }
  let d := (fins 112).foldl Dev.cutPort d
  let d := (fins 4).foldl Dev.taxKill d
  let d := (d.modBus fun b => { b with state := if b.state = 1 then 0 else b.state }).setBrk false
  (fins 8).foldl Dev.auxOff d

/-- KILL: the output actions and everything STOP does. -/
def Dev.killActions (d : Dev) : Dev := d.killOutputs.stopActions

end Sys2Proof.Machine
end

