-- ==== Sys2Proof/Machine/Faults.lean ====
section
/-! DEFINITION. Detection, merging, reactions, containment and unit resets of the fault collector (R377 to R387). -/

namespace Sys2Proof.Machine

/-! ## The fixed columns of Tables 16.1 to 16.3 -/

/-- Lowest class FLT_CLASS accepts (column "Lowest"). -/
def lowestClass (id : Nat) : Nat :=
  if id == 0x001 || id == 0x002 || id == 0x00D then 5
  else if id == 0x00E || id == 0x010 then 4
  else if 0x048 ≤ id && id < 0x058 && id % 4 == 2 then 4
  else if 0x058 ≤ id && id < 0x068 && id % 4 == 2 then 3
  else if 0x100 ≤ id && (id - 0x100) % 0x40 < 0x30 && (id - 0x100) % 0x40 % 3 == 1 then 3
  else 0

/-- The source has a unit, so CONTAIN is accepted (R380; DMA_ERR always accepts it). -/
def hasUnit (id : Nat) : Bool :=
  if id < 0x100 then id == 0x016 || (0x018 ≤ id && id < 0x048) || (0x058 ≤ id && id < 0x088)
  else
    let o := (id - 0x100) % 0x40
    o < 0x30 || o == 0x30 || o == 0x31 || o == 0x34 || o == 0x35 || o == 0x36 || o == 0x37 || o == 0x38
      || o == 0x3B || o == 0x3D || o == 0x3F

/-- Bit of FLT_BLOCKSTAT (R378, Table 16.1). A source without a block in Table 16.1's words takes the block its name
belongs to (log 11). -/
def sourceBlock (id : Nat) : Nat :=
  if 0x100 ≤ id then
    let o := (id - 0x100) % 0x40
    if o < 0x30 then o / 3
    else if o == 0x30 || o == 0x39 then 16
    else if o == 0x31 || o == 0x32 || o == 0x35 then 17
    else if o == 0x37 || o == 0x3D then 18
    else if o == 0x34 then 19
    else if o == 0x36 then 20
    else if o == 0x3E then 21
    else if o == 0x33 then 22
    else if o == 0x38 then 23
    else if o == 0x3B then 24
    else if o == 0x3C then 25
    else if o == 0x3F then 26
    else 27
  else if id == 0x000 then 32
  else if id == 0x001 || id == 0x002 then 33
  else if id == 0x003 || id == 0x004 || id == 0x005 then 3
  else if id == 0x006 then 31
  else if id == 0x007 || id == 0x008 then 10
  else if id == 0x009 || id == 0x00A then 30
  else if id == 0x00B || id == 0x00C || id == 0x00D then 19
  else if id == 0x00E then 29
  else if id == 0x00F || id == 0x010 then 34
  else if id == 0x011 || id == 0x012 then 0
  else if id == 0x013 then 1
  else if id == 0x014 then 9
  else if id == 0x015 then 35
  else if id == 0x016 then 4
  else if id == 0x017 then 36
  else if id < 0x028 then 45
  else if id < 0x048 then 6
  else if id < 0x058 then 11 + (id - 0x048) / 4
  else if id < 0x068 then 15 + (id - 0x058) / 4
  else if id < 0x088 then 20 + (id - 0x068) / 4
  else if id < 0x098 then 28
  else 44

/-- Die of a source: 0 hub, 1 to 7 for F0 to F6. -/
def sourceDie (id : Nat) : Nat := if id < 0x100 then 0 else 1 + (id - 0x100) / 0x40

/-- The die's FLT_BLOCKSTAT word: bit b while a latched source of block b exists; on the hub bits 37 to 43 are the
furrow dies' summary lines (R378, R30). -/
def Dev.ownBlocks (d : Dev) (die : Nat) : Nat :=
  (List.range 704).foldl (fun w id =>
    if sourceDie id == die && (d.src id).latched then Nat.lor w (2 ^ sourceBlock id) else w) 0

/-- The word with the summary lines. -/
def Dev.blockstat (d : Dev) (die : Nat) : Nat :=
  if die = 0 then
    (List.range 7).foldl (fun w f => if d.ownBlocks (f + 1) ≠ 0 then Nat.lor w (2 ^ (37 + f)) else w) (d.ownBlocks 0)
  else d.ownBlocks die

/-- What the source's detection would contain (columns "Unit" of Tables 16.2, 16.3). SES_OVERRUN names the session that
lost the packet, DMA_ERR the swath its channel feeds, HEAD_TESTMODE the ports in test. -/
def Dev.unitsOf (d : Dev) (id : Nat) : List FaultUnit :=
  if h : 0x100 ≤ id ∧ id < 0x2C0 then
    let f : Fin 7 := ⟨(id - 0x100) / 0x40, by omega⟩
    let o := (id - 0x100) % 0x40
    if o < 0x30 then portUnit (16 * f.val + o / 3)
    else if o == oTestMode then
      ((d.unitPorts (.die f)).filter fun gp => d.ports[gp].scan.testMode).map FaultUnit.port
    else if hasUnit id then [.die f] else []
  else if id == 0x016 then d.ses.overrun.toList.map FaultUnit.session
  else if h : 0x018 ≤ id ∧ id < 0x028 then [.swath ⟨id - 0x018, by omega⟩]
  else if h : 0x028 ≤ id ∧ id < 0x048 then
    let c := d.dma.ch[id - 0x028]
    if c.swathFeed && c.state ≠ 3 then [.swath c.swath] else []
  else if h : 0x058 ≤ id ∧ id < 0x068 then [.transport ⟨(id - 0x058) / 4, by omega⟩]
  else if h : 0x068 ≤ id ∧ id < 0x088 then [.aux ⟨(id - 0x068) / 4, by omega⟩]
  else []
where
  /-- A port by its number. -/
  portUnit (n : Nat) : List FaultUnit := if h : n < 112 then [.port ⟨n, h⟩] else []

/-! ## Containment -/

/-- A unit enters CONTAIN for a source; its action is taken once, the first time (Table 16.4, R386). The DATA flits on
their way to a die are returned as though received (R382). In HALTED the outputs of an axis stay as they are (R384); an
active short circuit stays, and in a KILL reaction an axis enters it as R350 says. -/
def Dev.containUnit (d : Dev) (id : Nat) (u : FaultUnit) : Dev :=
  let new := !d.contained u
  let d := if d.flt.units.contains (u, id) then d else d.modFlt fun x => { x with units := x.units ++ [(u, id)] }
  if new then
    match u with
    | .port _ | .swath _ | .die _ =>
      (d.unitPorts u).foldl (Dev.containPort · (id == tempCritOf u)) (returnFlits d u)
    | .transport n =>
      if d.mode = mHalted || d.mot.tax[n].state = 5 then d
      else if d.killing then d.taxKill n
      else d.modTax n Tax.gatesOff
    | .aux n => if d.mode = mHalted then d else d.auxUnpower n
    | .session _ => d
  else if id == tempCritOf u then (d.unitPorts u).foldl Dev.critHold d
  else d
where
  /-- The TEMP_CRIT source of a port unit; no source for other units. -/
  tempCritOf : FaultUnit → Nat
    | .port gp => idTempCrit gp.val
    | _ => 0xFFFF
  /-- The DATA credits of a contained die's link are whole. -/
  returnFlits (d : Dev) : FaultUnit → Dev
    | .die f => d.modDie f fun x => { x with dataCredits := 24 }
    | _ => d

/-! ## Detection -/

/-- The source's occurrences are over at once (R377): every occurrence source but UNDERRUN, OVERSPEED, ENC_SEQ,
TAX_LATE, AUX_STALL and DMA_ERR. -/
def goneAtOnce (id : Nat) : Bool :=
  if 0x100 ≤ id then
    let o := (id - 0x100) % 0x40
    o == oMemUe || o == oMemCe || o == oRegVote || o == oResync || o == 0x39 || o == oWrDrop
  else
    (3 ≤ id && id ≤ 0x00A) || id == 0x011 || id == 0x012 || id == 0x016
      || (0x048 ≤ id && id < 0x058 && (id % 4 == 2 || id % 4 == 3))
      || (0x058 ≤ id && id < 0x068 && (id % 4 == 0 || id % 4 == 1))
      || (0x068 ≤ id && id < 0x088 && id % 4 ≠ 0)

/-- A fault of class NOTIFY or above wakes FALLOW; at STOP and KILL it goes on to HALTED (R100, Table 4.2). -/
def Dev.faultWake (d : Dev) (k : Nat) : Dev := d.wakeFrom 5 (k < 4)

/-- The actions of a class on the units of a detection (Table 16.4, R383). -/
def Dev.react (d : Dev) (id k : Nat) (us : List FaultUnit) : Dev :=
  let d := if k = 5 || d.flt.outClass.val.toNat ≤ k then d.modFlt fun x => { x with asserted := true } else d
  let d := us.foldl (Dev.containUnit · id) d
  if k = 5 then d.killActions else if k = 4 then d.stopActions else d

/-- A record takes a merged detection (R386). -/
def FaultRecord.merge (r : FaultRecord) (id : Nat) (esc : Option Nat) : FaultRecord :=
  let r := { r with merged := satInc r.merged, mergeMap := r.mergeMap ||| BitVec.ofNat 1024 (2 ^ id) }
  match esc with
  | some k => { r with cls := BitVec.ofNat 8 k, escalated := true, escSource := BitVec.ofNat 16 id
                       escClass := BitVec.ofNat 8 k }
  | none => r

/-- Change the latest-reaction record, and the first-fault record while its reaction is the one in progress. -/
def Faults.modRecords (x : Faults) (f : FaultRecord → FaultRecord) : Faults :=
  let first := match x.reaction with
    | some r => r.first
    | none => false
  { x with latestRec := f x.latestRec, firstRec := if first then f x.firstRec else x.firstRec }

/-- The part of R386 from "if a reaction is in progress" on. -/
def Dev.collect (d : Dev) (id k : Nat) (forced : Bool) (us : List FaultUnit) : Dev :=
  match d.flt.reaction with
  | some r =>
    let esc := decide (r.cls < k)
    let start := d.flt.latestRec.source
    let d := d.modFlt fun x => x.modRecords fun y => y.merge id (if esc then some k else none)
    let d := if k ≥ 2 then d.occur evFault 1 id (leBytes 2 start.toNat) else d
    if esc then (d.modFlt fun x => { x with reaction := some { r with cls := k } }).react id k us
    else if k = 3 then us.foldl (Dev.containUnit · id) d
    else d
  | none =>
    if k < 3 then d else
    let rec' : FaultRecord := {
      source := BitVec.ofNat 16 id, cls := BitVec.ofNat 8 k, forced, valid := true, ts := d.sys.now
      escSource := 0xFFFF }
    let first := d.flt.firstRec.source = 0xFFFF
    let d := d.modFlt fun x =>
      { x with
        latestRec := rec', firstRec := if first then rec' else x.firstRec
        reaction := some { cls := k, first } }
    d.react id k us

/-- One detection of a source, forced or real (R377, R386). `floor` is the least class used (R283), `info` replaces
byte 1 of the event's Data (R405). A loss of reference in step 1 of a cold start starts no reaction (R58); nothing is
detected while the part is held in reset (R53). -/
def Dev.detectCore (d : Dev) (id : Nat) (forced : Bool) (floor : Nat) (info : Option Nat) : Dev :=
  if d.sys.held || !d.sourceInUse id then d else
  let d := d.modSrc id fun x => { x with count := satInc x.count }
  let x := d.src id
  let k := max x.cls.val.toNat floor
  if k = 0 || x.latched then d else
  let boot := d.mode = mBoot && d.sys.bootStep = 1 && (id == 1 || id == 2)
  let d := d.modSrc id fun x => { x with latched := true, forced, left := if boot then 0 else BitVec.ofNat 3 k }
  let us := d.unitsOf id
  let k' := if k = 3 && us.isEmpty then 2 else k
  let d := if k = 3 && us.isEmpty then d.modSrc id fun x => { x with left := 2 } else d
  let d := if k' ≥ 2 then
      (d.occur evFault 0 id [BitVec.ofNat 8 k, BitVec.ofNat 8 (info.getD (bit forced))]).faultWake k'
    else d
  if boot then d else d.collect id k' forced us

/-- EVENT_OVF: its cause is present while every coalescing counter is in use (Table 16.2). -/
def Dev.checkOvf (d : Dev) : Dev :=
  let full := decide (counterSize ≤ d.ev.used)
  if full && !(d.src 0x017).cause then
    (d.modSrc 0x017 fun x => { x with cause := true }).detectCore 0x017 false 0 none
  else if !full && (d.src 0x017).cause then d.endCause 0x017
  else d

/-- One occurrence of an event, with EVENT_OVF. -/
def Dev.event (d : Dev) (cls : Fin 16) (kind source : Nat) (data : List Byte) : Dev :=
  (d.occur cls kind source data).checkOvf

/-- A real detection of a source. An occurrence source's cause is gone at once (R377). -/
def Dev.detectInfo (d : Dev) (id : Nat) (info : Option Nat) : Dev :=
  let d := if d.sys.held then d else d.modSrc id fun x => { x with cause := true }
  let d := (d.detectCore id false 0 info).checkOvf
  if goneAtOnce id then (d.endCause id).checkOvf else d

/-- A real detection of a source. -/
def Dev.detect (d : Dev) (id : Nat) : Dev := d.detectInfo id none

/-- PORT_FLT for HOT_ACTION 2: the class is at least CONTAIN (R283). -/
def Dev.detectHot (d : Dev) (gp : Nat) : Dev :=
  ((d.modSrc (idPortFlt gp) fun x => { x with hotCause := true }).detectCore (idPortFlt gp) false 3 none).checkOvf

/-- The real cause of a source goes, with EVENT_OVF. -/
def Dev.causeGone (d : Dev) (id : Nat) : Dev := if (d.src id).cause then (d.endCause id).checkOvf else d

/-- An occurrence source meets its next normal occurrence (R377). -/
def Dev.normal (d : Dev) (id : Nat) : Dev := d.causeGone id

/-- A furrow die or the hub counts a dropped write of PRT_WRDROP: FRW_WRDROP of the die is raised (Table 16.3). -/
def Dev.prtWrDrop (d : Dev) (gp : Fin 112) : Dev :=
  (d.modPort gp fun p => { p with wrDrop := satInc p.wrDrop }).detect (idDie (gp.val / 16) oWrDrop)

/-! ## Unit resets -/

/-- Units a unit reset takes in: a swath's and a die's ports leave their own CONTAIN as well (R96). -/
def Dev.resetUnits (d : Dev) (u : FaultUnit) : List FaultUnit :=
  match u with
  | .swath _ | .die _ => u :: (d.unitPorts u).map FaultUnit.port
  | _ => [u]

/-- FAULT_OUT is deasserted for a CONTAIN reaction when no unit remains contained, unless WRST_N has asserted it (R89,
R383). -/
def Dev.outAfterContain (d : Dev) : Dev :=
  if d.flt.units.isEmpty && d.sys.wrstN && d.mode ≠ mHalted && d.mode ≠ mBoot && (match d.flt.reaction with
      | some r => r.cls == 3
      | none => true) then
    d.modFlt fun x => { x with asserted := false }
  else d

/-- The reset of a unit (R98, R377): occurrence causes of its sources end, containment is left, a latch whose cause is
gone clears, and a source whose cause persists is raised again at once. -/
def Dev.leaveContain (d : Dev) (u : FaultUnit) : Dev :=
  let us := d.resetUnits u
  let inUs := fun (x : FaultUnit × Nat) => us.contains x.1
  let occ := (List.range 704).filter fun id =>
    ((0x018 ≤ id && id < 0x048) || (0x05B ≤ id && id < 0x068 && id % 4 == 3) || (0x068 ≤ id && id < 0x088 && id % 4 == 0)
      || (0x100 ≤ id && (id - 0x100) % 0x40 < 0x30 && (id - 0x100) % 0x40 % 3 == 2))
    && (d.src id).cause && (d.unitsOf id).any us.contains
  let d := occ.foldl Dev.endCause d
  let ids := ((d.flt.units.filter inUs).map fun x => x.2).eraseDups
  let ports := (us.flatMap d.unitPorts).eraseDups.filter d.portContained
  let d := d.modFlt fun x => { x with units := x.units.filter fun y => !inUs y }
  let d := ports.foldl (fun d gp =>
    if d.portContained gp then d else d.occur evPort 3 gp.val (le4 d.ports[gp].lineNow.toNat)) d
  let d := ids.foldl (fun d id =>
    let x := d.src id
    if x.active then
      (d.modSrc id fun x => { x with latched := false }).detectCore id (!x.cause && !x.hotCause)
        (if x.hotCause then 3 else 0) none
    else d.unlatch id) d
  d.outAfterContain.checkOvf

end Sys2Proof.Machine
end

