-- ==== Sys2Proof/Machine/Sessions.lean ====
section
/-! DEFINITION. How a command is checked and answered (R106 to R121, R138, R451), and the closing of sessions. -/

namespace Sys2Proof.Machine

/-! ## Closing (R121) -/

/-- A reply of a session that has closed holds no response slot. -/
def freedSlot (id : BitVec 8) (slot : RespSlot) (session : BitVec 16) : RespSlot :=
  if (slot = .session ∨ slot = .reserved) ∧ session.toNat = id.toNat then .free else slot

/-- A session closes for a cause of Table 5.12. Its response slots, duplicates, waiting commands and subscription go
with it. A command in the work queue has been taken: it executes, or goes on executing, and its reply is discarded
(R121). Replies already sent stay: one that waits for an SPI READ is still read (DESIGN CHOICE, log 49). -/
def Dev.closeSession (d : Dev) (id : BitVec 8) (cause : Nat) : Dev :=
  match d.ses.openS.find? fun (x : Session) => x.id == id with
  | none => d
  | some x =>
  let d := d.modSes fun t => { t with
    openS := t.openS.filter fun (x : Session) => x.id != id
    waiting := t.waiting.filter fun e => !e.holds x
    work := t.work.map fun (e : WorkEntry) => if e.holds x then { e with orphan := some x } else e
    freeIds := t.freeIds ++ [id]
    spiOut := t.spiOut.map fun (r : Reply) => { r with slot := freedSlot id r.slot r.session }
    qp := match x.via with
      | .pcie q => vmod t.qp q fun y => { y with cqOut := y.cqOut.map fun o => (freedSlot id o.1 o.2, o.2) }
      | _ => t.qp
    gate := if t.gate = some id then none else t.gate }
  let d := { d with ev := { d.ev with ring := d.ev.ring.map fun (e : RingEntry) =>
    { e with readers := e.readers.filter (· != id) } } }
  let d := d.freeEntries.leaveContain (.session id)
  d.event evSession 0 id.toNat [BitVec.ofNat 8 cause]

/-- Every session that meets a condition closes; provisional IDs that meet it are freed at once (for a disabled queue
pair and a PCIe reset a DESIGN CHOICE, log 50: R121 and R123 name sessions only). -/
def Dev.closeAll (d : Dev) (p : Via → Bool) (cause : Nat) : Dev :=
  let ids := (d.ses.openS.filter fun (x : Session) => p x.via).map fun x => x.id
  let d := ids.foldl (fun d id => d.closeSession id cause) d
  d.modSes fun t => { t with
    prov := t.prov.filter fun (x : Provisional) => !p x.via
    freeIds := t.freeIds ++ ((t.prov.filter fun (x : Provisional) => p x.via).map fun x => x.id) }

/-! ## Steps 1 to 7 of Table 5.3 -/

/-- SES_DROP_NET. -/
def Dev.dropNet (d : Dev) : Dev := d.modSes fun t => { t with dropNet := satInc t.dropNet }

/-- SES_DROP_CRC. -/
def Dev.dropCrc (d : Dev) : Dev := d.modSes fun t => { t with dropCrc := satInc t.dropCrc }

/-- SES_DROP_LEN. -/
def Dev.dropLen (d : Dev) : Dev := d.modSes fun t => { t with dropLen := satInc t.dropLen }

/-- A packet that finds the SPI buffer full is lost (R130). -/
def Dev.dropSpi (d : Dev) : Dev := d.modSes fun t => { t with dropSpi := satInc t.dropSpi, spiLastDropped := true }

/-- SES_DROP_DOORBELL counts a packet lost for a full reserved slot, a waking packet, a bad doorbell (Table 5.22). -/
def Dev.dropDoorbell (d : Dev) : Dev := d.modSes fun t => { t with dropDoorbell := satInc t.dropDoorbell }

/-- Replies that hold a response slot on a transport: CQ slots not passed, replies not read over SPI (R193). A reply of the
pre-session in the ring of a queue pair that has been disabled holds the pre-session's slot of PCIe until the pair is
enabled again, when its ring starts over: no rule lets it go earlier (R107; DESIGN CHOICE, log 66). -/
def Dev.outstanding (d : Dev) (v : Via) : List (RespSlot × BitVec 16) :=
  match v with
  | .udp _ _ => []
  | .pcie _ => d.ses.qp.toList.flatMap fun (y : QueuePair) => y.cqOut
  | .spi => d.ses.spiOut.map fun (r : Reply) => (r.slot, r.session)

/-- The one slot of the pre-session, or of a provisional ID, on a transport is in use: by a command taken or by its
reply (R107). -/
def Dev.slotHeld (d : Dev) (slot : RespSlot) (v : Via) (session : BitVec 16) : Bool :=
  let mine := fun (k : RespSlot) (n : BitVec 16) => k == slot && (slot == .pre || n == session)
  (d.outstanding v).any (fun o => mine o.1 o.2)
    || d.ses.work.any fun (e : WorkEntry) => viaCode e.packet.via == viaCode v && mine e.slot e.packet.session

/-- A reply in the reserved response slot; with the slot occupied the packet is lost and counted (R119). -/
def Dev.reservedReply (d : Dev) (x : Session) (r : Reply) : Dev :=
  if x.reservedResponse.isSome then
    (((d.dropDoorbell).modSes fun t => { t with overrun := some x.id }).detect 0x016).modSes fun t => { t with overrun := none }
  else d.deliver { r with slot := .reserved }

/-- A reply to a packet refused before it is taken. Beside ST_NO_CREDIT the spec names no slot for it: it uses one of
the session's ordinary slots, and so counts as a used credit until it is delivered, the reserved slot when they are all
in use; where the pre-session's or the provisional ID's slot is in use, the packet is lost and counted (DESIGN CHOICE,
log 46). -/
def Dev.refusePacket (d : Dev) (p : Packet) (code offset : Nat) : Dev :=
  let r := mkReply d p code offset [] false
  if viaUdp p.via then d.deliver r else
  match d.owner? p with
  | some x => if d.creditsUsed x < x.credits then d.deliver r else d.reservedReply x r
  | none => if d.slotHeld r.slot p.via p.session then d.dropDoorbell else d.deliver r

/-- ST_NO_CREDIT, in the reserved response slot (R106 step 6, R119). -/
def Dev.refuseCredit (d : Dev) (p : Packet) (x : Session) : Dev :=
  d.reservedReply x (mkReply d p stNoCredit noField [] false)

/-- The MAC a packet carries: the 16 bytes behind its parameters. -/
def pktMacBytes (p : Packet) : List Byte := (p.payload.drop p.length.toNat).take 16

/-- The MAC a packet should carry under a key (R104). -/
def pktMacWanted (key : List Byte) (p : Packet) : List Byte :=
  (hmacSha256 key ((pktBody p).take (24 + p.length.toNat))).take 16

/-- Steps 5 to 7 for an open session. -/
def Dev.admitPacket (d : Dev) (p : Packet) (x : Session) : Dev × Bool :=
  if x.macRequired && !(pktMac p && pktMacBytes p == pktMacWanted x.key p) then
    let d := d.modSes fun t => { t with dropMac := satInc t.dropMac }
    let d := d.modSession x.id fun (y : Session) => { y with macFails := y.macFails + 1 }
    let d := d.refusePacket p stMac noField
    (if x.macFails + 1 ≥ 16 then d.closeSession x.id 3 else d, false)
  else
    let d := d.modSession x.id fun (y : Session) =>
      { y with macFails := 0, idleSince := d.sys.now, idleUsed := 0 }
    if d.creditsUsed x ≥ x.credits then (d.refuseCredit p x, false)
    else if p.seq = x.expectedSeq then
      (d.modSession x.id fun (y : Session) =>
        { y with expectedSeq := y.expectedSeq + 1, history := ((p.seq, none) :: y.history).take 64 }, true)
    else
      match x.history.find? fun (h : Word × Option Word) => h.1 = p.seq with
      | some (_, some w) => ((d.deliver (mkReply d p (w.toNat % 256) (w.toNat / 65536) [] true)).idleRun x.id.toNat, false)
      | some (_, none) => (d.modSession x.id fun (y : Session) => { y with dups := y.dups ++ [p] }, false)
      | none => (d.refusePacket p stBadParam 4, false)

/-- Step 1: length and CRC. -/
def pktStep2 (p : Packet) : Nat := 24 + p.length.toNat + (if pktMac p then 16 else 0) + 4

/-- Steps 2 and 3 (from a packet that passed step 1): the refusal, if any. `none` inside: discarded without reply. -/
def pktStep3 (p : Packet) : Option (Option (Nat × Nat)) :=
  if pktStep2 p > pktBytesReceived p then some none
  else if pktStep2 p < pktBytesReceived p then some (some (stBadLength, 10))
  else if p.version ≠ 8 then some (some (stBadParam, 0))
  else if p.flags &&& 0xFD ≠ 0 then some (some (stBadParam, 1))
  else if p.status ≠ 0 then some (some (stBadParam, 12))
  else none

/-- DEVICE_INFO in the pre-session is answered ST_AUTH_FAIL while the KEY region has failed its integrity check, but
over a secure-strapped SPI port (R131). -/
def Dev.infoBarred (d : Dev) (p : Packet) : Bool :=
  d.otp.integ.getLsbD 3 && !(p.via == .spi && d.sys.mgmtSec)

/-- Steps 1 to 7 of Table 5.3. True: the command passed them and may be taken. The check of the UDP epoch (R128), for
which Table 5.3 has no step, stands between steps 3 and 4 (DESIGN CHOICE, log 51). -/
def Dev.front (d : Dev) (p : Packet) : Dev × Bool :=
  if !pktStep1 p then (d.dropCrc, false) else
  match pktStep3 p with
  | some none => (d.dropLen, false)
  | some (some (c, o)) => (d.refusePacket p c o, false)
  | none =>
    if p.epoch ≠ 0 && p.epoch ≠ d.ses.epoch then (d.refusePacket p stNoSession noField, false)
    else if p.session = 0 then
      if p.opcode = 0x12 then
        if d.infoBarred p then (d.refusePacket p stAuthFail noField, false) else (d, true)
      else if p.opcode = 0x00 && p.variant = 0 then (d, true)
      else (d.refusePacket p stNoSession noField, false)
    else
      match d.prov? p, d.owner? p with
      | some _, _ =>
        if p.opcode = 0x00 && p.variant = 1 && !pktMac p && p.seq = 0 then (d, true)
        else (d.refusePacket p stNoSession noField, false)
      | none, some x => d.admitPacket p x
      | none, none => (d.refusePacket p stNoSession noField, false)

/-! ## Intake (R194) -/

/-- Commands are taken: the command processor runs (Table 4.1, R92). -/
def Dev.intakeOpen (d : Dev) : Bool := d.ses.running && !d.sys.held

/-- The transport a packet came over is on (Table 2.5). -/
def Dev.linkOn (d : Dev) (v : Via) : Bool :=
  match v with
  | .pcie _ => d.sys.hostIf != 2 && d.sys.hostIf != 3
  | .udp _ _ => d.sys.hostIf != 1 && d.sys.hostIf != 3
  | .spi => true

/-- The wake source of a transport (Table 4.4). -/
def viaWake : Via → BitVec 4
  | .pcie _ => 2
  | .udp _ _ => 3
  | .spi => 4

/-- A waiting command may be taken (R194): a work-queue entry is free; its session has no entry in the work queue, is
not contained (Table 16.4) and has a response slot other than the reserved one free; a command of the pre-session or of a
provisional ID finds that slot free (R107). -/
def Dev.mayTake (d : Dev) (e : WorkEntry) : Bool :=
  decide (d.ses.work.length < 64) &&
  match e.slot, d.owner? e.packet with
  | .session, some x =>
    !d.ses.work.any (fun w => w.holds x) && decide (d.slotsUsed x < x.credits) && !d.contained (.session x.id)
  | .session, none => false
  | k, _ => !d.slotHeld k e.packet.via e.packet.session

/-- The next command in round-robin order of session ID after the one served last (R194). Commands of one session
wait in Sequence order. -/
def Dev.nextCommand (d : Dev) : Option WorkEntry :=
  let key := fun (e : WorkEntry) => (e.packet.session.toNat + 256 - (d.ses.rr.toNat + 1) % 256) % 256
  (d.ses.waiting.filter d.mayTake).foldl (fun best e => match best with
    | none => some e
    | some b => if key e < key b then some e else some b) none

/-- A waiting command enters the work queue. -/
def Dev.intoWork (d : Dev) (e : WorkEntry) : Dev :=
  d.modSes fun t => { t with
    waiting := t.waiting.erase e, work := t.work ++ [e], rr := BitVec.ofNat 8 e.packet.session.toNat }

/-- A command that has passed steps 1 to 7 waits to be taken. -/
def Dev.enqueue (d : Dev) (p : Packet) : Dev := d.modSes fun t => { t with waiting := t.waiting ++ [d.entry p] }

/-- The command the processor executes next: commands are executed in work-queue order, while parked ones wait
(R185, R194). -/
def Dev.current (d : Dev) : Option WorkEntry := d.ses.work.find? fun (e : WorkEntry) => e.park.isNone

/-- The command of a packet is the one to execute next: COMMAND_INTAKE has taken it. -/
def Dev.taken (d : Dev) (p : Packet) : Bool :=
  match d.current with
  | some e => e.packet = p
  | none => false

/-- The packet's command has been received and has not begun to execute. -/
def Dev.queued (d : Dev) (p : Packet) : Bool :=
  d.ses.work.any (fun (e : WorkEntry) => e.packet = p && e.park.isNone)
    || d.ses.waiting.any fun (e : WorkEntry) => e.packet = p

/-- A waiting command begins when the work queue holds nothing to execute and the round robin serves it next; else it
waits on (R184, R185, R194). -/
def Dev.begin (d : Dev) (p : Packet) : Dev × Bool :=
  match d.current, d.nextCommand with
  | none, some e => if e.packet = p then (d.intoWork e, true) else (d, false)
  | _, _ => (d, false)

/-- The endpoint is out of reset and PCIe is strapped on. -/
def Dev.pcieUp (d : Dev) : Bool := d.pci.perst && d.linkOn (.pcie 0) && !d.sys.held

/-- The bound session of a queue pair has a credit, so a slot may be fetched (R196). With none bound, one is fetched
while no packet of the queue pair waits (DESIGN CHOICE, log 52). -/
def Dev.qpCredit (d : Dev) (q : Fin 256) : Bool :=
  match d.ses.openS.find? fun (x : Session) => x.via == .pcie q with
  | some x => decide (d.creditsUsed x < x.credits)
  | none => !d.ses.waiting.any fun e => e.packet.via == .pcie q

/-- CQ slots written and not passed, or owed to packets already fetched, leave one free beside the last, which is
reserved (R122). -/
def Dev.cqRoom (d : Dev) (q : Fin 256) : Bool :=
  let owed := fun (e : WorkEntry) => e.packet.via == .pcie q && e.orphan.isNone
  let dups := (d.ses.openS.filter fun (x : Session) => x.via == .pcie q).flatMap fun (x : Session) => x.dups
  decide (d.ses.qp[q].cqOut.length + (d.ses.waiting.filter owed).length + (d.ses.work.filter owed).length + dups.length
    + 1 < d.ses.qp[q].entries.toNat)

/-- The PZ8 fetches from a queue pair (R122, R125, R196). -/
def Dev.fetches (d : Dev) (q : Fin 256) : Bool :=
  d.pcieUp && d.ses.qp[q].enable && d.qpCredit q && d.cqRoom q

/-- An SQ slot waits to be taken, and the PZ8 takes it (R124). -/
def Dev.takesSlot (d : Dev) (q : Fin 256) : Bool := d.fetches q && d.ses.qp[q].sqHead != d.ses.qp[q].sqTail.toNat

/-- The next SQ slot is taken. -/
def Dev.sqAdvance (d : Dev) (q : Fin 256) : Dev :=
  d.modSes fun t => { t with qp := vmod t.qp q fun y =>
    { y with sqHead := if y.sqHead + 1 ≥ y.entries.toNat then 0 else y.sqHead + 1 } }

/-- A packet fetched from a queue pair meets steps 1 to 7; one that fails step 1 or 2 without a reply is marked Discarded
in a CQ slot, with the session bound when the slot was taken (R124, Table 5.14). -/
def Dev.slotFront (d : Dev) (q : Fin 256) (p : Packet) : Dev × Bool :=
  let bound := d.qpSession q
  if !pktStep1 p then (d.dropCrc.cqWrite q 0 0 0 true bound (.free, 0), false)
  else if pktStep3 p = some none then (d.dropLen.cqWrite q p.seq 0 0 true bound (.free, 0), false)
  else d.front p

/-- A packet arrives and meets steps 1 to 7: over PCIe when its SQ slot is taken, over the other transports in a receive
buffer, and is lost when those are full (R124, R130, R196). -/
def Dev.arrive (d : Dev) (p : Packet) : Dev × Bool :=
  match p.via with
  | .pcie q => if d.takesSlot q then (d.sqAdvance q).slotFront q p else (d, false)
  | .udp _ _ => if 16 ≤ d.ses.ethRx.length then (d.dropNet, false) else d.front p
  | .spi => if 2 ≤ d.ses.spiRx.length then (d.dropSpi, false) else d.front p

/-- The steps before step 8 of a command given as a row. The row of a command already received is its turn to execute;
any other is the arrival of its packet, and its execution when it is served at once. A packet that wakes FALLOW is
discarded and counted (R100); with the intake closed nothing is taken. -/
def Dev.take (d : Dev) (p : Packet) : Dev × Bool :=
  if !d.linkOn p.via then (d, false)
  else if d.mode = mFallow then ((d.wakeFrom (viaWake p.via) true).dropDoorbell, false)
  else if !d.intakeOpen then (d, false)
  else if d.queued p then (if d.taken p then (d, true) else d.begin p)
  else
    let r := d.arrive p
    if r.2 then (r.1.enqueue p).begin p else r

/-! ## Steps 8 to 14 -/

/-- Mode sets of Table 6.1 and the single modes of Table 6.2. -/
abbrev setA : List (BitVec 4) := [mBoot, mReady, mPrint, mService, mCalibrate, mHalted, mTest]
abbrev setN : List (BitVec 4) := [mReady, mPrint, mService, mCalibrate, mHalted, mTest]
abbrev setO : List (BitVec 4) := [mReady, mPrint, mService, mCalibrate, mTest]

/-- A row of Table 6.2. `role` sees the session and the parameters, `len` the parameters, `named` the machine too (R147,
Table 17.3). -/
structure CmdSpec where
  opcode : Byte
  variant : Byte
  modes : List (BitVec 4)
  role : Session → List Byte → Bool
  len : List Byte → Bool
  named : State → Session → List Byte → Option Nat := fun _ _ _ => none  -- where the role is short of what it names

/-- The mode step 10 judges by (R451). -/
def Dev.judgedMode (d : Dev) : BitVec 4 := if d.halting then mHalted else d.mode

/-- The session of the pre-session and of a provisional ID, for the checks that look at one. -/
def noSession (p : Packet) : Session :=
  { id := 0, role := rObserver, slot := 0, via := p.via, key := [], macRequired := false, credits := 0
    expectedSeq := 0, history := [], idleSeconds := 0, idleSince := 0, idleUsed := 0, macFails := 0, subs := 0
    subPort := 0, pushSeq := 0, lost := 0, dups := [], responses := [], reservedResponse := none }

/-- The session a command acts for: the one its packet names from its address, or the one that has closed since the
command was taken (R121). -/
def Dev.actsFor (d : Dev) (p : Packet) : Session := (d.entryOf p).orphan.getD ((d.owner? p).getD (noSession p))

/-- A packet taken for a row, and the session it acts for. -/
structure Ctx where
  s : State
  p : Packet
  x : Session

/-- The parameters of a command. -/
abbrev Ctx.ps (c : Ctx) : List Byte := pktParams c.p

/-- The device a command is judged against. -/
abbrev Ctx.d (c : Ctx) : Dev := c.s.dev

/-- A reply of `n` parameter bytes can be carried. -/
abbrev Ctx.fits (c : Ctx) (n : Nat) : Bool := replyFits c.p c.x.macRequired n

/-- The session's role is at least this one. -/
def atLeast (r : BitVec 2) : Session → List Byte → Bool := fun x _ => decide (r ≤ x.role)

/-- Step 13 for a reply of `n` parameter bytes. -/
def Ctx.needRoom (c : Ctx) (n offset : Nat) : Chk Unit := need (c.fits n) stLengthExceeds offset

/-- How a command ends. -/
inductive Finish where
  | ok (params : List Byte)
  | queued (params : List Byte)
  | status (code offset : Nat)
  | park (w : Park)
  | done                                 -- answered already
  deriving DecidableEq, Repr

/-- Steps 9 to 11. -/
def State.judge (s : State) (sp : CmdSpec) (p : Packet) (x : Session) : Chk Unit := do
  let m := s.dev.judgedMode
  need (sp.role x (pktParams p)) stRole noField
  need (sp.named s x (pktParams p)).isNone stRole ((sp.named s x (pktParams p)).getD noField)
  need (sp.modes.contains m) (if m = mHalted then stHalted else stMode) noField
  need (sp.len (pktParams p)) stBadLength 10

/-- The end of a command. -/
def Dev.finish (d : Dev) (p : Packet) : Finish → Dev
  | .ok ps => d.answer p stOk noField ps
  | .queued ps => d.answer p stQueued noField ps
  | .status c o => d.answer p c o []
  | .park w => d.modSes fun t => { t with work := t.work.map fun (e : WorkEntry) =>
      if e.packet = p then { e with park := some w } else e }
  | .done => d

/-- A reply longer than the transport's buffer fails step 13 (R124). The reply that says so is written whatever room there
is: no rule gives a command without a reply (DESIGN CHOICE, log 64). -/
def Finish.size : Finish → Nat
  | .ok ps => ps.length
  | .queued ps => ps.length
  | _ => 0

/-- The packet of a row: its opcode and variant are the row's. -/
def CmdSpec.packet (sp : CmdSpec) (p : Packet) : Packet := { p with opcode := sp.opcode, variant := sp.variant }

/-- A command row with an effect of type α beside the device: judged, executed by `body`, answered. A command that
fails any step commits nothing (R106). -/
def runCmd {α : Type} (sp : CmdSpec) (body : Ctx → Chk (Dev × α × Finish)) (keep : State → α) (p : Packet) (s : State) :
    Dev × α :=
  let p := sp.packet p
  let r := s.dev.take p
  if !r.2 then (r.1, keep s) else
  let d := r.1
  let x := d.actsFor p
  let c : Ctx := { s := { s with dev := d }, p, x }
  match c.s.judge sp p x with
  | .error e => (d.answer p e.1 e.2 [], keep s)
  | .ok _ =>
    match body c with
    | .error e => (d.answer p e.1 e.2 [], keep s)
    | .ok (d', a, f) =>
      if c.fits f.size then (d'.finish p f, a) else (d.answer p stLengthExceeds noField [], keep s)

/-- A command that changes the device alone. -/
def cmdDev (sp : CmdSpec) (body : Ctx → Chk (Dev × Finish)) (p : Packet) (s : State) : Dev :=
  (runCmd sp (fun c => do let r ← body c; return (r.1, (), r.2)) (fun _ => ()) p s).1

/-- A command that may write memory. -/
def cmdMem (sp : CmdSpec) (body : Ctx → Chk (Dev × Banks × Finish)) (p : Packet) (s : State) : Dev × Banks :=
  runCmd sp body (fun s => s.mem) p s

/-- The lengths a command accepts: exactly `n`. -/
def lenIs (n : Nat) : List Byte → Bool := fun ps => ps.length == n

end Sys2Proof.Machine
end

