-- ==== Sys2Proof/Machine/Link.lean ====
section
/-! DEFINITION. The transports and the command intake: queue pairs (R122 to R125), UDP (R126 to R128), SPI (R129 to
R131), intake (R194, R196), and the expiries of sessions, lockouts and ring entries. -/

namespace Sys2Proof.Machine

/-! ## Queue pairs -/

/-- A received packet meets steps 1 to 7; passing them it waits to be taken (R196). -/
def Dev.receive (d : Dev) (p : Packet) : Dev :=
  let r := d.front p
  if r.2 then r.1.enqueue p else r.1

/-- An SQ slot is taken: its packet passes the checks or is refused; one that fails step 1 or 2 without a reply is
marked Discarded in a CQ slot (R124, Table 5.14). -/
def Dev.sqFetch (d : Dev) (q : Fin 256) (slot : SqSlot) (bytes : List Byte) : Dev :=
  if !d.intakeOpen || d.mode = mFallow || !d.takesSlot q then d
  else
    match parsePacket (.pcie q) 0 slot.replyLen slot.replyAddr bytes with
    | none => (d.sqAdvance q).dropCrc.cqWrite q 0 0 0 true (d.qpSession q) (.free, 0)
    | some p =>
      let r := (d.sqAdvance q).slotFront q p
      if r.2 then r.1.enqueue p else r.1

/-- SQ_FETCH. -/
def execSqFetch (q : Fin 256) (slot : SqSlot) (packet : List Byte) (s : State) : Out :=
  onDev (fun s => s.dev.sqFetch q slot packet) s

/-- A doorbell write that counts as dropped (R125), or that wakes FALLOW and is lost (R100). -/
def Dev.doorbellOk (d : Dev) (q : Fin 256) (v : Word) : Bool :=
  d.ses.qp[q].enable && decide (v.toNat < d.ses.qp[q].entries.toNat)

/-- A write to SqTail. -/
def Dev.sqTail (d : Dev) (q : Fin 256) (v : Word) : Dev :=
  if d.sys.held || !d.linkOn (.pcie q) then d
  else if d.mode = mFallow then (d.wakeFrom 2 true).dropDoorbell
  else if d.doorbellOk q v then
    d.modSes fun t => { t with qp := vmod t.qp q fun y => { y with sqTail := BitVec.ofNat 7 v.toNat } }
  else d.dropDoorbell

/-- SQ_TAIL_DOORBELL. -/
def execSqTailDoorbell (q : Fin 256) (value : Word) (s : State) : Out := onDev (fun s => s.dev.sqTail q value) s

/-- A session's response slots after a reply has left: the oldest reply's, or the reserved one. -/
def Session.leaves (x : Session) (slot : RespSlot) : Session :=
  match slot with
  | .session => { x with responses := x.responses.drop 1 }
  | .reserved => { x with reservedResponse := none }
  | _ => x

/-- CQ slots that CqHead has passed leave: a reply leaves its session's response queue (R193). -/
def Dev.cqPass (d : Dev) (q : Fin 256) (outs : List (RespSlot × BitVec 16)) : Dev :=
  outs.foldl (fun d o => d.modSes fun t => { t with
    openS := t.openS.map fun (x : Session) =>
      if x.via = Via.pcie q && x.id.toNat = o.2.toNat then x.leaves o.1 else x }) d

/-- A write to CqHead. -/
def Dev.cqHead (d : Dev) (q : Fin 256) (v : Word) : Dev :=
  if d.sys.held || !d.linkOn (.pcie q) then d
  else if d.mode = mFallow then (d.wakeFrom 2 true).dropDoorbell
  else if d.doorbellOk q v then
    let x := d.ses.qp[q]
    let n := (v.toNat + x.entries.toNat - x.cqHead.toNat) % x.entries.toNat
    d.idleAfter (d.qpSession q).toNat fun d =>
      (d.modSes fun t => { t with qp := vmod t.qp q fun y =>
        { y with cqHead := BitVec.ofNat 7 v.toNat, cqOut := y.cqOut.drop n } }).cqPass q (x.cqOut.take n)
  else d.dropDoorbell

/-- CQ_HEAD_DOORBELL. -/
def execCqHeadDoorbell (q : Fin 256) (value : Word) (s : State) : Out := onDev (fun s => s.dev.cqHead q value) s

/-! ## Intake -/

/-- The variants Table 6.2 allocates to an opcode: how many, from 0. -/
def allocated (opcode : Nat) : Nat :=
  match opcode with
  | 0x00 => 2 | 0x01 => 1 | 0x02 => 1 | 0x04 => 2
  | 0x10 => 1 | 0x11 => 8 | 0x12 => 1 | 0x13 => 1
  | 0x20 => 1 | 0x21 => 1 | 0x22 => 1 | 0x23 => 1
  | 0x30 => 1 | 0x31 => 1 | 0x32 => 1 | 0x33 => 3
  | 0x40 => 1 | 0x41 => 1 | 0x42 => 1 | 0x43 => 1 | 0x44 => 2 | 0x45 => 1
  | 0x50 => 1 | 0x51 => 1 | 0x52 => 1 | 0x53 => 1 | 0x54 => 1 | 0x55 => 1
  | 0x60 => 2 | 0x61 => 2 | 0x62 => 1 | 0x63 => 1 | 0x64 => 1 | 0x65 => 1 | 0x66 => 1
  | 0x70 => 1 | 0x71 => 1 | 0x72 => 1 | 0x73 => 1
  | 0x80 => 1 | 0x81 => 1 | 0x82 => 1 | 0x83 => 1 | 0x84 => 1 | 0x85 => 1 | 0x86 => 1
  | 0x90 => 1 | 0x91 => 1 | 0x92 => 3 | 0x93 => 1 | 0x94 => 2 | 0x95 => 1 | 0x96 => 1 | 0x97 => 1
  | 0xA0 => 1 | 0xA1 => 1 | 0xA2 => 2
  | 0xB0 => 1 | 0xB1 => 1 | 0xB2 => 1
  | 0xC0 => 1 | 0xD0 => 1
  | 0xE0 => 1 | 0xE1 => 1 | 0xE2 => 1
  | _ => 0

/-- Packets in the receive buffers are checked in order of arrival. -/
def Dev.emptyBuffers (d : Dev) : Dev :=
  let eth := d.ses.ethRx
  let spi := d.ses.spiRx
  let d := d.modSes fun t => { t with ethRx := [], spiRx := [] }
  let d := eth.foldl (fun d (x : Packet × Bool) => if x.2 then d.receive x.1 else d.dropCrc) d
  spi.foldl (fun d x => match x with
    | some p => d.receive p
    | none => d.dropCrc) d

/-- One turn of the intake: buffers are emptied, one session's next command enters the work queue. An unallocated
opcode or variant fails step 8 there. -/
def Dev.intake (d : Dev) : Dev :=
  if d.intakeOpen && d.mode ≠ mFallow then
    let d := d.emptyBuffers
    match d.nextCommand with
    | none => d
    | some e =>
      let d := d.intoWork e
      if e.packet.variant.toNat < allocated e.packet.opcode.toNat then d else d.answer e.packet stBadOpcode noField []
  else d

/-- COMMAND_INTAKE. -/
def execCommandIntake (s : State) : Out := onDev (fun s => s.dev.intake) s

/-! ## Management Ethernet -/

/-- A datagram's transport header is in order (R127, Table 5.15). -/
def udpHeaderOk (b : List Byte) : Bool :=
  16 ≤ b.length && pU b 0 2 == 0x5A38 && pU b 2 1 == 0 && pU b 3 1 == 0 && pU b 12 4 == 0
    && decide (28 ≤ pU b 8 4) && decide (pU b 8 4 ≤ 1456) && pU b 8 4 == b.length - 16

/-- The broadcast address of the port's subnet; addresses hold the first octet in bits 7:0 (R443). -/
def Eth.broadcast (e : Eth) : Word :=
  let be := beWord (leBytes 4 e.ip.toNat)
  let host := 2 ^ (32 - e.prefixLen.toNat) - 1
  BitVec.ofNat 32 (leNat (beBytes (be / (host + 1) * (host + 1) + host)))

/-- A received frame (R126 to R128, R196, R443). A frame to the port's address wakes FALLOW (R100). A part held at the
memory test answers none: its commands wait for step 6 of the cold start (Tables 4.6, 6.1). -/
def Dev.ethFrame (d : Dev) (f : EthFrame) : Dev :=
  if d.sys.held || !d.linkOn (.udp 0 0) || d.sys.bootFail = 4 then d else
  let mine := fun (ip : Word) => d.eth.valid && ip == d.eth.ip
  let full := decide (16 ≤ d.ses.ethRx.length)
  let accept := fun (d : Dev) => d.modEth fun e => { e with rx := satInc e.rx }
  let reply := fun (d : Dev) (e : Emission) => ((accept d).emit e).modEth fun e => { e with tx := satInc e.tx }
  if d.mode = mFallow then
    match f with
    | .icmpEcho ip => if mine ip then (d.wakeFrom 3 true).dropDoorbell else d
    | .udp dst _ _ _ _ _ _ => if mine dst then (d.wakeFrom 3 true).dropDoorbell else d
    | _ => d
  else if full then d.dropNet
  else
    match f with
    | .arp ip => if mine ip then reply d .arpReply else d.dropNet
    | .icmpEcho ip =>
      if mine ip || (d.eth.valid && ip == d.eth.broadcast) then reply d .echoReply else d.dropNet
    | .udp dst src mac sport dport bad b =>
      if !mine dst || dport ≠ 47300 || bad || !udpHeaderOk b then d.dropNet
      else
        let epoch := BitVec.ofNat 32 (pU b 4 4)
        match parsePacket (.udp src sport) epoch 4096 0 (b.drop 16) with
        | some p => (d.modEth (·.heard p.via mac)).modSes fun t => { t with ethRx := t.ethRx ++ [(p, true)] }
        | none => d.dropNet
    | .other => d.dropNet

/-- ETHERNET_FRAME. -/
def execEthernetFrame (frame : EthFrame) (s : State) : Out := onDev (fun s => s.dev.ethFrame frame) s

/-! ## SPI -/

/-- An event waits for some SPI session: in a ring entry it has not read, or in a counter of a class it subscribes to,
which becomes a record (R134, R135). -/
def Dev.spiEventPending (d : Dev) : Bool :=
  d.ses.openS.any fun (x : Session) => x.via == .spi &&
    (d.ev.ring.any (fun (e : RingEntry) => e.readers.contains x.id)
      || d.ev.counters.any fun (c : EventRecord) => x.subs.getLsbD c.cls)

/-- MS_IRQ_N is low (R130, R134). -/
def Dev.msIrq (d : Dev) : Bool := !d.ses.spiOut.isEmpty || d.spiEventPending

/-- The SPI status byte (R129). -/
def Dev.spiStatusByte (d : Dev) : Byte :=
  BitVec.ofNat 8 (fld 0 1 (bit !d.ses.spiOut.isEmpty) + fld 1 1 (bit d.spiEventPending)
    + fld 2 1 (bit (2 ≤ d.ses.spiRx.length)) + fld 3 1 (bit d.ses.spiLastDropped) + fld 4 1 (bit d.sys.mgmtSec))

/-- A transaction on the SPI target: SPI_CS_N falling wakes FALLOW (R100); a transaction that does so has no other
effect. A part held at the memory test answers REG_READ only (Table 4.6). -/
def Dev.spiOp (d : Dev) (f : Dev → Dev) : Dev :=
  if d.sys.held || d.sys.bootFail = 4 then d else if d.mode = mFallow then d.wakeFrom 4 true else f d

/-- WRITE: the packet enters the receive buffer, or is lost when two wait (R130). -/
def Dev.spiWrite (d : Dev) (b : List Byte) : Dev :=
  if d.sys.held || d.sys.bootFail = 4 then d
  else if d.mode = mFallow then (d.wakeFrom 4 true).dropDoorbell
  else
    let d := d.emit (.spiOut [d.spiStatusByte])
    if 2 ≤ d.ses.spiRx.length then d.dropSpi
    else if 4096 < b.length then d.dropCrc
    else d.modSes fun t => { t with spiRx := t.spiRx ++ [parsePacket .spi 0 4096 0 b] }

/-- SPI_WRITE. -/
def execSpiWrite (packet : List Byte) (s : State) : Out := onDev (fun s => s.dev.spiWrite packet) s

/-- The bytes a READ shifts out: the length and the oldest reply (Table 5.16). -/
def Dev.spiReadBytes (d : Dev) : List Byte :=
  match d.ses.spiOut with
  | [] => leBytes 4 0
  | r :: _ => leBytes 4 (replyBytes r).length ++ replyBytes r

/-- READ: `clocked` bytes after the three turnaround bytes. The packet leaves its queues when all of it has been
clocked out (R130, R193). -/
def Dev.spiRead (d : Dev) (clocked : Nat) : Dev :=
  let bs := d.spiReadBytes
  let d' := d.emit (.spiOut (bs.take clocked))
  match d.ses.spiOut with
  | [] => d'
  | r :: rest =>
    if bs.length ≤ clocked then
      d'.idleAfter r.session.toNat fun d => d.modSes fun t => { t with
        spiOut := rest
        openS := t.openS.map fun (x : Session) =>
          if x.via = Via.spi && x.id.toNat = r.session.toNat then x.leaves r.slot else x }
    else d'

/-- SPI_READ. -/
def execSpiRead (clocked : Nat) (s : State) : Out := onDev (fun s => s.dev.spiOp (·.spiRead clocked)) s

/-- SPI_STATUS: LastDropped clears (R130). -/
def execSpiStatus (s : State) : Out :=
  onDev (fun s => s.dev.spiOp fun d =>
    (d.emit (.spiOut [d.spiStatusByte])).modSes fun t => { t with spiLastDropped := false }) s

/-- SPI_UNKNOWN_OPERATION: ignored and counted (R129). -/
def execSpiUnknownOperation (s : State) : Out :=
  onDev (fun s => s.dev.spiOp fun d => d.modSes fun t => { t with dropSpi := satInc t.dropSpi }) s

/-! ## Expiries. Each row is the moment it names (log 12). -/

/-- PROVISIONAL_ID_EXPIRY: LifeMs has passed and the ID is free again (Table 5.8). -/
def execProvisionalIdExpiry (id : BitVec 8) (s : State) : Out :=
  onDev (fun s =>
    if s.dev.ses.prov.any fun (x : Provisional) => x.id == id then
      s.dev.modSes fun t => { t with
        prov := t.prov.filter fun (x : Provisional) => x.id != id, freeIds := t.freeIds ++ [id] }
    else s.dev) s

/-- SESSION_IDLE_TIMEOUT: a session with nothing outstanding and no reply waiting closes with cause 2 (R120). -/
def execSessionIdleTimeout (id : BitVec 8) (s : State) : Out :=
  onDev (fun s => match s.dev.session? id.toNat with
    | some x => if s.dev.creditsUsed x = 0 && x.reservedResponse.isNone then s.dev.closeSession id 2 else s.dev
    | none => s.dev) s

/-- AUTH_LOCKOUT_END: the slot takes challenges again (R117). -/
def execAuthLockoutEnd (slot : Fin 8) (s : State) : Out :=
  onDev (fun s => s.dev.modSes fun t => { t with lockout := t.lockout &&& ~~~(BitVec.ofNat 8 (2 ^ slot.val)) }) s

/-- EVENT_ENTRY_EXPIRY: the oldest ring entry has waited 100 ms; the pull subscribers that have not read it lose it
(R135). -/
def execEventEntryExpiry (s : State) : Out :=
  onDev (fun s => match s.dev.ev.ring with
    | [] => s.dev
    | e :: rest =>
      let d := { s.dev with ev := { s.dev.ev with ring := rest } }
      let d := d.modSes fun t => { t with
        openS := t.openS.map fun (x : Session) =>
        if e.readers.contains x.id then { x with lost := satInc x.lost } else x }
      (d.drainCounters d.ev.counters.length).checkOvf) s

end Sys2Proof.Machine
end

