-- ==== Sys2Proof/Machine/OtpArray.lean ====
section
/-! DEFINITION. The OTP array: rows, doubled bits, redirection, seals, the cold-start checks and the key slots
(R392 to R413). -/

namespace Sys2Proof.Machine

/-- The rows of the array that hold a bit, strictly rising (log 9). -/
abbrev OtpRows := List (Nat × OtpRow)

/-- A row; one not listed is blank. -/
def otpGet : OtpRows → Nat → OtpRow
  | [], _ => {}
  | (k, v) :: r, n => if n < k then {} else if k = n then v else otpGet r n

/-- A row takes a new value. -/
def otpPut : OtpRows → Nat → OtpRow → OtpRows
  | [], n, v => if v = {} then [] else [(n, v)]
  | (k, w) :: r, n, v =>
    if n < k then (if v = {} then (k, w) :: r else (n, v) :: (k, w) :: r)
    else if k = n then (if v = {} then r else (n, v) :: r)
    else (k, w) :: otpPut r n v

/-- A burn in which every requested bit turns solid. -/
def wholeBurn : Burn := { solid := BitVec.allOnes 64, weak := 0 }

/-- Burning can only add 1 bits: of the bits of `data` not yet 1, some become solid and stay so, some read marginal, the
rest stay as they were (R393, R397). -/
def OtpRow.burn (w : OtpRow) (data : DWord) (b : Burn) : OtpRow :=
  let solid := data &&& b.solid
  { ones := w.ones ||| solid, marginal := (w.marginal &&& ~~~solid) ||| (data &&& b.weak &&& ~~~(w.ones ||| solid)) }

/-- A row is verified when every bit reads solid and equals Data (R397). -/
def OtpRow.verifies (w : OtpRow) (data : DWord) : Bool := w.ones == data && w.marginal == 0

/-- Burn a row. -/
def otpBurn (rows : OtpRows) (n : Nat) (data : DWord) (b : Burn) : OtpRows := otpPut rows n ((otpGet rows n).burn data b)

/-- A logical row of a doubled region: the OR of the solid bits, and the bits reported marginal (Table 17.2). -/
def otpDoubled (rows : OtpRows) (a b : Nat) : DWord × DWord :=
  let x := otpGet rows a
  let y := otpGet rows b
  (x.ones ||| y.ones, x.marginal ||| y.marginal)

/-! ## Sealed regions -/

/-- A sealed region (Tables 17.1, 17.5, R400): first and last data row, covered rows, header, redirection table, first
spare, CONTROL bit, program lock, code in OTP_INTEG. -/
structure Region where
  first : Nat
  last : Nat
  covered : List Nat
  header : Nat
  redirect : Nat
  spare : Nat
  sealBit : Nat
  lock : Nat
  code : Nat
  deriving DecidableEq, Repr

/-- KEY. -/
def regKey : Region :=
  { first := 128, last := 160, covered := (List.range 24).map (128 + ·) ++ [160], header := 161, redirect := 164
    spare := 172, sealBit := 1, lock := 4, code := 3 }

/-- OEM_CONFIG. -/
def regOemConfig : Region :=
  { first := 192, last := 319, covered := (List.range 128).map (192 + ·), header := 320, redirect := 323
    spare := 331, sealBit := 2, lock := 5, code := 4 }

/-- OEM_DATA. -/
def regOemData : Region :=
  { first := 384, last := 639, covered := (List.range 256).map (384 + ·), header := 640, redirect := 643
    spare := 651, sealBit := 3, lock := 6, code := 5 }

/-- The sealed regions, by their code. -/
def regions : List Region := [regKey, regOemConfig, regOemData]

/-- The region whose data rows hold a row. -/
def regionOf (row : Nat) : Option Region := regions.find? fun r => r.first ≤ row && row ≤ r.last

/-- Entry e of a redirection table, both copies combined (R398). -/
def otpEntry (rows : OtpRows) (r : Region) (e : Nat) : Nat :=
  getF (16 * (e % 4)) 16 (otpDoubled rows (r.redirect + e / 4) (r.redirect + 4 + e / 4)).1.toNat

/-- The entry that holds a row with Valid set and Retired clear. -/
def otpEntryOf (rows : OtpRows) (r : Region) (row : Nat) : Option Nat :=
  (List.range 16).find? fun e =>
    let v := otpEntry rows r e
    getF 0 12 v == row && getB 12 v && !getB 13 v

/-- The physical row that a read of a row returns, and whether it is redirected (R398). -/
def otpTarget (rows : OtpRows) (row : Nat) : Nat × Bool :=
  match regionOf row with
  | none => (row, false)
  | some r => match otpEntryOf rows r row with
    | some e => (r.spare + e, true)
    | none => (row, false)

/-- A row as read, after redirection. -/
def otpRead (rows : OtpRows) (row : Nat) : OtpRow := otpGet rows (otpTarget rows row).1

/-- The bytes of a row, bit b at bit b mod 8 of byte b div 8 (R392). -/
def rowBytes (v : DWord) : List Byte := leBytes 8 v.toNat

/-- The 1 bits of a value. -/
def popCount (v : DWord) : Nat := ((List.range 64).filter fun i => v.getLsbD i).length

/-- 1 bits of a region's covered rows (R400). -/
def otpCount (rows : OtpRows) (r : Region) : Nat :=
  r.covered.foldl (fun n k => n + popCount (otpRead rows k).ones) 0

/-- The digest over a region's covered rows (R400). -/
def otpDigest (rows : OtpRows) (r : Region) : List Byte :=
  (sha256 (r.covered.flatMap fun k => rowBytes (otpRead rows k).ones)).take 16

/-- A covered row, seal row, or with `table` a redirection row, of a region holds a marginal bit. -/
def otpMarginal (rows : OtpRows) (r : Region) (table : Bool) : Bool :=
  (r.covered.any fun k => (otpRead rows k).marginal != 0)
    || ((List.range 3).any fun k => (otpGet rows (r.header + k)).marginal != 0)
    || (table && (List.range 8).any fun k => (otpGet rows (r.redirect + k)).marginal != 0)

/-- CONTROL's bits (Table 17.5). -/
def otpControl (rows : OtpRows) : DWord := (otpDoubled rows 0 2).1

/-- A region counts as sealed (R401). -/
def otpSealed (rows : OtpRows) (r : Region) : Bool :=
  let h := otpGet rows r.header
  (otpControl rows).getLsbD r.sealBit || h.ones != 0 || h.marginal != 0

/-! ## Cold-start checks (R405 to R408) -/

/-- FEATURE's logical rows. -/
def otpFeature (rows : OtpRows) (k : Nat) : DWord := (otpDoubled rows (4 + k) (8 + k)).1

/-- VENDOR_TRIM's logical rows. -/
def otpTrim (rows : OtpRows) (k : Nat) : DWord := (otpDoubled rows (12 + k) (44 + k)).1

/-- A valid feature word for the package (R406, Table 17.6). -/
def featureValid (w : DWord) (p65 : Bool) : Bool :=
  let v := w.toNat
  let f := getF 0 3 v
  f != 3 && f != 5 && f != 6 && getF 3 2 v != 3 && (getF 5 2 v != 0 || f == 0) && v / 512 == 0
    && decide (f ≤ if p65 then 7 else 2)

/-- FEATURE fails. -/
def failFeature (rows : OtpRows) (p65 : Bool) : Bool :=
  let crc := crc32c ((List.range 3).flatMap fun k => rowBytes (otpFeature rows k))
  !((otpFeature rows 3).toNat == crc.toNat && otpFeature rows 1 == 0 && otpFeature rows 2 == 0
    && featureValid (otpFeature rows 0) p65)

/-- VENDOR_TRIM fails (R407). -/
def failTrim (rows : OtpRows) : Bool :=
  (otpTrim rows 31).toNat != (crc32c ((List.range 31).flatMap fun k => rowBytes (otpTrim rows k))).toNat

/-- CONTROL fails: any bit of its rows is marginal in either copy. -/
def failControl (rows : OtpRows) : Bool := (List.range 4).any fun k => (otpGet rows k).marginal != 0

/-- A sealed region fails its own check. -/
def failSealed (rows : OtpRows) (r : Region) : Bool :=
  otpSealed rows r &&
  (otpMarginal rows r true
    || (otpGet rows r.header).ones.toNat != otpCount rows r
    || rowBytes (otpGet rows (r.header + 1)).ones ++ rowBytes (otpGet rows (r.header + 2)).ones != otpDigest rows r)

/-- The slot 6 and 7 check of VENDOR_TRIM fails, or a bit of rows 152 to 159 is marginal. -/
def failSlots (rows : OtpRows) : Bool :=
  let rs := (List.range 8).map (152 + ·)
  rs.any (fun k => (otpRead rows k).marginal != 0)
    || (sha256 (rs.flatMap fun k => rowBytes (otpRead rows k).ones)).take 16
        != rowBytes (otpTrim rows 8) ++ rowBytes (otpTrim rows 9)

/-- The failing regions as the bits of OTP_INTEG. -/
def otpFailures (rows : OtpRows) (p65 : Bool) : BitVec 6 :=
  BitVec.ofNat 6 (fld 0 1 (bit (failTrim rows)) + fld 1 1 (bit (failFeature rows p65))
    + fld 2 1 (bit (failControl rows)) + fld 3 1 (bit (failSealed rows regKey || failSlots rows))
    + fld 4 1 (bit (failSealed rows regOemConfig)) + fld 5 1 (bit (failSealed rows regOemData)))

/-- The seals as the bits of OTP_INTEG. -/
def otpSeals (rows : OtpRows) : BitVec 3 :=
  BitVec.ofNat 3 (bit (otpSealed rows regKey) + 2 * bit (otpSealed rows regOemConfig)
    + 4 * bit (otpSealed rows regOemData))

/-- Debug is open (R411). -/
def otpDebugOpen (rows : OtpRows) (fails : BitVec 6) : Bool := !(otpControl rows).getLsbD 4 && fails == 0

/-- The locks the boot firmware sets at step 3 (R399). -/
def otpBootLocks (control : DWord) : BitVec 9 :=
  BitVec.ofNat 9 ((if control.getLsbD 0 then 0x8F else 0) + (if control.getLsbD 5 then 0x100 else 0))

/-- A row found marginal is counted and recorded; OTP_MARGIN is raised once per row and cold start (R393). Byte 0 of the
OTP kind 2 event's Data is ST_OK: the read completes (DESIGN CHOICE, log 77). -/
def Dev.foundMarginal (d : Dev) (row : Nat) : Dev :=
  let seen := d.otp.marSeen.contains row
  let d := d.modOtp fun x =>
    { x with
      marRow := BitVec.ofNat 12 row, marCount := satTo 0xFFFF x.marCount
      marSeen := if seen then x.marSeen else x.marSeen ++ [row] }
  let d := if seen then d else d.detect 0x009
  d.event evOtp 2 row []

/-! ## Reading rows -/

/-- A read of the row returns Data 0 with the read-locked flag (R178, R395, R399, Table 17.5). -/
def Dev.otpReadLocked (d : Dev) (row : Nat) (privileged : Bool) : Bool :=
  (128 ≤ row && row ≤ 159) || (172 ≤ row && row ≤ 187)
    || (d.otp.integ.getLsbD 4 && 192 ≤ row && row ≤ 346)
    || (384 ≤ row && row ≤ 666 && (d.otp.integ.getLsbD 5 || (!privileged && d.otp.lock.val.getLsbD 8)))

/-- Data and flags of one row read: marginal, redirected, read-locked (R178, R393, R398). A read-locked row is read all
the same and returns Data 0. -/
def Dev.otpRowRead (d : Dev) (rows : OtpRows) (row : Nat) (privileged : Bool) : Dev × DWord × Nat :=
  let locked := d.otpReadLocked row privileged
  let t := otpTarget rows row
  let w := otpGet rows t.1
  let d := if w.marginal = 0 then d else d.foundMarginal row
  (d, if locked then 0 else w.ones, bit (w.marginal != 0) + 2 * bit t.2 + 4 * bit locked)

/-- A register read of a row: OTP_DLO, OTP_DHI and the flags of OTP_STAT (R395). -/
def Dev.otpRegRead (d : Dev) (rows : OtpRows) (row : Nat) (privileged : Bool) : Dev :=
  let r := d.otpRowRead rows row privileged
  r.1.modOtp fun x =>
    { x with
      cmdRow := BitVec.ofNat 12 row, dlo := r.2.1.setWidth 32, dhi := (r.2.1 >>> 32).setWidth 32
      statMarginal := getB 0 r.2.2, statRedirected := getB 1 r.2.2, statReadLocked := getB 2 r.2.2 }

/-! ## Key slots (R409, R410) -/

/-- The attribute byte of a slot. -/
def slotAttr (rows : OtpRows) (k : Nat) : Nat := getF (8 * k) 8 (otpRead rows 160).ones.toNat

/-- The highest role a session on the slot may hold. -/
def slotMaxRole (rows : OtpRows) (k : Nat) : Nat :=
  let r := getF 0 2 (slotAttr rows k)
  if k ≤ 5 then min r 2 else r

/-- The slot's key. -/
def slotKey (rows : OtpRows) (k : Nat) : List Byte :=
  (List.range 4).flatMap fun i => rowBytes (otpRead rows (128 + 4 * k + i)).ones

/-- The slot is usable. -/
def Dev.slotUsable (d : Dev) (rows : OtpRows) (k : Nat) : Bool :=
  getB 3 (slotAttr rows k) && !d.otp.integ.getLsbD 3
    && ((List.range 4).all fun i => (otpRead rows (128 + 4 * k + i)).marginal == 0)
    && getF (8 * k) 8 (otpRead rows 160).marginal.toNat == 0
    && !(6 ≤ k && d.otp.integ.getLsbD 0)

/-- The Debug attributes of the slots. -/
def otpSlotDebug (rows : OtpRows) : BitVec 8 :=
  BitVec.ofNat 8 ((List.range 8).foldl (fun n k => if getB 2 (slotAttr rows k) then n + 2 ^ k else n) 0)

/-- A session is entitled to debug (R412). -/
def Dev.entitled (d : Dev) (x : Session) : Bool :=
  x.role == rVendor || (x.role == rService && d.otp.slotDebug.getLsbD x.slot.toNat)

/-- The test-multiplexer pins show their selections (R412, R413). -/
def Dev.tmxLive (d : Dev) : Bool := d.mode = mTest && d.otp.debugOpen && d.ses.openS.any d.entitled

end Sys2Proof.Machine
end

