-- ==== Sys2Proof/Machine/Otp.lean ====
section
/-! DEFINITION. The OTP commands and the controller's execution of queued requests (R178, R179, R396 to R404). -/

namespace Sys2Proof.Machine

/-! ## OTP_READ -/

/-- OTP_CMD takes effect: with Start a row is read (R395). -/
def Dev.otpCmd (d : Dev) (rows : OtpRows) (privileged : Bool) (v : Nat) : Dev :=
  if getB 12 v then d.otpRegRead rows (getF 0 12 v) privileged
  else d.modOtp fun x => { x with cmdRow := BitVec.ofNat 12 (getF 0 12 v) }

/-- The master of a posted write is privileged when it reaches its register: PF0 by its gate at that moment (R430). -/
def Posted.privilegedAt (x : Posted) (d : Dev) : Bool := if x.master = .pf0 then d.ses.gate.isSome else x.privileged

/-- A register read that OTP_CMD has started ends before the controller takes up a request that came after it (R395,
R404). -/
def Dev.otpCmdDone (d : Dev) (rows : OtpRows) : Dev :=
  match d.mr.posted.find? fun (x : Posted) => x.block == .otp with
  | some x =>
    match x.words with
    | (v, _) :: _ => (d.modMr fun r => { r with posted := r.posted.erase x }).otpCmd rows (x.privilegedAt d) v.toNat
    | [] => d.modMr fun r => { r with posted := r.posted.erase x }
  | none => d

/-- The 12 bytes of each row, with what the reads find marginal. -/
def Dev.otpReadRows (rows : OtpRows) (privileged : Bool) : Dev → List Nat → Dev × List Byte
  | d, [] => (d, [])
  | d, k :: ks =>
    let r := d.otpRowRead rows k privileged
    let q := r.1.otpReadRows rows privileged ks
    (q.1, rowBytes r.2.1 ++ leBytes 1 r.2.2 ++ [0, 0, 0] ++ q.2)

/-- OTP_READ (R178): at once while the controller is idle, else behind the requests before it (R404). -/
def otpReadCmd (c : Ctx) : Chk (Dev × Finish) := do
  let row := pU c.ps 0 2
  let n := pU c.ps 2 2
  needRange c.ps 0 2 0 4095
  needRange c.ps 2 2 1 338
  c.needRoom (12 * n) 26
  need (row + n - 1 ≤ 4095) stLengthExceeds 26
  needFree (c.d.otp.queue.length < 4)
  let privileged := decide (rService ≤ c.x.role)
  if c.d.otp.queue.isEmpty then
    let r := (c.d.otpCmdDone c.s.rows).otpReadRows c.s.rows privileged ((List.range n).map (row + ·))
    return (r.1, .ok r.2)
  else
    let req : OtpReq := .read c.p row n privileged
    return (c.d.modOtp fun x => { x with queue := x.queue ++ [req] }, .park .otpRead)

/-- OTP_READ's row of Table 6.2. -/
def specOtpRead : CmdSpec := { opcode := 0xB0, variant := 0, modes := setN, role := atLeast rObserver, len := lenIs 4 }

/-- OTP_READ. -/
def execOtpRead (p : Packet) (s : State) : Out := onDev (cmdDev specOtpRead otpReadCmd p) s

/-! ## OTP_PROGRAM -/

/-- The role that may program a row; none where no role may (Table 17.3). -/
def otpRole (row : Nat) : Option (BitVec 2) :=
  if row = 0 then some rService
  else if (4 ≤ row && row ≤ 7) || (12 ≤ row && row ≤ 43) then some rVendor
  else if 128 ≤ row && row ≤ 151 then some rService
  else if 152 ≤ row && row ≤ 159 then some rVendor
  else if row = 160 || (192 ≤ row && row ≤ 319) || (384 ≤ row && row ≤ 639) then some rService
  else if 1024 ≤ row && row ≤ 4095 then some rVendor
  else none

/-- The lock bit that guards a row for the requesting role (R399). -/
def otpLockOf (row : Nat) (vendor : Bool) : Option Nat :=
  if row = 0 then (if vendor then some 2 else none)
  else if row ≤ 7 then some 1
  else if row ≤ 43 then some 0
  else if row ≤ 151 then some 4
  else if row ≤ 159 then some 3
  else if row = 160 then some (if vendor then 3 else 4)
  else if row ≤ 319 then some 5
  else if row ≤ 639 then some 6
  else some 7

/-- A lock bit is set. -/
def Dev.otpLockSet (d : Dev) (b : Nat) : Bool := d.otp.lock.val.getLsbD b

/-- A row may not be programmed: its lock is set or its region sealed (R399, R401). -/
def Dev.otpBarred (d : Dev) (rows : OtpRows) (row : Nat) (vendor : Bool) : Bool :=
  (match otpLockOf row vendor with
    | some b => d.otpLockSet b
    | none => false)
  || (match regionOf row with
    | some r => otpSealed rows r
    | none => false)

/-- The bits a role may ask for in CONTROL, and no MaxRole of 3 in bytes 0 to 5 of row 160 (Table 17.3). -/
def otpDataOk (row data : Nat) (vendor : Bool) : Bool :=
  if row = 0 then data &&& (if vendor then 0x31 else 0x30) == data
  else if row = 160 then (List.range 6).all fun k => getF (8 * k) 2 data != 3
  else true

/-- OTP_PROGRAM (R179, R396). -/
def otpProgramCmd (c : Ctx) : Chk (Dev × Finish) := do
  let row := pU c.ps 0 2
  let data := pU c.ps 4 8
  let vendor := c.x.role == rVendor
  let role := otpRole row
  needZero c.ps 2 2
  needP (otpDataOk row data vendor) 4
  needFree (c.d.otp.queue.length < 4)
  need role.isSome stOtpRange noField
  need (!c.d.otpBarred c.s.rows row vendor) stOtpLocked noField
  let req : OtpReq := .program row (BitVec.ofNat 64 data) vendor
  return (c.d.modOtp fun x => { x with queue := x.queue ++ [req] }, .queued [])

/-- The modes of OTP_PROGRAM and OTP_FINALISE. -/
abbrev otpModes : List (BitVec 4) := [mReady, mService]

/-- OTP_PROGRAM's row of Table 6.2. -/
def specOtpProgram : CmdSpec :=
  { opcode := 0xB1, variant := 0, modes := otpModes, role := atLeast rService, len := lenIs 12
    named := fun _ x ps => match otpRole (pU ps 0 2) with
      | some r => if r ≤ x.role then none else some noField
      | none => none }

/-- OTP_PROGRAM. -/
def execOtpProgram (p : Packet) (s : State) : Out := onDev (cmdDev specOtpProgram otpProgramCmd p) s

/-! ## Execution of a program request -/

/-- A request is over: it leaves the queue, OTP_STAT and the event report it (R396, R402). -/
def Dev.otpDone (d : Dev) (kind row status : Nat) : Dev :=
  let d := d.modOtp fun x =>
    { x with
      queue := x.queue.drop 1, lastStatus := BitVec.ofNat 8 status, lastRow := BitVec.ofNat 12 row }
  d.event evOtp kind row [BitVec.ofNat 8 status]

/-- A value is burned into a redirection entry, in both copies of the table (R397); R397 gives no outcome of a burn of the
table that fails, and in the model it takes (DESIGN CHOICE, log 63). -/
def otpEntryBurn (rows : OtpRows) (r : Region) (e v : Nat) : OtpRows :=
  let w := BitVec.ofNat 64 (fld (16 * (e % 4)) 16 v)
  otpBurn (otpBurn rows (r.redirect + e / 4) w wholeBurn) (r.redirect + 4 + e / 4) w wholeBurn

/-- Spares are tried in order; a spare that fails is retired (R397). -/
def otpSpares (r : Region) (row : Nat) (data : DWord) : OtpRows → List Nat → List Burn → OtpRows × Nat
  | rows, [], _ => (rows, stOtpNoSpare)
  | rows, e :: es, bs =>
    let rows := otpBurn rows (r.spare + e) data (bs.headD wholeBurn)
    if (otpGet rows (r.spare + e)).verifies data then (otpEntryBurn rows r e (0x1000 + row), stOk)
    else otpSpares r row data (otpEntryBurn rows r e 0x2000) es (bs.drop 1)

/-- The second copy of a doubled row, burned with the first (Table 17.3). CONTROL's two copies are burned together
as its seal bits are (R402). -/
def otpSecond (row : Nat) : Option Nat :=
  if row = 0 then some 2
  else if 4 ≤ row && row ≤ 7 then some (row + 4)
  else if 12 ≤ row && row ≤ 43 then some (row + 32)
  else none

/-- A row is burned: target, second copy, or spares. `burns` says how the target came out and then each spare taken,
`copyB` how the second copy did (R397). -/
def otpProgramRow (rows : OtpRows) (row : Nat) (data : DWord) (burns : List Burn) (copyB : Burn) : OtpRows × Nat :=
  let t := otpTarget rows row
  let second := otpSecond row
  let held := (otpGet rows t.1).ones ||| (match second with | some k => (otpGet rows k).ones | none => 0)
  if held &&& ~~~data ≠ 0 then (rows, stOtpConflict) else
  let rows := otpBurn rows t.1 data (burns.headD wholeBurn)
  let rows := match second with
    | some k => otpBurn rows k data copyB
    | none => rows
  let good := (otpGet rows t.1).verifies data && (match second with
    | some k => (otpGet rows k).verifies data
    | none => true)
  if good then (rows, stOk) else
  match regionOf row with
  | none => (rows, stOtpVerify)
  | some r =>
    let free := (List.range 16).filter fun e => otpEntry rows r e == 0
    let rows := match otpEntryOf rows r row with
      | some e => otpEntryBurn rows r e 0x2000
      | none => rows
    otpSpares r row data rows free (burns.drop 1)

/-- The data a request burns: from SERVICE, bytes 6 and 7 of row 160 are ignored (Table 17.3). -/
def otpData (row : Nat) (data : DWord) (vendor : Bool) : DWord :=
  if row = 160 && !vendor then data &&& 0x0000FFFFFFFFFFFF else data

/-- From SERVICE, bytes 6 and 7 of row 160 take no part in the conflict check: what they hold is kept (Table 17.3). -/
def otpDataHeld (rows : OtpRows) (row : Nat) (data : DWord) (vendor : Bool) : DWord :=
  if row = 160 && !vendor then otpData row data vendor ||| ((otpRead rows row).ones &&& 0xFFFF000000000000)
  else data

/-- Burning DebugClose closes debug (R411). -/
def Dev.otpAfterProgram (d : Dev) (row : Nat) (data : DWord) (status : Nat) : Dev :=
  if row = 0 && data.getLsbD 4 && status = stOk then d.modOtp fun x => { x with debugOpen := false } else d

/-- OTP_READ requests at the front of the queue run: each leaves it and its command is answered, unless a control-plane
restart has answered it (R93, R404). -/
def Dev.otpFrontReads (rows : OtpRows) : Nat → Dev → Dev
  | 0, d => d
  | n + 1, d =>
    match d.otp.queue with
    | .read p row count privileged :: rest =>
      let r := (d.modOtp fun x => { x with queue := rest }).otpReadRows rows privileged ((List.range count).map (row + ·))
      let waits := r.1.ses.work.any fun (e : WorkEntry) => e.packet = p && e.park == some .otpRead
      Dev.otpFrontReads rows n (if waits then r.1.answer p stOk noField r.2 else r.1)
    | _ => d

/-- A request is over: the OTP_READ requests that follow it run. -/
def otpSettle (x : Dev × OtpRows) : Dev × OtpRows :=
  ((x.1.modOtp fun o => { o with slotDebug := otpSlotDebug x.2 }).otpFrontReads x.2 x.1.otp.queue.length, x.2)

/-- The first queued request is a program request: it runs. -/
def otpProgramExecute (burns : List Burn) (second : Burn) (s : State) : Dev × OtpRows :=
  let s := { s with dev := s.dev.otpCmdDone s.rows }
  match s.dev.sys.held, s.dev.otp.queue with
  | false, .program row data vendor :: _ =>
    if s.dev.otpBarred s.rows row vendor then (s.dev.otpDone 0 row stOtpLocked, s.rows)
    else
      let data := otpDataHeld s.rows row data vendor
      let r := otpProgramRow s.rows row data burns second
      ((s.dev.otpAfterProgram row data r.2).otpDone 0 row r.2, r.1)
  | _, _ => (s.dev, s.rows)

/-! ## OTP_FINALISE -/

/-- The region of a code (R179). -/
def otpRegion (code : Nat) : Region := if code = 3 then regKey else if code = 4 then regOemConfig else regOemData

/-- Sealing the region takes VENDOR: KEY while KeyVendor is clear and slot 6 or 7 is empty (R402). -/
def Dev.finaliseVendor (d : Dev) (rows : OtpRows) (code : Nat) : Bool :=
  code = 3 && !d.otpLockSet 3 && !(getB 3 (slotAttr rows 6) && getB 3 (slotAttr rows 7))

/-- The region may not be sealed: its lock is set or it is sealed. -/
def Dev.finaliseBarred (d : Dev) (rows : OtpRows) (r : Region) : Bool := d.otpLockSet r.lock || otpSealed rows r

/-- OTP_FINALISE (R179, R402). -/
def otpFinaliseCmd (c : Ctx) : Chk (Dev × Finish) := do
  let code := pU c.ps 0 1
  needRange c.ps 0 1 3 5
  needZero c.ps 1 3
  needFree (c.d.otp.queue.length < 4)
  need (!c.d.finaliseBarred c.s.rows (otpRegion code)) stOtpLocked noField
  let req : OtpReq := .finalise code (BitVec.ofNat 32 (pU c.ps 4 4)) (c.ps.drop 8)
  return (c.d.modOtp fun x => { x with queue := x.queue ++ [req] }, .queued [])

/-- OTP_FINALISE's row of Table 6.2. -/
def specOtpFinalise : CmdSpec :=
  { opcode := 0xB2, variant := 0, modes := otpModes, role := atLeast rService, len := lenIs 24
    named := fun s x ps =>
      if s.dev.finaliseVendor s.rows (pU ps 0 1) && x.role != rVendor then some noField else none }

/-- OTP_FINALISE. -/
def execOtpFinalise (p : Packet) (s : State) : Out := onDev (cmdDev specOtpFinalise otpFinaliseCmd p) s

/-- The rows step 5 burns, in order: the digest rows, the header row, CONTROL in both copies. -/
def sealBurns (r : Region) (count : Word) (digest : List Byte) : List (Nat × DWord) :=
  let mark := BitVec.ofNat 64 (2 ^ r.sealBit)
  [(r.header + 1, BitVec.ofNat 64 (pU digest 0 8)), (r.header + 2, BitVec.ofNat 64 (pU digest 8 8)),
   (r.header, BitVec.ofNat 64 count.toNat), (0, mark), (2, mark)]

/-- Rows burned one after the other until one is not verified: every bit reads solid, and the row holds what it held and
what was burned (R397; a row of CONTROL keeps its other bits). -/
def burnAll : OtpRows → List (Nat × DWord) → List Burn → OtpRows × Bool
  | rows, [], _ => (rows, true)
  | rows, (k, w) :: ks, bs =>
    let data := (otpGet rows k).ones ||| w
    let rows := otpBurn rows k data (bs.headD wholeBurn)
    if (otpGet rows k).verifies data then burnAll rows ks (bs.drop 1) else (rows, false)

/-- Steps 1 to 5 of R402. -/
def finaliseRun (rows : OtpRows) (r : Region) (count : Word) (digest : List Byte) (burns : List Burn) :
    OtpRows × Nat :=
  if otpMarginal rows r false then (rows, stOtpMarginal)
  else if otpCount rows r ≠ count.toNat then (rows, stOtpCount)
  else if otpDigest rows r ≠ digest then (rows, stOtpDigest)
  else if ((sealBurns r count digest).take 3).any (fun (x : Nat × DWord) => (otpGet rows x.1).ones &&& ~~~x.2 != 0) then
    (rows, stOtpConflict)
  else
    let b := burnAll rows (sealBurns r count digest) burns
    (b.1, if b.2 then stOk else stOtpVerify)

/-- The first queued request is a finalise request: it runs. -/
def otpFinaliseExecute (burns : List Burn) (s : State) : Dev × OtpRows :=
  let s := { s with dev := s.dev.otpCmdDone s.rows }
  match s.dev.sys.held, s.dev.otp.queue with
  | false, .finalise code count digest :: _ =>
    let r := otpRegion code
    if s.dev.finaliseBarred s.rows r then (s.dev.otpDone 1 r.header stOtpLocked, s.rows)
    else
      let q := finaliseRun s.rows r count digest burns
      let d := s.dev.modOtp fun x => { x with sealedR := otpSeals q.1 }
      (d.otpDone 1 r.header q.2, q.1)
  | _, _ => (s.dev, s.rows)

end Sys2Proof.Machine
end

