-- ==== Sys2Proof/Machine/Windows.lean ====
section
/-! DEFINITION. The memory windows of BAR0: what an offset names, reads, writes and aliases (R301, R419 to R421), and
words with two bits in error (R417). -/

namespace Sys2Proof.Machine

/-! ## What an offset names -/

/-- How a write acts on the addressed memory word. -/
inductive Alias where
  | plain | set | clear
  deriving DecidableEq, Repr

/-- What a memory window holds (Tables 12.5, 18.2, R245, R250, R271). -/
inductive WinKind where
  | context (j : Nat)
  | host
  | line
  | map
  | raw
  | cal
  | share (set : Nat)
  | wave
  deriving DecidableEq, Repr

/-- A named word of a memory window: kind, port where it has one, BAR0 offset of the memory word, alias. -/
structure WinWord where
  kind : WinKind
  gp : Nat
  addr : Nat
  acts : Alias
  deriving DecidableEq, Repr

/-- A word of the hub's windows (Table 18.2). -/
def hubWin (off : Nat) : Option WinWord :=
  let mk := fun (a : Nat) (x : Alias) =>
    let k := if a < 0x300000 then WinKind.context ((a - 0x100000) / 0x2000) else WinKind.host
    some { kind := k, gp := 0, addr := a, acts := x }
  if off < 0x100000 then none
  else if off < 0x500000 then mk off .plain
  else if off < 0x900000 then mk (off - 0x400000) .set
  else if off < 0xD00000 then mk (off - 0x800000) .clear
  else none

/-- A word of a furrow die's windows (Table 19.4). -/
def dieWin (f off : Nat) : Option WinWord :=
  let at' := fun (p a : Nat) (k : WinKind) (x : Alias) =>
    some { kind := k, gp := 16 * f + p, addr := dieBase f + a, acts := x }
  let inMap := fun (o : Nat) (x : Alias) =>
    if o % 0x4000 < 10240 then at' (o / 0x4000) (0xB00000 + o) .map x else none
  if off < 0x100000 then none
  else if off < 0xB00000 then at' ((off - 0x100000) / 0xA0000) off .line .plain
  else if off < 0xB40000 then inMap (off - 0xB00000) .plain
  else if off < 0xB80000 then inMap (off - 0xB40000) .set
  else if off < 0xBC0000 then inMap (off - 0xB80000) .clear
  else if off < 0xC40000 then
    let o := off - 0xBC0000
    if o % 0x8000 < 20480 then at' (o / 0x8000) off .raw .plain else none
  else if off < 0xC40800 then at' ((off - 0xC40000) / 0x80) off .cal .plain
  else if 0xC80000 ≤ off && off < 0xC80800 then
    at' ((off - 0xC80000) / 0x80) off (.share ((off - 0xC80000) / 0x20 % 4)) .plain
  else if 0xC90000 ≤ off && off < 0xC98000 then at' ((off - 0xC90000) / 0x800) off .wave .plain
  else none

/-- What a BAR0 offset of a memory window names on this variant; nothing for an absent die, a port option H disables
and an offset no table names (R12, R419, R438). -/
def Dev.win? (d : Dev) (a : Nat) : Option WinWord :=
  if a / 2 ^ 24 = 0 then hubWin (a % 2 ^ 24)
  else
    match dieWin (a / 2 ^ 24 - 1) (a % 2 ^ 24) with
    | some w => if d.hasPort w.gp then some w else none
    | none => none

/-- The offset lies in a memory window. -/
def isWindow (a : Nat) : Bool := 0x100000 ≤ a % 2 ^ 24 && a % 2 ^ 24 ≤ 0xDFFFFF

/-! ## Words in error (R417, R434) -/

/-- Bytes of a bank (Table 18.1). The event ring's bank holds its coalescing counters too, one 64-bit word each (DEDUCED,
log 40). -/
def bankBytes (die bank : Nat) : Nat :=
  if die = 0 then
    match bank with
    | 0 => 0x800000 | 1 => 0x400000 | 2 => 0xC000 | 3 => 0x10000 | 4 => 0x4000 | _ => 0
  else
    match bank with
    | 0 => 0xA00000 | 1 => 0x100000 | 2 => 0x10000 | 3 => 0x10000 | _ => 0

/-- Die, bank and byte offset in the bank of a window address. The order in which a bank holds what Table 18.1 lists
is not stated; it is taken as the table's (log 14). -/
def bankOf (a : Nat) : Nat × Nat × Nat :=
  let die := a / 2 ^ 24
  let o := a % 2 ^ 24
  let b := fun (bank off : Nat) => (die, bank, off / 8 * 8)
  if die = 0 || o < 0xB00000 then b 0 (o - 0x100000)
  else if o < 0xB40000 then b 1 (o - 0xB00000)
  else if o < 0xC40000 then b 1 (0x40000 + (o - 0xBC0000))
  else if o < 0xC80000 then b 2 (o - 0xC40000)
  else if o < 0xC90000 then b 2 (0x800 + (o - 0xC80000))
  else b 2 (0x1000 + (o - 0xC90000))

/-- The word at a window address has two bits in error. -/
def Dev.badAt (d : Dev) (a : Nat) : Bool := d.mr.badWords.contains (bankOf a)

/-- An uncorrectable error is found: recorded the first time, and raised (R417, R434). -/
def Dev.memUe (d : Dev) (die : Fin 8) (bank : BitVec 4) (off : Nat) : Dev :=
  let d := if d.mr.errValid[die] then d else d.modMr fun x =>
    { x with
      errValid := x.errValid.set die true, errBank := x.errBank.set die bank
      errAddr := x.errAddr.set die (BitVec.ofNat 32 off) }
  d.detect (if die = 0 then 0x008 else idDie (die.val - 1) oMemUe)

/-- The error at a window address is raised. -/
def Dev.ueAt (d : Dev) (a : Nat) : Dev :=
  let x := bankOf a
  d.memUe (Fin.ofNat 8 x.1) (BitVec.ofNat 4 x.2.1) x.2.2

/-- A word with one bit in error is corrected, counted and raised (R417). -/
def Dev.memCe (d : Dev) (die : Fin 8) : Dev :=
  (d.modMr fun x => { x with ce := vmod x.ce die satInc }).detect
    (if die = 0 then 0x007 else idDie (die.val - 1) oMemCe)

/-- A read finds a word with one bit in error: the correction is written back (R417). -/
def Dev.correct (d : Dev) (w : Nat × Nat × Nat) : Dev :=
  (d.modMr fun x => { x with flipped := x.flipped.filter (· != w) }).memCe (Fin.ofNat 8 w.1)

/-- Words written whole lose their error. -/
def Dev.rewritten (d : Dev) (a n : Nat) : Dev :=
  let stays := fun (w : Nat × Nat × Nat) =>
    !(w.1 == (bankOf a).1 && w.2.1 == (bankOf a).2.1
      && decide (((bankOf a).2.2 : Nat) + a % 8 ≤ w.2.2) && decide (w.2.2 + 8 ≤ (bankOf a).2.2 + a % 8 + n))
  d.modMr fun x => { x with badWords := x.badWords.filter stays, flipped := x.flipped.filter stays }

/-! ## Reads and writes -/

/-- MEM_WRDROP. -/
def Dev.memWrDrop (d : Dev) : Dev := d.modMr fun x => { x with wrDrop := satInc x.wrDrop }

/-- A memory word. -/
def Banks.word (m : Banks) (a : Nat) : Nat := leNat (m.bytes a 4)

/-- The enabled bytes of a word. -/
def beMask (be : BitVec 4) : Nat :=
  (List.range 4).foldl (fun n i => if be.getLsbD i then n + 0xFF * 2 ^ (8 * i) else n) 0

/-- The memory word after a write through an alias (R301, R420, R421). -/
def aliasWord (old v mask : Nat) (x : Alias) : Nat :=
  match x with
  | .plain => Nat.lor (Nat.land old (0xFFFFFFFF - mask)) (Nat.land v mask)
  | .set => Nat.lor old (Nat.land v mask)
  | .clear => Nat.land old (0xFFFFFFFF - Nat.land v mask)

/-- A word lies among the `n` bytes from a window address. -/
def touches (a n : Nat) (w : Nat × Nat × Nat) : Bool :=
  let x := bankOf a
  n != 0 && w.1 == x.1 && w.2.1 == x.2.1 && decide (x.2.2 ≤ w.2.2) && decide (w.2.2 ≤ (bankOf (a + n - 1)).2.2)

/-- Words with two bits in error that `n` bytes from a window address touch. -/
def Dev.badWordsIn (d : Dev) (a n : Nat) : List (Nat × Nat × Nat) := d.mr.badWords.filter (touches a n)

/-- The single-bit errors found by reading `n` bytes are corrected. -/
def Dev.ceIn (d : Dev) (a n : Nat) : Dev := (d.mr.flipped.filter (touches a n)).foldl Dev.correct d

/-- The errors found by reading `n` bytes are corrected and raised. -/
def Dev.ueIn (d : Dev) (a n : Nat) : Dev :=
  (d.badWordsIn a n).foldl (fun d w => d.memUe (Fin.ofNat 8 w.1) (BitVec.ofNat 4 w.2.1) w.2.2) (d.ceIn a n)

/-- The window address of the first byte of a word of the nozzle-map memory or of the set memory of a die. -/
def wordAddr (w : Nat × Nat × Nat) : Option Nat :=
  let o := w.2.2
  if w.1 = 0 then none
  else (match w.2.1 with
    | 1 => some (if o < 0x40000 then 0xB00000 + o else 0xBC0000 + (o - 0x40000))
    | 2 => some (if o < 0x800 then 0xC40000 + o else if o < 0x1000 then 0xC80000 + (o - 0x800) else 0xC90000 + (o - 0x1000))
    | _ => none).map fun x => w.1 * 2 ^ 24 + x

/-- What stands for a byte of a word that no internal reader uses: a nozzle of the map masked and of CLASS 3, 0 in a
calibration, share or wave set (R417; DEDUCED, log 80). -/
def standIn (w : Nat × Nat × Nat) : Byte := if w.2.1 = 1 && w.2.2 < 0x40000 then 0x8C else 0

/-- The memory as internal readers see it. -/
def Dev.sound (d : Dev) (m : Banks) : Banks :=
  d.mr.badWords.foldl (fun m w => match wordAddr w with
    | some a => m.puts a (List.replicate 8 (standIn w))
    | none => m) m

/-- The memory as internal readers see it. -/
def State.banks (s : State) : Banks := s.dev.sound s.mem

/-- Bytes as a host reads them: all ones in a word in error, which is raised (R417). -/
def hostRead (d : Dev) (m : Banks) (a n : Nat) : Dev × List Byte :=
  (d.ueIn a n, (List.range n).map fun i => if d.badAt (a + i) then 0xFF else m.byte (a + i))

/-- Bytes written to plain memory. Of a word in error only a whole write takes; a partial one is dropped, counted and
raised (R417). -/
def putRange (d : Dev) (m : Banks) (a : Nat) (bs : List Byte) : Dev × Banks :=
  let n := bs.length
  let d := if a % 8 = 0 || n = 0 then d else d.ceIn a 1
  let d := if (a + n) % 8 = 0 || n = 0 then d else d.ceIn (a + n - 1) 1
  let head := if a % 8 ≠ 0 && d.badAt a then min n (8 - a % 8) else 0
  let z := a + n - 1
  let tail := if (a + n) % 8 ≠ 0 && d.badAt z && decide (head < n) && (head == 0 || a / 8 != z / 8)
    then min (n - head) ((a + n) % 8) else 0
  let drop := fun (d : Dev) (x : Nat) => (d.memWrDrop).ueAt x
  let d := if head = 0 then d else drop d a
  let d := if tail = 0 then d else drop d z
  (d.rewritten (a + head) (n - head - tail), m.puts (a + head) ((bs.drop head).take (n - head - tail)))

/-- A job context is armed or active (R17). -/
def Dev.ctxInUse (d : Dev) (j : Nat) : Bool :=
  d.activeJob == some j || (match d.armed with | some a => a.job == j | none => false)

/-- Jobs that select sets of a port: those in force and the armed one (R140). -/
def Dev.portRuns (d : Dev) (gp : Nat) : List Run :=
  match d.swathOf gp with
  | none => []
  | some s =>
    let w := d.swaths[s]
    let now := if w.state = 2 then w.runs else []
    now ++ (match w.switch with
      | some { run := some r, .. } => if w.gens[0].crossed then [] else [r]
      | _ => [])

/-- A share set is selected by an armed or active job (R251). -/
def Dev.shareInUse (d : Dev) (gp set : Nat) : Bool :=
  (d.portRuns gp).any fun r => r.pattern.isNone && r.policy.shareSet.val == set

/-- How a write to a named word ends: dropped and counted in MEM_WRDROP, in PRT_WRDROP, or done (R251, R301, R420). -/
inductive WinEnd where
  | memDrop | prtDrop | done
  deriving DecidableEq, Repr

/-- What becomes of a write. -/
def Dev.winEnd (d : Dev) (w : WinWord) : WinEnd :=
  match w.kind with
  | .context j => if d.ctxInUse j then .memDrop else .done
  | .host => .done
  | .line => if d.portInUse w.gp then .memDrop else .done
  | .map => if w.acts = .plain then .prtDrop else .done
  | .raw | .cal | .wave => .prtDrop
  | .share k => if d.shareInUse w.gp k then .prtDrop else .done

/-- The mask R301 puts on the map aliases. -/
def winValue (w : WinWord) (v : Nat) : Nat := if w.kind = .map then Nat.land v 0xE1E1E1E1 else v

/-- One word written to a memory window (R301, R417, R419 to R421). -/
def windowWrite (d : Dev) (m : Banks) (a : Nat) (v : Nat) (be : BitVec 4) : Dev × Banks :=
  match d.win? a with
  | none => (d.memWrDrop, m)
  | some w =>
    match d.winEnd w with
    | .memDrop => (d.memWrDrop, m)
    | .prtDrop => (d.prtWrDrop (Fin.ofNat 112 w.gp), m)
    | .done =>
      if d.badAt w.addr then ((d.memWrDrop).ueAt w.addr, m)
      else (d.ceIn w.addr 1, m.puts w.addr (leBytes 4 (aliasWord (m.word w.addr) (winValue w v) (beMask be) w.acts)))

/-- One word read from a memory window (R417, R419). -/
def windowRead (d : Dev) (m : Banks) (a : Nat) : Dev × Nat :=
  match d.win? a with
  | none => (d, 0)
  | some w => if d.badAt w.addr then (d.ueAt w.addr, 0xFFFFFFFF) else (d.ceIn w.addr 1, m.word w.addr)

/-- The word written and the next of the same access fill an aligned 64-bit word that takes them: the memory does not
read it first, so an error in it is gone (R417). -/
def Dev.fillsWord (d : Dev) (a : Nat) (be : BitVec 4) (ws : List (Word × BitVec 4)) : Bool :=
  a % 8 == 0 && be == 0xF && (ws.take 1).any (fun x => x.2 == 0xF) && (match d.win? a with
    | some w => w.acts == .plain && d.winEnd w == .done
    | none => false)

/-- A write to a memory window takes effect, word by word (R420). -/
def windowStore : Dev × Banks → Nat → List (Word × BitVec 4) → Dev × Banks
  | x, _, [] => x
  | x, a, (v, be) :: ws =>
    let d := if x.1.fillsWord a be ws then x.1.rewritten a 8 else x.1
    windowStore (windowWrite d x.2 a v.toNat be) (a + 4) ws

end Sys2Proof.Machine
end

