-- ==== Sys2Proof/Machine/Transforms.lean ====
section
/-! DEFINITION. Descriptors as bytes, the checks of Table 9.4, and the transforms of line data (R227 to R235). -/

namespace Sys2Proof.Machine

/-! ## Descriptors (Table 9.1) -/

abbrev opMove : BitVec 8 := 0
abbrev opMerge : BitVec 8 := 1
abbrev opBlank : BitVec 8 := 2

/-- A descriptor from its 32 bytes. -/
def parseDesc (b : List Byte) : Desc :=
  { op := BitVec.ofNat 8 (pU b 0 1), xform := BitVec.ofNat 8 (pU b 1 1), flags := BitVec.ofNat 8 (pU b 2 1)
    split := BitVec.ofNat 8 (pU b 3 1), count := BitVec.ofNat 32 (pU b 4 4), srcA := BitVec.ofNat 64 (pU b 8 8)
    srcB := BitVec.ofNat 64 (pU b 16 8), strideA := BitVec.ofNat 32 (pU b 24 4)
    strideB := BitVec.ofNat 32 (pU b 28 4) }

def Desc.planeSplit (x : Desc) : Bool := x.xform.getLsbD 0
def Desc.bitPlane (x : Desc) : Bool := x.xform.getLsbD 1
def Desc.interleave (x : Desc) : Bool := x.xform.getLsbD 2
def Desc.reverse (x : Desc) : Bool := x.xform.getLsbD 3
def Desc.cacheA (x : Desc) : Bool := x.flags.getLsbD 1
def Desc.cacheB (x : Desc) : Bool := x.flags.getLsbD 2
def Desc.destSpace (x : Desc) : Nat := getF 3 2 x.flags.toNat
def Desc.fluid (x : Desc) : Nat := getF 0 3 x.split.toNat
def Desc.fluids (x : Desc) : Nat := getF 3 3 x.split.toNat + 1

/-- Bytes of a port's segment of a source line (R229). -/
def segLen (p : Port) (x : Desc) : Nat :=
  if x.planeSplit then p.nozzles * (if x.fluids ≤ 4 then 1 else 2) else p.nozzles / 4

/-- Bytes of a source line of a swath (R229). -/
def Dev.sourceLine (d : Dev) (s : Fin 16) (x : Desc) : Nat :=
  (d.swathPorts s).foldl (fun n gp => n + segLen d.ports[gp] x) 0

/-- The descriptor reads SrcA. -/
def Desc.readsA (x : Desc) : Bool := x.op == opMove || x.op == opMerge

/-- A job-cache range the part does not serve (R228). -/
def Dev.cacheBad (d : Dev) (a n : Nat) : Bool := decide (d.cacheBytes < a + n) || d.cacheBytes == 0

/-- Where a port's memories lie in the windows of its furrow die, with their lengths (Table 19.4). -/
def portWindows (p : Nat) : List (Nat × Nat) :=
  [(0x100000 + 0xA0000 * p, 0xA0000), (0xB00000 + 0x4000 * p, 0x4000), (0xB40000 + 0x4000 * p, 0x4000),
   (0xB80000 + 0x4000 * p, 0x4000), (0xBC0000 + 0x8000 * p, 0x8000), (0xC40000 + 0x80 * p, 0x80),
   (0xC80000 + 0x80 * p, 0x80), (0xC90000 + 0x800 * p, 0x800)]

/-- Bytes from a window address reach a memory of a port that option H disables (R6). -/
def Dev.portBad (d : Dev) (a n : Nat) : Bool :=
  let lo := a % 2 ^ 24
  a / 2 ^ 24 != 0 && (List.range 16).any fun p =>
    !d.hasPort (16 * (a / 2 ^ 24 - 1) + p)
      && (portWindows p).any fun w => decide (lo < w.1 + w.2) && decide (w.1 < lo + n)

/-- A device window outside 0x10_0000 to 0xDF_FFFF, crossing a die, in an absent die (R242) or in a port the variant
lacks (R6). -/
def Dev.windowBad (d : Dev) (a n : Nat) : Bool :=
  let z := a + n - 1
  decide (0x07FFFFFF < z) || a / 2 ^ 24 != z / 2 ^ 24 || decide (a % 2 ^ 24 < 0x100000)
    || decide (0xDFFFFF < z % 2 ^ 24) || (a / 2 ^ 24 != 0 && !d.hasDie (a / 2 ^ 24 - 1)) || d.portBad a n

/-- The first field of a descriptor at fault, by its offset (Table 9.4); a field that the Op does not use must be 0. -/
def Dev.descFault (d : Dev) (feed : Bool) (s : Fin 16) (x : Desc) : Option Nat :=
  let merge := x.op == opMerge
  let move := x.op == opMove
  let fence := x.op == opFence
  let dest := !feed && move
  let latch := feed && (d.swathPorts s).any fun gp => !d.ports[gp].group
  let n := if feed then d.sourceLine s x else 0
  let count := x.count.toNat
  let spanA := if feed then (count - 1) * x.strideA.toNat + n else count
  let spanB := (count - 1) * x.strideB.toNat + n
  if decide (3 < x.op.toNat) || (!feed && !(move || fence)) then some 0
  else if decide (15 < x.xform.toNat) || (x.xform != 0 && !(feed && x.readsA))
      || (latch && !x.bitPlane && (merge || x.planeSplit || x.reverse || x.interleave)) then some 1
  else if decide (31 < x.flags.toNat) || (x.cacheA && !x.readsA) || (x.cacheB && !merge)
      || (x.destSpace != 0 && !dest) || x.destSpace == 3 then some 2
  else if decide (63 < x.split.toNat) || (x.split != 0 && !x.planeSplit) || decide (x.fluids ≤ x.fluid) then some 3
  else if (fence && count != 0) || (!fence && count == 0) || (!feed && !fence && count % 4 != 0) then some 4
  else if x.srcA.toNat % 4 != 0 || (!x.readsA && x.srcA != 0) || (x.cacheA && d.cacheBad x.srcA.toNat spanA) then some 8
  else if x.srcB.toNat % 4 != 0 || (!merge && !dest && x.srcB != 0)
      || (merge && x.cacheB && d.cacheBad x.srcB.toNat spanB)
      || (dest && x.destSpace == 1 && d.cacheBad x.srcB.toNat count)
      || (dest && x.destSpace == 2 && d.windowBad x.srcB.toNat count) then some 16
  else if x.strideA.toNat % 4 != 0 || (x.strideA != 0 && !(feed && x.readsA))
      || (x.strideA != 0 && decide (x.strideA.toNat < n)) then some 24
  else if x.strideB.toNat % 4 != 0 || (x.strideB != 0 && !merge)
      || (x.strideB != 0 && decide (x.strideB.toNat < n)) then some 28
  else none

/-- A MOVE into the line buffer of a port in use (Table 9.4). -/
def Dev.descBusy (d : Dev) (x : Desc) : Bool :=
  x.op == opMove && x.destSpace == 2 && x.srcB.toNat / 2 ^ 24 != 0 &&
  let f := x.srcB.toNat / 2 ^ 24 - 1
  let lo := x.srcB.toNat % 2 ^ 24
  let hi := lo + x.count.toNat - 1
  (List.range 16).any fun p =>
    let b := 0x100000 + 0xA0000 * p
    decide (lo < b + 0xA0000) && decide (b ≤ hi) && d.portInUse (16 * f + p)

/-! ## Levels (R230, R234) -/

/-- Levels of packed bytes: nozzle n at bits 2·(n mod 4)+1 to 2·(n mod 4) of byte n div 4. -/
def unpack (bs : List Byte) : List Nat :=
  bs.flatMap fun b => (List.range 4).map fun i => getF (2 * i) 2 b.toNat

/-- Bytes from groups of `k` values, each weighted by `w` bits. -/
def chunked (k w : Nat) : Nat → List Nat → List Byte
  | 0, _ => []
  | n + 1, xs =>
    BitVec.ofNat 8 ((xs.take k).zipIdx.foldl (fun a (x : Nat × Nat) => a + x.1 * 2 ^ (w * x.2)) 0)
      :: chunked k w n (xs.drop k)

/-- The packed form of a port line. -/
def pack (xs : List Nat) : List Byte := chunked 4 2 ((xs.length + 3) / 4) xs

/-- The planar form: plane 0, then plane 1. -/
def planar (xs : List Nat) : List Byte :=
  let n := (xs.length + 7) / 8
  chunked 8 1 n (xs.map (· % 2)) ++ chunked 8 1 n (xs.map (· / 2))

/-- Levels of a planar port line of `n` nozzles. -/
def unplanar (n : Nat) (bs : List Byte) : List Nat :=
  let a := bs.toArray
  (List.range n).map fun i =>
    bit ((a.getD (i / 8) 0).getLsbD (i % 8)) + 2 * bit ((a.getD (n / 8 + i / 8) 0).getLsbD (i % 8))

/-- PLANE_SPLIT: one fluid of the pixels (Table 9.2). -/
def splitLevels (x : Desc) : Nat → List Byte → List Nat
  | 0, _ => []
  | n + 1, bs =>
    let k := if x.fluids ≤ 4 then 1 else 2
    getF (2 * x.fluid) 2 (leNat (bs.take k)) :: splitLevels x n (bs.drop k)

/-- INTERLEAVE: even columns to row A, odd ones to row B. -/
def interleaved (xs : List Nat) : List Nat :=
  let a := xs.toArray
  let h := xs.length / 2
  (List.range xs.length).map fun n => if n < h then a.getD (2 * n) 0 else a.getD (2 * (n - h) + 1) 0

/-- Levels of a source segment after PLANE_SPLIT. -/
def segLevels (p : Port) (x : Desc) (bs : List Byte) : List Nat :=
  if x.planeSplit then splitLevels x p.nozzles bs else unpack bs

/-- The port line of a segment, every transform applied in the order of R234. A segment of a LATCH port whose
descriptor names no transform is planar already (R235). -/
def portLine (p : Port) (x : Desc) (a b : List Byte) : List Byte :=
  if !p.group && x.xform = 0 && x.op = opMove then a else
  let u := segLevels p x a
  let u := if x.op = opMerge then List.zipWith max u (segLevels p x b) else u
  let u := if x.reverse then u.reverse else u
  let u := if x.interleave then interleaved u else u
  if !p.group && x.bitPlane then planar u else pack u

/-- The levels a port line holds (R230). -/
def Port.levels (p : Port) (bs : List Byte) : List Nat := if p.group then unpack bs else unplanar p.nozzles bs

/-- The port line a descriptor makes of a port's segments of its source lines; level 0 for BLANK (R231). -/
def segLine (p : Port) (x : Desc) (a b : List Byte) : List Byte :=
  if x.op = opBlank then List.replicate (p.nozzles / 4) 0 else portLine p x a b

end Sys2Proof.Machine
end

