-- ==== Sys2Proof/Machine/Dma.lean ====
section
/-! DEFINITION. The DMA engine: its commands, the read engine, completions and errors, the write engine and FENCE
(R220 to R243, with the credits of R188 to R192). -/

namespace Sys2Proof.Machine

/-! ## Credits held -/

/-- Channels configured as swath feeds. -/
def Dev.feedCount (d : Dev) : Nat :=
  (d.dma.ch.toList.filter fun (x : Channel) => x.state != 3 && x.swathFeed).length

/-- The half-slot of the buffer a channel's next request takes: the other half of its last slot, or a new slot (R189). -/
def Channel.nextHalf (x : Channel) : Nat := match x.reads.getLast? with
  | some q => q.half + 1
  | none => 0

/-- Read tags of one space a channel holds: freed by the data alone, so a read that failed keeps its own (Table 7.1). -/
def Channel.tags (x : Channel) (cache : Bool) : Nat :=
  (x.reads.filter fun (q : ReadReq) => q.cache == cache && q.data.isNone).length

/-- Buffer slots all channels hold. -/
def Dev.dmaSlots (d : Dev) : Nat := d.dma.ch.toList.foldl (fun n x => n + x.slots) 0

/-- Read tags of one space in use. -/
def Dev.dmaTags (d : Dev) (cache : Bool) : Nat := d.dma.ch.toList.foldl (fun n x => n + x.tags cache) 0

/-- Buffer space for one more read of a channel (R189, R192, R225). A feed has eight slots of its own, under the
pre-emptive discipline too. -/
def Dev.spaceFor (d : Dev) (c : Fin 32) : Bool :=
  let x := d.dma.ch[c]
  if d.discipline = 1 && x.excess && decide (16 ≤ x.slots) then false
  else if x.nextHalf % 2 = 1 then true
  else if 512 ≤ d.dmaSlots || (d.discipline = 1 && decide (16 ≤ x.slots)) then false
  else
    let feed := fun (y : Channel) => y.swathFeed && y.state != 3
    let general := d.dma.ch.toList.foldl (fun n y => if feed y then n else n + y.slots) 0
    let taken := d.dma.ch.toList.foldl (fun n y => if feed y then n + max y.slots 8 else n) general
    if feed x then decide (x.slots < 8) || (decide (x.slots < 128) && decide (taken < 512))
    else decide (general + 8 * d.feedCount < 512) && decide (taken < 512)

/-- A read tag for one more read of a channel (Table 7.1, R192). -/
def Dev.tagFor (d : Dev) (c : Fin 32) (cache : Bool) : Bool :=
  let x := d.dma.ch[c]
  let all := if cache then 128 else 256
  let own := if cache then 32 else 64
  decide (d.dmaTags cache < all) && (!x.swathFeed || decide (x.tags cache < own))

/-- Host memory is out of reach (R88, R241). -/
def Dev.hostDown (d : Dev) : Bool := d.pci.down || !d.pci.perst || !d.linkOn (.pcie 0)

/-! ## Retry and halt (R238, R239) -/

/-- A channel halts at a descriptor. -/
def Dev.dmaHalt (d : Dev) (c : Fin 32) (num : Word) (code : BitVec 2) : Dev :=
  let d := d.modCh c fun x => { x with state := 2, errIdx := num, errorCode := code }
  (d.event evDma 3 c.val (le4 num.toNat)).detect (idDmaErr c.val)

/-- Retries spent on a descriptor in flight (R238). -/
def Channel.retriesOf (x : Channel) (num : Word) : Nat :=
  match x.running.find? fun (r : Running) => r.num == num, x.fences.find? fun (f : FenceWait) => f.num == num with
  | some r, _ => r.retries
  | none, some f => f.retries
  | none, none => 0

/-- The retries of a descriptor, and with them DMA_CH_STAT.Retries, become `n`. -/
def Channel.setRetries (x : Channel) (num : Word) (n : Nat) : Channel :=
  { x with
    retries := n, retryNum := num
    running := x.running.map fun (r : Running) => if r.num = num then { r with retries := n } else r
    fences := x.fences.map fun (f : FenceWait) => if f.num = num then { f with retries := n } else f }

/-- A read fails once: retried as one request, or the failure that halts the channel (R238). `mark` names what failed. On a
channel halted already, one issued before the failing request (`early`) is retried likewise, and with no retry left is the
failing request from then on, without a second halt (DEDUCED, log 72); a later one waits for the resume. -/
def Dev.dmaError (d : Dev) (c : Fin 32) (num : Word) (code : BitVec 2) (early : Bool) (mark : Channel → Channel) : Dev :=
  let x := d.dma.ch[c]
  if x.state = 2 && !early then d.modCh c mark
  else if x.retriesOf num < x.retryMax.toNat then
    (d.modCh c fun x => x.setRetries num (x.retriesOf num + 1)).event evDma 2 c.val (le4 num.toNat)
  else if x.state = 2 then d.modCh c fun x => { mark x with errIdx := num, errorCode := code }
  else (d.modCh c mark).dmaHalt c num code

/-- A read of host memory while it is out of reach uses up the retries (R241). -/
def Dev.dmaHostFail (d : Dev) (c : Fin 32) (num : Word) (early : Bool) (mark : Channel → Channel) : Dev :=
  (List.range (d.dma.ch[c].retryMax.toNat + 1 - d.dma.ch[c].retriesOf num)).foldl
    (fun d _ => d.dmaError c num 1 early mark) d

/-- A read was issued before the one that has halted its channel. -/
def Channel.early (x : Channel) (half : Nat) : Bool :=
  (x.reads.dropWhile fun (q : ReadReq) => q.half != half).any fun (q : ReadReq) => q.failed

/-- Reads that are wanted no longer end: their tags and their space are free. -/
def Channel.endDead (p : ReadReq → Bool) (x : Channel) : Channel :=
  { x with reads := x.reads.filter fun (q : ReadReq) => !(q.dead && p q) }

/-- A read is outstanding. -/
def ReadReq.waits (q : ReadReq) : Bool := q.data.isNone && !q.failed

/-- The outstanding read of a channel by its place in the order of issue. -/
def Channel.waiting (x : Channel) (k : BitVec 9) : Option ReadReq := (x.reads.filter ReadReq.waits)[k.toNat]?

/-- The read that holds a half-slot changes. -/
def Channel.modRead (x : Channel) (half : Nat) (f : ReadReq → ReadReq) : Channel :=
  { x with reads := x.reads.map fun q => if q.half = half then f q else q }

/-- Outstanding reads fail. -/
def Channel.failReads (p : ReadReq → Bool) (x : Channel) : Channel :=
  { x with reads := x.reads.map fun q => if q.waits && p q then { q with failed := true } else q }

/-- A FENCE of a channel can end: every earlier descriptor is complete (R237). -/
def Channel.fenceDue (x : Channel) : Option FenceWait :=
  match x.fences with
  | f :: _ => if x.running.any fun (r : Running) => before r.num f.num then none else some f
  | [] => none

/-- A channel's oldest FENCE has failed. -/
def Channel.failFence (x : Channel) : Channel := match x.fences with
  | f :: fs => { x with fences := { f with failed := true } :: fs }
  | [] => x

/-- The reads of host memory that a channel has under way, the one of a FENCE over host writes among them, fail for good
(R88, R241). -/
def Dev.hostLostOn (d : Dev) (c : Fin 32) : Dev :=
  let d := d.modCh c (Channel.endDead fun q => !q.cache)
  let x := d.dma.ch[c]
  match x.reads.find? fun q => q.waits && !q.cache with
  | some q => d.dmaHostFail c q.num (x.early q.half) (Channel.failReads fun q => !q.cache)
  | none =>
    match x.fenceDue with
    | some f => if x.lastHost.isSome && x.state ≠ 2 then d.dmaHostFail c f.num false Channel.failFence else d
    | none => d

/-- The same on every channel: the link goes down, PERST, or an FLR of PF1, which ends at once (R88, R241). -/
def Dev.hostLost (d : Dev) : Dev := (fins 32).foldl Dev.hostLostOn d

/-! ## Starting descriptors (R229, R232, R233) -/

/-- A run of a swath in force, on its way out, or pending, by its tag. -/
def Swath.run? (w : Swath) (e : Nat) : Option Run :=
  (w.runs ++ w.pendingRun.toList).find? fun (r : Run) => r.epoch == e

/-- The next run a channel feeds after `e`: patterns are made on the die and need no data. -/
def Swath.nextRun (w : Swath) (e : Nat) : Option Run :=
  (w.runs.reverse ++ w.pendingRun.toList).find? fun (r : Run) => decide (e < r.epoch) && r.pattern.isNone

/-- Lines from a swath's fire point to line `l` of a run (R191). Before the switch the pending run's lines come after
the old ones. -/
def Swath.ahead (w : Swath) (e l : Nat) : Nat :=
  let now := w.gens[0].epoch
  if e = now then l - w.firePoint
  else if e < now then 0
  else
    let old := match w.run? now with
      | some r => (r.lines.getD w.firePoint) - w.firePoint
      | none => 0
    (if w.state = 2 then old else 0) + l

/-- Every port of a swath can accept line `l` of a run: it lies at most 64 lines ahead and its slot is free
(R191, R245; log 16). -/
def Dev.grantable (d : Dev) (s : Fin 16) (e l : Nat) : Bool :=
  decide (d.swaths[s].ahead e l ≤ 64) &&
  (d.swathPorts s).all fun gp => !d.ports[gp].slots.any fun (x : LineSlot) => x.line % 256 == l % 256

/-- The slots of a line are taken on every port of a swath. -/
def Dev.takeSlots (d : Dev) (s : Fin 16) (e l : Nat) : Dev :=
  (d.swathPorts s).foldl (fun d gp => d.modPort gp fun p => { p with slots := p.slots ++ [{ epoch := e, line := l }] }) d

/-- A descriptor starts and takes the next running number. -/
def Channel.start (x : Channel) (t : Desc) (posted : Bool) (epoch first count : Nat) : Channel :=
  let x :=
    if t.op = opFence then { x with fences := x.fences ++ [({ num := x.next, posted } : FenceWait)] }
    else
      let r : Running := { num := x.next, desc := t, posted, epoch, firstLine := first, count }
      { x with running := x.running ++ [r] }
  { x with next := x.next + 1 }

/-- A feed takes up a run at its line 0. -/
def Channel.enterRun (x : Channel) (r : Run) : Channel :=
  { x with epoch := r.epoch, nextLine := 0, chain := r.chain, chainWhole := r.chain, chainEnd := r.policy.chainEnd }

/-- The descriptor a feed takes next in its run, and the channel without it. -/
def Channel.nextDesc (x : Channel) : Option (Desc × Bool × Channel) :=
  match x.chain with
  | t :: ts => some (t, false, { x with chain := ts })
  | [] =>
    if x.chainEnd = 1 then
      match x.chainWhole with
      | t :: ts => some (t, false, { x with chain := ts })
      | [] => none
    else if x.chainEnd = 2 then
      match x.list with
      | t :: ts => some (t, true, { x with list := ts })
      | [] => none
    else none

/-- A feed starts its next descriptor, going on to the next run when the present one has no line or no descriptor
left (R209, R233). A FENCE that closes the lines moved is started first. -/
def Dev.startFeed (d : Dev) (c : Fin 32) : Option Dev :=
  let x := d.dma.ch[c]
  let w := d.swaths[x.swath]
  let out := match w.run? x.epoch with
    | some r => (match r.lines with
        | some n => decide (n ≤ x.nextLine)
        | none => false)
    | none => true
  let closing := match x.chain with
    | t :: _ => t.op == opFence
    | [] => false
  let x := if !closing && (out || x.nextDesc.isNone) then
      match w.nextRun x.epoch with
      | some r => some (x.enterRun r)
      | none => none
    else some x
  match x with
  | none => none
  | some x =>
    let left := match w.run? x.epoch with
      | some { lines := some n, .. } => n - x.nextLine
      | _ => 0xFFFFFFFF
    match x.nextDesc with
    | none => none
    | some (t, posted, y) =>
      let count := if t.op = opFence then 0 else min t.count.toNat left
      let y := y.start t posted y.epoch y.nextLine count
      some (d.modCh c fun _ => { y with nextLine := y.nextLine + count })

/-- A general channel starts its next descriptor. -/
def Dev.startGeneral (d : Dev) (c : Fin 32) : Option Dev :=
  match d.dma.ch[c].list with
  | [] => none
  | t :: ts => some (d.modCh c fun x => { x with list := ts }.start t true 0 0 t.count.toNat)

/-! ## Issuing reads (R224, R228) -/

/-- Bytes of one read from an address: 4 KiB at most, not across a 4 KiB boundary. -/
def readLen (a left : Nat) : Nat := min left (4096 - a % 4096)

/-- One request is issued: against space and a tag, or failing at once when host memory is out of reach (R188, R189,
R241). -/
def Dev.issueRead (d : Dev) (c : Fin 32) (q : ReadReq) (f : Channel → Channel) : Option Dev :=
  if d.spaceFor c && d.tagFor c q.cache then
    let h := d.dma.ch[c].nextHalf
    let d := d.modCh c fun x => { f x with
      reads := x.reads ++ [{ q with half := h }]
      excess := false }
    if !q.cache && d.hostDown then some (d.dmaHostFail c q.num false (Channel.failReads fun r => r.half == h)) else some d
  else none

/-- Change the running descriptor with a number. -/
def Channel.modRun (x : Channel) (num : Word) (f : Running → Running) : Channel :=
  { x with running := x.running.map fun (r : Running) => if r.num = num then f r else r }

/-- The next request of a general MOVE. -/
def Dev.issueGeneral (d : Dev) (c : Fin 32) (r : Running) : Option Dev :=
  let a := (r.desc.srcA.toNat + r.issued) % 2 ^ 64
  let n := readLen a (r.count - r.issued)
  d.issueRead c { num := r.num, line := 0, second := false, cache := r.desc.cacheA, address := a, off := r.issued, len := n }
    fun x => x.modRun r.num fun r => { r with issued := r.issued + n }

/-- Bytes of a source line a feed's descriptor reads. -/
def Dev.readsLine (d : Dev) (s : Fin 16) (x : Desc) : Nat := if x.readsA then d.sourceLine s x else 0

/-- The next request of a feed's descriptor. Of MERGE_MAX the source that is behind comes next, so that no port waits
for more than the buffer holds (R197). The line's slots are taken before its first read (R188). -/
def Dev.issueFeed (d : Dev) (c : Fin 32) (r : Running) : Option Dev :=
  let s := d.dma.ch[c].swath
  let line := r.firstLine + r.issued
  let begins := r.partA == 0 && r.partB == 0
  if begins && !d.grantable s r.epoch line then none else
  let one := d.readsLine s r.desc
  let merge := r.desc.op == opMerge
  let d := if begins then d.takeSlots s r.epoch line else d
  if one = 0 then some (d.modCh c fun x => x.modRun r.num fun r => { r with issued := r.issued + 1 })
  else
    let second := merge && decide (r.partB < r.partA)
    let src := if second then r.desc.srcB else r.desc.srcA
    let stride := if second then r.desc.strideB else r.desc.strideA
    let off := if second then r.partB else r.partA
    let a := (src.toNat + r.issued * stride.toNat + off) % 2 ^ 64
    let n := readLen a (one - off)
    let cache := if second then r.desc.cacheB else r.desc.cacheA
    let fwd := fun (r : Running) =>
      let r := if second then { r with partB := r.partB + n } else { r with partA := r.partA + n }
      if r.partA = one && (!merge || r.partB == one) then { r with partA := 0, partB := 0, issued := r.issued + 1 } else r
    d.issueRead c { num := r.num, line := r.issued, second, cache, address := a, off, len := n } fun x => x.modRun r.num fwd

/-- One turn of the read engine for a channel: a descriptor starts when none has reads left to issue, a request goes
out. Nothing when the channel cannot; a swath feed starts nothing in a STOP or KILL reaction (R226). -/
def Dev.readTurn (d : Dev) (c : Fin 32) : Option Dev :=
  let open? := fun (d : Dev) => d.dma.ch[c].running.find? fun (r : Running) => decide (r.issued < r.count)
  let issue := fun (d : Dev) (r : Running) => if d.dma.ch[c].swathFeed then d.issueFeed c r else d.issueGeneral c r
  if d.dma.ch[c].state = 2 || d.dma.ch[c].state = 3 || (d.dma.ch[c].swathFeed && d.halting) then none else
  match open? d with
  | some r => issue d r
  | none =>
    match (if d.dma.ch[c].swathFeed then d.startFeed c else d.startGeneral c) with
    | none => none
    | some d =>
      match open? d with
      | some r => some ((issue d r).getD d)
      | none => some d

/-- The first of the candidates after `last`, in ascending order around 32. -/
def roundRobin (last : Nat) (cs : List (Fin 32)) : Option (Fin 32) :=
  cs.foldl (fun best c =>
    let key := fun (c : Fin 32) => (c.val + 31 - last % 32) % 32
    match best with
    | none => some c
    | some b => if key c < key b then some c else some b) none

/-- The channel whose turn it is: under the shared discipline feeds first, each level in round robin; under the
pre-emptive one the lowest number (R224, R225). -/
def Dev.served (d : Dev) (can : Fin 32 → Bool) (lastFeed lastGen : Nat) : Option (Fin 32) :=
  let cs := (fins 32).filter can
  if d.discipline = 2 then none
  else if d.discipline = 1 then cs.head?
  else
    let feeds := cs.filter fun c => d.dma.ch[c].swathFeed
    if feeds.isEmpty then roundRobin lastGen cs else roundRobin lastFeed feeds

/-! ## Data in the buffer becomes beats (R222, R234) -/

/-- Pieces of at most 32 bytes that keep to 32-byte boundaries of the destination. -/
def beatPieces : Nat → Nat → List Byte → List (Nat × List Byte)
  | 0, _, _ => []
  | n + 1, a, bs =>
    if bs.isEmpty then [] else
    let k := 32 - a % 32
    (a, bs.take k) :: beatPieces n (a + k) (bs.drop k)

/-- Beats of data for ascending addresses. -/
def beatsOf (num : Word) (dest : Nat → Dest) (a : Nat) (bs : List Byte) : List Beat :=
  (beatPieces (bs.length / 32 + 2) a bs).map fun x => { num, dest := dest x.1, bytes := x.2 }

/-- Where a general MOVE writes. -/
def Desc.dest (t : Desc) (a : Nat) : Dest :=
  if t.destSpace = 0 then .host a else if t.destSpace = 1 then .cache a else .window a

/-- The beats of one port line. -/
def lineBeats (num : Word) (epoch line : Nat) (x : Fin 112 × List Byte) : List Beat :=
  let n := x.2.length
  (beatPieces (n / 32 + 2) 0 x.2).map fun y =>
    { num, dest := .line x.1 epoch line y.1 (decide (n ≤ y.1 + y.2.length)), bytes := y.2 }

/-- Data of reads, oldest first, when every one has arrived. -/
def readData : List ReadReq → Option (List Byte)
  | [] => some []
  | q :: qs =>
    match q.data, readData qs with
    | some b, some bs => some (b ++ bs)
    | _, _ => none

/-- The reads, ascending, that bytes `lo` to `hi - 1` of a source come from. -/
def overlap (qs : List ReadReq) (lo hi : Nat) : List ReadReq :=
  qs.filter fun (q : ReadReq) => decide (q.off < hi) && decide (lo < q.off + q.len)

/-- Bytes `lo` to `hi - 1` of a source, once the reads of all of them are issued and their data is there. -/
def gather (qs : List ReadReq) (lo hi : Nat) : Option (List Byte) :=
  if hi ≤ lo then some [] else
  match overlap qs lo hi with
  | [] => none
  | q :: rest =>
    match readData (q :: rest) with
    | some bs => if q.off ≤ lo && decide (hi ≤ q.off + bs.length) then some ((bs.drop (lo - q.off)).take (hi - lo)) else none
    | none => none

/-- Half-slots whose last byte is among bytes `lo` to `hi - 1`. -/
def freed (qs : List ReadReq) (lo hi : Nat) : List Nat :=
  ((overlap qs lo hi).filter fun (q : ReadReq) => decide (q.off + q.len ≤ hi)).map fun q => q.half

/-- The beats of one write-engine entry. -/
def entryBeats (frees : List Nat) : List Beat → List Beat
  | [] => []
  | [b] => [{ b with last := true, frees }]
  | b :: bs => b :: entryBeats frees bs

/-- Write-engine entries in use (Table 7.1 row 5). -/
def Dev.entriesUsed (d : Dev) : Nat :=
  d.dma.ch.toList.foldl (fun n x => n + (x.beats.filter fun (b : Beat) => b.last).length) 0

/-- The data of a general MOVE's next request goes into an entry, up to the end of the destination's aligned 32 bytes it
ends in, for a beat is written whole (R222); before a request that failed, up to its own end (R239). -/
def formGeneral (x : Channel) (r : Running) : Option Channel :=
  let mine := x.reads.filter fun (q : ReadReq) => q.num == r.num && !q.dead
  match mine.find? fun (q : ReadReq) => decide (r.formed < q.off + q.len) with
  | none => none
  | some q =>
    let z := q.off + q.len
    let up := min r.count (z + (32 - (r.desc.srcB.toNat + z) % 32) % 32)
    let stop := if x.state = 2 && (overlap mine z up).any fun q => q.failed then z else up
    match gather mine r.formed stop with
    | none => none
    | some b =>
      let beats := beatsOf r.num r.desc.dest ((r.desc.srcB.toNat + r.formed) % 2 ^ 64) b
      let x := { x with beats := x.beats ++ entryBeats (freed mine r.formed stop) beats }
      some (x.modRun r.num fun r => { r with formed := stop })

/-- Bytes `lo` on of a source, so many as there are, where their reads have data. -/
def sparse (qs : List ReadReq) (lo n : Nat) : List (Option Byte) :=
  (List.range n).map fun i => qs.findSome? fun (q : ReadReq) =>
    if q.off ≤ lo + i && decide (lo + i < q.off + q.len) then q.data.bind fun b => b[lo + i - q.off]? else none

/-- Runs of known bytes, each with the place of its first. -/
def knownRuns : Nat → List (Option Byte) → List (Nat × List Byte)
  | _, [] => []
  | o, none :: t => knownRuns (o + 1) t
  | o, some b :: t =>
    match knownRuns (o + 1) t with
    | (k, bs) :: rest => if k = o + 1 then (o, b :: bs) :: rest else (o, [b]) :: (k, bs) :: rest
    | [] => [(o, [b])]

/-- What a segment's port line is already known to hold: the bytes all of whose source bytes are known. Which those are
is found by putting all ones through the same transforms in place of what is known, zeros for the rest. -/
def knownLine (p : Port) (x : Desc) (a b : List (Option Byte)) : List (Option Byte) :=
  let known := fun (y : Option Byte) => if y.isSome then (0xFF : Byte) else 0
  let line := segLine p x (a.map fun y => y.getD 0) (b.map fun y => y.getD 0)
  let one := fun (z : List (Option Byte)) => segLine p { x with op := opMove } (z.map known) []
  let sure := if x.op = opMerge then List.zipWith (fun u v => u &&& v) (one a) (one b) else one a
  List.zipWith (fun y k => if k = 0xFF then some y else none) line sure

/-- Beats of bytes of a port line that do not end it. -/
def runBeats (num : Word) (gp : Fin 112) (epoch line : Nat) (x : Nat × List Byte) : List Beat :=
  (beatPieces (x.2.length / 32 + 2) x.1 x.2).map fun y =>
    { num, dest := .line gp epoch line y.1 false, bytes := y.2 }

/-- A feed's next port segment, once its source data is there, goes into an entry: the ports of a line in ascending
order, line after line (R222, R229). On a halted channel, of the segment with the failing request, what the requests
before it give (R239). -/
def Dev.formFeed (d : Dev) (x : Channel) (r : Running) : Option Channel :=
  let ports := d.swathPorts x.swath
  match ports.drop r.ports with
  | [] => if r.formed < r.issued then some (x.modRun r.num fun r => { r with formed := r.formed + 1, ports := 0 }) else none
  | gp :: rest =>
    let p := d.ports[gp]
    let line := r.firstLine + r.formed
    let reads := r.desc.readsA
    let lo := (ports.take r.ports).foldl (fun n gp => n + segLen d.ports[gp] r.desc) 0
    let n := segLen p r.desc
    let mine := fun (qs : List ReadReq) (second : Bool) =>
      qs.filter fun (q : ReadReq) => q.num == r.num && q.line == r.formed && q.second == second && !q.dead
    let get := fun (second : Bool) => gather (mine x.reads second) lo (lo + n)
    let a := if reads then get false else if r.formed < r.issued then some [] else none
    let b := if r.desc.op = opMerge then get true else some []
    match a, b with
    | some a, some b =>
      let frees := if reads then freed (mine x.reads false) lo (lo + n) ++ freed (mine x.reads true) lo (lo + n) else []
      let x := { x with beats := x.beats ++ entryBeats frees (lineBeats r.num r.epoch line (gp, segLine p r.desc a b)) }
      some (x.modRun r.num fun r =>
        if rest.isEmpty then { r with formed := r.formed + 1, ports := 0 } else { r with ports := r.ports + 1 })
    | _, _ =>
      let live := x.reads.filter fun (q : ReadReq) => !q.dead
      let early := live.takeWhile fun (q : ReadReq) => !q.failed
      if x.state ≠ 2 || r.early || early.length = live.length || early.any ReadReq.waits then none else
      let known := fun (second : Bool) => sparse (mine early second) lo n
      let runs := knownRuns 0 (knownLine p r.desc (known false) (if r.desc.op = opMerge then known true else []))
      let x := { x with beats := x.beats ++ entryBeats [] (runs.flatMap (runBeats r.num gp r.epoch line)) }
      some (x.modRun r.num fun r => { r with early := true })

/-- A channel's next data goes into a write-engine entry, in descriptor order (R222). The entry is taken only now that
the data is in the buffer (R188). -/
def Dev.formOne (d : Dev) (c : Fin 32) : Option Dev :=
  let x := d.dma.ch[c]
  match x.running.find? fun (r : Running) => decide (r.formed < r.count) with
  | none => none
  | some r => (if x.swathFeed then d.formFeed x r else formGeneral x r).map fun x => d.modCh c fun _ => x

/-- Entries are taken while one of the 64 is free. Table 7.1 does not say for whom when several channels have data: the model
gives each to the channel that the discipline would let send next, so that one channel may take them all (DESIGN CHOICE,
log 73). -/
def Dev.form : Nat → Dev → Dev
  | 0, d => d
  | n + 1, d =>
    if 64 ≤ d.entriesUsed then d else
    match d.served (fun k => (d.formOne k).isSome) d.dma.wrFeed d.dma.wrGen with
    | none => d
    | some k => ((d.formOne k).getD d).form n

/-- Entries, completions and State after a change of a channel. -/
def Dev.dmaRun (d : Dev) (c : Fin 32) : Dev := (d.form 64).dmaSettle c

/-- DMA_READ_ISSUE: one request for the channel the discipline serves (R223 to R225). -/
def Dev.dmaReadIssue (d : Dev) (c : Fin 32) : Dev :=
  let d := d.form 64
  if d.served (fun k => (d.readTurn k).isSome) d.dma.rrFeed d.dma.rrGen = some c then
    match d.readTurn c with
    | some d =>
      let d := d.modDma fun x =>
        if d.dma.ch[c].swathFeed then { x with rrFeed := c.val } else { x with rrGen := c.val }
      d.dmaRun c
    | none => d
  else d

/-- DMA_READ_ISSUE. -/
def execDmaReadIssue (c : Fin 32) (s : State) : Out := onDev (fun s => s.dev.dmaReadIssue c) s

/-! ## Completions (R189, R238) -/

/-- An outstanding read of one space ends in error. One that is wanted no longer just ends. -/
def Dev.dmaReadError (d : Dev) (c : Fin 32) (k : BitVec 9) (cache : Bool) (code : BitVec 2) : Dev :=
  match d.dma.ch[c].waiting k with
  | none => d
  | some q =>
    let mark := Channel.failReads fun r => r.half == q.half
    let early := d.dma.ch[c].early q.half
    if q.cache ≠ cache then d
    else if q.dead then (d.modCh c (Channel.endDead fun r => r.half == q.half)).dmaRun c
    else if !cache && d.hostDown then (d.dmaHostFail c q.num early mark).dmaRun c
    else (d.dmaError c q.num code early mark).dmaRun c

/-- LPDDR_FAIL: while its cause lasts, job-cache reads end with ErrorCode 2 (Table 16.2). -/
abbrev idLpddrFail : Nat := 0x014

/-- An outstanding read of a channel ends; reads end in any order (R222). Job-cache data are what the cache holds at
that moment, protected by nothing (R219), with DMA_ECC counting what ECC corrected (R243), and none while the cache has
failed; host data are what the host sent, as many bytes as the read asked for. -/
def Dev.dmaReadEnd (d : Dev) (m : Banks) (c : Fin 32) (k : BitVec 9) (e : ReadEnd) : Dev :=
  match e with
  | .abort => d.dmaReadError c k false 1
  | .unsupported => d.dmaReadError c k false 3
  | .cacheEcc => d.dmaReadError c k true 2
  | .data bytes corrected =>
    match d.dma.ch[c].waiting k with
    | none => d
    | some q =>
      if q.cache && (d.src idLpddrFail).cause then d.dmaReadError c k true 2 else
      let b := if q.cache then m.cbytes q.address q.len else bytes
      if b.length = q.len then
        let d := d.modDma fun x => { x with ecc := if q.cache then satTo 0xFFFFFFFF (x.ecc + corrected.toNat) else x.ecc }
        (d.modCh c fun x => (x.modRead q.half fun q => { q with data := some b }).endDead fun r => r.half == q.half).dmaRun c
      else d

/-- DMA_READ_COMPLETION. -/
def execDmaReadCompletion (r : ReadTag) (e : ReadEnd) (s : State) : Out :=
  onDev (fun s => s.dev.dmaReadEnd s.mem r.c r.read e) s

/-- DMA_COMPLETION_TIMEOUT: no completion of a PCIe read within 10 ms. -/
def execDmaCompletionTimeout (r : ReadTag) (s : State) : Out :=
  onDev (fun s => s.dev.dmaReadError r.c r.read false 1) s

/-! ## The write engine (R222, R224, R236) -/

/-- The furrow die a beat goes to. -/
def Beat.die? (b : Beat) : Option Nat :=
  match b.dest with
  | .line gp _ _ _ _ => some (gp.val / 16)
  | .window a => if a / 2 ^ 24 = 0 then none else some (a / 2 ^ 24 - 1)
  | _ => none

/-- DATA flits of a beat, 8 bytes each (log 17). -/
def Beat.flits (b : Beat) : Nat := (b.bytes.length + 7) / 8

/-- The next beat of a channel can leave: a beat to a furrow die needs DATA credits, and none while the hub discards
what is bound for a contained die (Table 7.1, R382). -/
def Dev.writeReady (d : Dev) (c : Fin 32) : Bool :=
  match d.dma.ch[c].beats with
  | [] => false
  | b :: _ =>
    match b.die? with
    | none => true
    | some f =>
      if h : f < 7 then d.contained (.die ⟨f, h⟩) || decide (b.flits ≤ d.dies[f].dataCredits) else true

/-- The channel the write engine serves: an entry is sent whole, unless its channel's next beat must wait for flit
credits; under the pre-emptive discipline every beat is a turn (R224, R225). -/
def Dev.writeTurn (d : Dev) : Option (Fin 32) :=
  match d.dma.turn with
  | some c =>
    if d.discipline = 0 && d.writeReady c then some c else d.served d.writeReady d.dma.wrFeed d.dma.wrGen
  | none => d.served d.writeReady d.dma.wrFeed d.dma.wrGen

/-- A beat of a port line is written, if its slot is still granted to it (R209, R233). -/
def Dev.writeLine (d : Dev) (m : Banks) (gp : Fin 112) (epoch line off : Nat) (last : Bool) (bs : List Byte) :
    Dev × Banks :=
  let mine := fun (x : LineSlot) => x.epoch == epoch && x.line == line
  if d.ports[gp].slots.any mine then
    let a := lineAddr gp.val line + off
    let d := if last then
        d.modPort gp fun p => { p with slots := p.slots.map fun x => if mine x then { x with complete := true } else x }
      else d
    (d.rewritten a bs.length, m.puts a bs)
  else (d, m)

/-- A beat reaches its destination (R228, R241, R382). A write to the job cache or to a device window lands when its
beat leaves (log 17). -/
def Dev.writeBeat (d : Dev) (m : Banks) (c : Fin 32) (b : Beat) : Dev × Banks :=
  match b.die? with
  | some f =>
    if h : f < 7 then
      if d.contained (.die ⟨f, h⟩) then (d, m) else
      let d := d.modDie ⟨f, h⟩ fun x => { (if b.flits % 2 = 1 then x.flip 0 else x) with dataCredits := x.dataCredits - b.flits }
      put d m b
    else (d, m)
  | none => put d m b
where
  put (d : Dev) (m : Banks) (b : Beat) : Dev × Banks :=
    match b.dest with
    | .line gp e l o last => d.writeLine m gp e l o last b.bytes
    | .window a => windowStore (d, m) a ((wordsLe b.bytes).map fun v => (BitVec.ofNat 32 v, 0xF))
    | .cache a => (d, m.cputs a b.bytes)
    | .host a =>
      let down := d.hostDown
      let d := d.modCh c fun x => { x with
        lastHost := some (a + b.bytes.length - 4)
        hostDropped := x.hostDropped || down }
      if down then (d.modDma fun x => { x with drop := satInc x.drop }, m)
      else (d.emit (.hostWrite (BitVec.ofNat 64 a) b.bytes), m)
  wordsLe (bs : List Byte) : List Nat := (List.range (bs.length / 4)).map fun i => pU bs (4 * i) 4

/-- DMA_WRITE_BEAT: one beat of the channel the discipline serves. Entries that a stop or a discard has freed are taken
first. With its last byte a buffer slot is free, with its last beat the entry. -/
def Dev.dmaWriteBeat (d : Dev) (m : Banks) (c : Fin 32) : Dev × Banks :=
  let d := d.form 64
  if d.writeTurn = some c then
    match d.dma.ch[c].beats with
    | [] => (d, m)
    | b :: bs =>
      let d := d.modCh c fun x => { x with
        beats := bs
        reads := x.reads.filter fun q => !b.frees.contains q.half }
      let d := d.modDma fun x =>
        let x := { x with turn := if b.last then none else some c }
        if d.dma.ch[c].swathFeed then { x with wrFeed := c.val } else { x with wrGen := c.val }
      let r := d.writeBeat m c b
      (r.1.dmaRun c, r.2)
  else (d, m)

/-- DMA_WRITE_BEAT. -/
def execDmaWriteBeat (c : Fin 32) (s : State) : Out := onMem (fun s => s.dev.dmaWriteBeat s.mem c) s

/-- FENCE_COMPLETE: the channel's oldest FENCE, once every earlier descriptor is complete. `e` is the end of the
zero-length read that a host write before it asks for (R237, R238, R241). -/
def Dev.fenceComplete (d : Dev) (c : Fin 32) (e : FenceEnd) : Dev :=
  let x := d.dma.ch[c]
  match x.fenceDue with
  | none => d
  | some f =>
    if x.state = 2 || x.state = 3 then d
    else if x.lastHost.isSome && (d.hostDown || x.hostDropped) then d.dmaHostFail c f.num false Channel.failFence
    else if x.lastHost.isSome && e = .abort then d.dmaError c f.num 1 false Channel.failFence
    else if x.lastHost.isSome && e = .unsupported then d.dmaError c f.num 3 false Channel.failFence
    else
      let d := d.modCh c fun x => ({ x with
        fences := x.fences.drop 1, fenced := f.num
        retries := if x.retryNum = f.num then 0 else x.retries } : Channel).norm
      (d.event evDma 1 c.val (le4 f.num.toNat)).raise x.vector.toNat

/-- FENCE_COMPLETE. -/
def execFenceComplete (c : Fin 32) (e : FenceEnd) (s : State) : Out := onDev (fun s => s.dev.fenceComplete c e) s

/-! ## DMA_CONFIG, DMA_POST -/

/-- DMA_CONFIG (Table 6.7). -/
def dmaConfigCmd (c : Ctx) : Chk (Dev × Finish) := do
  needRange c.ps 0 1 0 31
  needRange c.ps 1 1 0 1
  needRange c.ps 2 1 0 15
  needRange c.ps 3 1 0 7
  needRange c.ps 4 2 0 511
  needZero c.ps 6 2
  let k := Fin.ofNat 32 (pU c.ps 0 1)
  let feed := pU c.ps 1 1 == 1
  let s := Fin.ofNat 16 (pU c.ps 2 1)
  let x := c.d.dma.ch[k]
  needFree (!x.pendingAny)
  needFree (!(x.state ≠ 3 && x.swathFeed && c.d.swathInUse x.swath))
  needFree (!(feed && c.d.swathBusy s))
  let d := c.d.causeGone (idDmaErr k.val)
  return (d.modCh k fun x =>
    { state := 0, swathFeed := feed, swath := s, retryMax := BitVec.ofNat 3 (pU c.ps 3 1)
      vector := BitVec.ofNat 9 (pU c.ps 4 2), reads := x.reads.filter fun (q : ReadReq) => q.dead }, .ok [])

/-- DMA_CONFIG's row of Table 6.2. -/
def specDmaConfig : CmdSpec := { opcode := 0x30, variant := 0, modes := setO, role := atLeast rOperator, len := lenIs 8 }

/-- DMA_CONFIG. -/
def execDmaConfig (p : Packet) (s : State) : Out := onDev (cmdDev specDmaConfig dmaConfigCmd p) s

/-- Entries of the list not free: waiting, or taken by a descriptor not yet complete (Table 7.1). -/
def Channel.entries (x : Channel) : Nat :=
  x.list.length + (x.running.filter fun (r : Running) => r.posted).length
    + (x.fences.filter fun (f : FenceWait) => f.posted).length

/-- Descriptors in parameters from byte 4 on. -/
def postedDescs (ps : List Byte) : List Desc :=
  (List.range (pU ps 2 2)).map fun i => parseDesc ((ps.drop (4 + 32 * i)).take 32)

/-- State of DMA_CH_STAT (Table 9.5): the field holds 2 halted, 3 not configured, else 0; of the latter, a channel with
work of any kind is active. -/
def Channel.stateSeen (x : Channel) : BitVec 2 :=
  if x.state = 2 || x.state = 3 then x.state
  else if x.entries > 0 || !x.running.isEmpty || !x.chain.isEmpty || !x.beats.isEmpty || !x.fences.isEmpty then 1 else 0

/-- The first field at fault in posted descriptors refuses the command (Table 9.4). -/
def needDescs (d : Dev) (x : Channel) : Nat → List Desc → Chk Unit
  | _, [] => .ok ()
  | off, t :: ts =>
    match d.descFault x.swathFeed x.swath t with
    | some f => .error (stBadParam, off + f)
    | none => needDescs d x (off + 32) ts

/-- DMA_POST (R152, R242). -/
def dmaPostCmd (c : Ctx) : Chk (Dev × Finish) := do
  needRange c.ps 0 1 0 31
  let k := Fin.ofNat 32 (pU c.ps 0 1)
  let x := c.d.dma.ch[k]
  needP (x.state ≠ 3) 0
  needZero c.ps 1 1
  needRange c.ps 2 2 1 126
  let ds := postedDescs c.ps
  needDescs c.d x 28 ds
  need (ds.length + x.entries ≤ 256) stLengthExceeds 26
  c.needRoom 6 noField
  needFree (x.state ≠ 2)
  needFree (x.swathFeed || !ds.any c.d.descBusy)
  let first := x.next.toNat + x.list.length
  let d := c.d.modCh k fun x => { x with list := x.list ++ ds }
  let d := d.modCh k Channel.norm
  return (d, .queued (le4 first ++ leBytes 2 (256 - d.dma.ch[k].entries)))

/-- DMA_POST's row of Table 6.2. -/
def specDmaPost : CmdSpec :=
  { opcode := 0x31, variant := 0, modes := setO, role := atLeast rOperator
    len := fun ps => 4 ≤ ps.length && ps.length == 4 + 32 * pU ps 2 2 }

/-- DMA_POST. -/
def execDmaPost (p : Packet) (s : State) : Out := onDev (cmdDev specDmaPost dmaPostCmd p) s

/-! ## DMA_STATUS, DMA_CONTROL -/

/-- DMA_STATUS (Table 6.9). -/
def dmaStatusCmd (c : Ctx) : Chk (Dev × Finish) := do
  needRange c.ps 0 1 0 31
  let x := c.d.dma.ch[Fin.ofNat 32 (pU c.ps 0 1)]
  return (c.d, .ok (leBytes 1 x.stateSeen.toNat ++ leBytes 1 x.retries ++ leBytes 2 x.entries ++ le4 x.done.toNat
    ++ le4 x.fenced.toNat ++ le4 x.errIdx.toNat ++ le4 x.errorCode.toNat))

/-- DMA_STATUS's row of Table 6.2. -/
def specDmaStatus : CmdSpec := { opcode := 0x32, variant := 0, modes := setA, role := atLeast rObserver, len := lenIs 1 }

/-- DMA_STATUS. -/
def execDmaStatus (p : Packet) (s : State) : Out := onDev (cmdDev specDmaStatus dmaStatusCmd p) s

/-- The first line, with its run, that a row has not passed: it fires or waits in the queue, or is the next to be
queued. -/
def Row.live (r : Row) : Nat × Nat :=
  let head := match r.queue with
    | t :: _ => (t.epoch, t.line)
    | [] => (r.epoch, r.nextLine)
  if r.firing then
    match r.queue with
    | t :: _ => if t.started then (t.epoch, t.line) else (r.markEpoch, r.upTo - 1)
    | [] => (r.markEpoch, r.upTo - 1)
  else head

/-- One line comes before another: of an earlier run, or earlier in the same. -/
def lineBefore (x y : Nat × Nat) : Bool := decide (x.1 < y.1) || (x.1 == y.1 && decide (x.2 < y.2))

/-- A row has passed a line of a run. -/
def Row.passed (r : Row) (x : LineSlot) : Bool := lineBefore (x.epoch, x.line) r.live

/-- The first line of a swath's runs that some row of its ports has not passed. -/
def Dev.firstLive (d : Dev) (s : Fin 16) : Option (Nat × Nat) :=
  ((d.swathPorts s).flatMap fun gp => d.ports[gp].rowIds.map fun k => (d.ports[gp].row k).live).foldl
    (fun best x => match best with
      | some b => if lineBefore x b then some x else some b
      | none => some x) none

/-- Lines of a feed's descriptors whose fire window has passed, those before line `line` of run `epoch`, are skipped
(R240). -/
def Channel.skipTo (epoch line : Nat) (x : Channel) : Channel :=
  let past := fun (r : Running) =>
    if r.epoch = epoch then min r.count (line - r.firstLine) else if r.epoch < epoch then r.count else 0
  let gone := fun (q : ReadReq) =>
    x.running.any fun (r : Running) => r.num == q.num && decide (r.formed ≤ q.line) && decide (q.line < past r)
  { x with
    running := x.running.map fun (r : Running) =>
      let k := past r
      { r with
        formed := max r.formed k, issued := max r.issued k
        ports := if r.formed < k then 0 else r.ports
        partA := if r.issued < k then 0 else r.partA
        partB := if r.issued < k then 0 else r.partB } }.dropReads gone

/-- Descriptors not yet started are skipped likewise, their sources advancing with the lines: each is started and its
passed lines are left out. -/
def Dev.skipAhead (c : Fin 32) (epoch line : Nat) : Nat → Dev → Dev
  | 0, d => d
  | n + 1, d =>
    let x := d.dma.ch[c]
    if x.epoch < epoch then
      match d.swaths[x.swath].run? epoch with
      | some r => if r.pattern.isNone then (d.modCh c fun x => x.enterRun r).skipAhead c epoch line n else d
      | none => d
    else if x.epoch = epoch && decide (x.nextLine < line) then
      match d.startFeed c with
      | some d => (d.modCh c (Channel.skipTo epoch line)).skipAhead c epoch line n
      | none => d
    else d

/-- A feed resumes at the first line still granted: what its rows have passed is skipped (R240). -/
def Dev.skipPassed (d : Dev) (c : Fin 32) : Dev :=
  match d.firstLive d.dma.ch[c].swath with
  | none => d
  | some (e, l) =>
    let d := d.modCh c (Channel.skipTo e l)
    let x := d.dma.ch[c]
    d.skipAhead c e l ((l + 2) * (x.chainWhole.length + 2) + x.list.length)

/-- A halted channel goes on at the failing request. -/
def Dev.dmaResume (d : Dev) (c : Fin 32) : Dev :=
  let x := d.dma.ch[c]
  if x.state ≠ 2 then d else
  let d := d.modCh c fun x => { x.setRetries x.errIdx 0 with
    state := 0, hostDropped := false
    running := (x.setRetries x.errIdx 0).running.map fun (r : Running) => { r with early := false }
    reads := x.reads.map fun (q : ReadReq) => { q with failed := false }
    fences := (x.setRetries x.errIdx 0).fences.map fun (f : FenceWait) => { f with failed := false } }
  let d := if x.swathFeed then d.skipPassed c else d
  let d := (d.normal (idDmaErr c.val)).dmaRun c
  if d.hostDown then d.hostLostOn c else d

/-- A channel's list and chain are discarded. -/
def Dev.dmaDiscard (d : Dev) (c : Fin 32) : Dev := ((d.modCh c Channel.discard).normal (idDmaErr c.val)).dmaRun c

/-- DMA_CONTROL with an effect on the channel. -/
def dmaControlCmd (f : Dev → Fin 32 → Dev) (c : Ctx) : Chk (Dev × Finish) := do
  needRange c.ps 0 1 0 31
  return (f c.d (Fin.ofNat 32 (pU c.ps 0 1)), .ok [])

/-- DMA_CONTROL's rows of Table 6.2. -/
def specDmaControl (v : Byte) : CmdSpec :=
  { opcode := 0x33, variant := v, modes := setO, role := atLeast rOperator, len := lenIs 1 }

/-- DMA_CONTROL variant 0. -/
def execDmaControlResume (p : Packet) (s : State) : Out :=
  onDev (cmdDev (specDmaControl 0) (dmaControlCmd Dev.dmaResume) p) s

/-- DMA_CONTROL variant 1: on a halted channel alone. -/
def execDmaControlDiscard (p : Packet) (s : State) : Out :=
  onDev (cmdDev (specDmaControl 1) (dmaControlCmd fun d c => if d.dma.ch[c].state = 2 then d.dmaDiscard c else d) p) s

/-- DMA_CONTROL variant 2: the channel stops after its present beat. -/
def execDmaControlStop (p : Packet) (s : State) : Out :=
  onDev (cmdDev (specDmaControl 2) (dmaControlCmd Dev.dmaDiscard) p) s

/-! ## LINE_SLOT_FREED (R191) -/

/-- A port's die sends a message for every slot that each of its rows has now passed, in the order of the slots. -/
def Dev.tellSlots (d : Dev) (gp : Fin 112) : Dev :=
  let p := d.ports[gp]
  let passed := fun (x : LineSlot) => p.rowIds.all fun k => (p.row k).passed x
  let now := p.slots.filter fun x => !x.told && passed x
  if now.isEmpty then d else
  let d := now.foldl (fun d _ => d.modDie ⟨gp.val / 16, by omega⟩ fun x => x.sendCtrl true (.slotFreed gp)) d
  let slots := p.slots.filter (fun x => x.told) ++ now.map (fun x => { x with told := true })
    ++ p.slots.filter fun x => !x.told && !passed x
  d.modPort gp fun p => { p with slots }

/-- The hub learns of the slots that every row of a port has passed, as far as the messages have left the die. -/
def Dev.lineSlotFreed (d : Dev) (gp : Fin 112) : Dev :=
  let d := d.tellSlots gp
  let left := (d.ports[gp].slots.filter fun x => x.told).length - (dieWait d).count (.slotFreed gp)
  d.modPort gp fun p => { p with slots := p.slots.drop left }
where
  /-- Messages of the port's die that wait for a credit. -/
  dieWait (d : Dev) : List CtrlMsg := (d.dies[dieOf gp]).ctrlWaitUp

/-- LINE_SLOT_FREED. -/
def execLineSlotFreed (gp : Fin 112) (s : State) : Out := onDev (fun s => s.dev.lineSlotFreed gp) s

end Sys2Proof.Machine
end

