-- ==== Sys2Proof/Machine/Jobs.lean ====
section
/-! DEFINITION. Swaths and jobs: definition, contexts, validation, arming, the switch on the hub and on the dies, the
lines a row queues, and how jobs end (R154 to R157, R198 to R218). -/

namespace Sys2Proof.Machine

/-! ## Positions -/

/-- The extended position of a copy, modulo 2^40 (R317). -/
def extPos (wrap : BitVec 8) (count : Word) : Nat :=
  (wrap.toNat * 2 ^ 32 + 2 ^ 40 - (if count.toNat ≥ 2 ^ 31 then 2 ^ 32 else 0) + count.toNat) % 2 ^ 40

/-- The extended position of a copy. -/
def EncCopy.ext (c : EncCopy) : Nat := extPos c.wrap c.count

/-- The signed distance from `b` to `a`. -/
def diff40 (a b : Nat) : Int := toSigned 40 ((a + 2 ^ 40 - b % 2 ^ 40) % 2 ^ 40)

/-- A position moved by a signed number of counts. -/
def add40 (a : Nat) (i : Int) : Nat := (((a : Int) + i) % (2 ^ 40 : Int)).toNat

/-- Line position of a run so many counts after its Origin, in 1/256 line, rounded down (R201). -/
def Run.lp (r : Run) (counts : Int) : Int := counts * r.gearNum / r.gearDen

/-- The old lines of a run whose whole interval lies before a position so many counts after its Origin (R208). -/
def Run.linesBefore (r : Run) (counts : Int) : Nat := (r.lp counts / 256).toNat

/-- Lower a bound on lines. -/
def minLines (a : Option Nat) (n : Nat) : Option Nat := some (match a with
  | some k => min k n
  | none => n)

/-- The run in force on the hub while the swath prints. -/
def Swath.present (w : Swath) : Option Run :=
  if w.state = 2 || w.state = 3 then w.runs.find? fun (r : Run) => r.epoch == w.gens[0].epoch else none

/-- The calibration set of a run on a port: patterns take the set in force (R269, R306). -/
def Run.calSet (r : Run) (p : Port) : Fin 4 := if r.pattern.isSome then p.calSel else r.policy.calSet

/-- The wave set of a run on a port. -/
def Run.waveSet (r : Run) (p : Port) : Fin 4 := if r.pattern.isSome then p.waveSel else r.policy.waveSet

/-- The smallest offset of a swath's rows under a run. -/
def Dev.upstream (d : Dev) (m : Banks) (s : Fin 16) (r : Run) : Int :=
  leastOffset ((d.swathPorts s).flatMap fun gp =>
    d.ports[gp].rowIds.map fun k => m.offset gp.val (r.calSet d.ports[gp]).val k)

/-! ## Rates and rows -/

/-- A row in no sequence takes a swath's admissible rate (R26, R259, R282). -/
def Row.takeRate (r : Row) (hz : Nat) : Row := if r.firing then r else { r with fAdm := hz }

/-- The rows of a swath that stand at a line boundary take its admissible rate. -/
def Dev.refreshSwath (d : Dev) (s : Fin 16) : Dev :=
  let hz := d.admissible s
  (d.swathPorts s).foldl (fun d gp => d.modPort gp fun p =>
    { p with rowA := p.rowA.takeRate hz, rowB := p.rowB.takeRate hz }) d

/-- The same on every swath. -/
def Dev.refreshRates (d : Dev) : Dev := (fins 16).foldl Dev.refreshSwath d

/-- A row's last line of a run has left its queue. -/
def Row.done (r : Row) (e n : Nat) : Bool :=
  (decide (e < r.epoch) || (r.epoch == e && decide (n ≤ r.nextLine)))
    && !r.queue.any (fun (t : Token) => t.epoch == e) && !(r.firing && r.markEpoch == e)

/-- The runs whose lines a die may queue, oldest first: the run of a pending switch too once the die has its commit, for
its line 0 lies at the switch position and commits before the crossing (R207, R208, R261). -/
def Swath.dieRuns (w : Swath) (k : Fin 8) : List Run :=
  w.runs.reverse ++ (if w.gens[k].armed || w.gens[k].crossed then w.pendingRun.toList else [])

/-- The run a row queues has a further line. -/
def Run.hasLine (x : Run) (line : Nat) : Bool := match x.lines with
  | some n => decide (line < n)
  | none => true

/-- One more token, of the run the row queues or, once that has no further line, of the next: its line 0 is queued
behind the last old lines (R210). -/
def queueLine (runs : List Run) (r : Row) : Row :=
  if 4 ≤ r.queue.length then r else
  let next := (runs.find? fun (x : Run) => decide (r.epoch < x.epoch)).map fun x => (x.epoch, 0)
  let at' := match runs.find? fun (x : Run) => x.epoch == r.epoch with
    | some x => if x.hasLine r.nextLine then some (r.epoch, r.nextLine) else next
    | none => if r.queue.any (fun (t : Token) => t.epoch == r.epoch) then none else next
  match at' with
  | none => r
  | some (e, l) =>
    if (runs.find? fun (x : Run) => x.epoch == e).any fun x => x.hasLine l then
      { r with queue := r.queue ++ [{ epoch := e, line := l }], epoch := e, nextLine := l + 1 }
    else { r with epoch := e, nextLine := l }

/-- The high-water mark reads all-ones once the row turns to the first line of a later run (Table 10.8). -/
def Row.turn (r : Row) : Row :=
  let e := match r.queue with
    | t :: _ => t.epoch
    | [] => r.epoch
  if r.markEpoch < e && !r.firing then { r with markEpoch := e, last := 0xFFFFFFFF, upTo := 0 } else r

/-- A row's next lines: at most four tokens (Table 7.1). -/
def refillRow (runs : List Run) (r : Row) : Row := ((List.range 8).foldl (fun r _ => queueLine runs r) r).turn

/-- Every row of a swath queues its next lines, on the dies whose channel runs forward (R268). -/
def Dev.refillSwath (d : Dev) (s : Fin 16) : Dev :=
  let w := d.swaths[s]
  if w.endAtBoundary then d else
  ((d.swathPorts s).filter fun gp => !d.swathReversed s gp).foldl (fun d gp =>
    let runs := w.dieRuns (dieCopy gp)
    d.modPort gp fun p =>
      { p with rowA := refillRow runs p.rowA, rowB := if p.rows2 then refillRow runs p.rowB else p.rowB }) d

/-- A row's lines committed and not started leave its queue unfired and uncounted; those not yet committed are queued
again (R96, R159). -/
def Row.discard (r : Row) : Row :=
  let r := match (r.queue.filter fun (t : Token) => !t.started && t.start.isSome).getLast? with
    | some t => r.mark t.epoch t.line
    | none => r
  { r with
    queue := r.queue.filter fun (t : Token) => t.started
    nextLine := match r.queue.find? fun (t : Token) => !t.started && t.start.isNone with
      | some t => t.line
      | none => r.nextLine
    epoch := match r.queue.find? fun (t : Token) => !t.started && t.start.isNone with
      | some t => t.epoch
      | none => r.epoch }.turn

/-- The fire queue of a port is discarded. -/
def Dev.discardQueue (d : Dev) (gp : Fin 112) : Dev :=
  let d := d.modPort gp fun p => { p with rowA := p.rowA.discard, rowB := p.rowB.discard }
  match d.swathOf gp.val with
  | some s => d.refillSwath s
  | none => d

/-- Runs no row is on any more are forgotten. -/
def Dev.pruneRuns (d : Dev) (s : Fin 16) : Dev :=
  let rows := (d.swathPorts s).flatMap fun gp => d.ports[gp].rowIds.map d.ports[gp].row
  let gone := fun (r : Run) => (match r.lines with
    | some n => rows.all fun (x : Row) => x.done r.epoch n
    | none => rows.all fun (x : Row) => decide (r.epoch < x.epoch))
  d.modSwath s fun w => { w with runs := w.runs.filter fun r =>
    (!gone r) || ((w.state = 2 || w.state = 3) && r.epoch == w.gens[0].epoch) }

/-! ## The end of a job -/

/-- The present count of the hub on a swath's channel. -/
def Dev.hubCount (d : Dev) (s : Fin 16) : Word := (d.pos.enc[d.swaths[s].channel].copies[0]).count

/-- JOB kind 2 once every swath of the active job has ended by its Length, be it that some have switched since (R216).
While another job is armed the job remains active (R213). -/
def Dev.settleLength (d : Dev) (s : Fin 16) : Dev :=
  match d.activeJob with
  | some j =>
    if !d.activeSwaths.isEmpty && d.activeSwaths.all d.activeEnded.contains then
      (if d.armed.isSome then d else { d with activeJob := none, activeSwaths := [], activeEnded := [] }).event
        evJob 2 j (le4 (d.hubCount s).toNat)
    else d
  | none => d

/-- The commands that wait for a job's last swath to end are answered (R157). -/
def Dev.wakeJobEnd (d : Dev) : Dev :=
  (d.ses.work.filter fun (e : WorkEntry) => match e.park with
    | some (.jobEnd j) => !(fins 16).any fun s => d.swaths[s].state == 2 && d.swaths[s].job == j
    | _ => false).foldl (fun d e => d.answer e.packet stOk noField []) d

/-! ## Changes of mode (R78 to R80, R144) -/

/-- The transitions of Table 4.2 that SET_MODE makes. -/
def modeListed (old new : BitVec 4) : Bool :=
  (old == mReady && (new == mPrint || new == mService || new == mCalibrate || new == mTest))
    || ((old == mPrint || old == mService || old == mCalibrate || old == mTest) && new == mReady)

/-- The role condition of a listed transition. -/
def Dev.modeRole (d : Dev) (x : Session) (old new : BitVec 4) : Bool :=
  let m := if new = mReady then old else new
  if m = mService then decide (rService ≤ x.role)
  else if m = mTest then new == mReady || (d.otp.debugOpen && d.entitled x)
  else decide (rOperator ≤ x.role)

/-- A SET_MODE is handed over and nothing has taken it yet: every row of every printing swath is in a sequence, and nothing
else of what the mode has going on stands still (Table 1.3a). -/
def Dev.modeHeld (d : Dev) : Bool :=
  let w := (fins 16).filter fun s => d.swaths[s].state == 2 || d.swaths[s].state == 3
  !w.isEmpty && d.armed.isNone
    && w.all (fun s => (d.swathPorts s).all fun gp =>
      d.ports[gp].rowIds.all (fun k => (d.ports[gp].row k).firing) && d.swaths[s].pendingRun.isNone)
    && (fins 16).all (fun s => d.swaths[s].pendingRun.isNone)
    && (fins 112).all fun gp => d.ports[gp].scan.state == 0 && !d.spitting gp

/-- The first row at a line boundary takes the change: what the mode being left has going on stops, each swath at its own
next line boundary: jobs, patterns, spitting and scans; armed jobs are disarmed (R79, R297). From now on no row starts a
line. -/
def Dev.takeMode (d : Dev) : Dev :=
  let d := d.modSys fun x => { x with taken := true }
  if d.mode = mReady then d else
    let d := (fins 112).foldl (fun d gp => (d.stopPiece gp fun x => x.lineNs).modPort gp Port.dropBurst) d
    let d := (fins 112).foldl Dev.abortScan d
    (fins 16).foldl Dev.endSwath d.disarm

/-- A change of mode begins; it is taken at once unless every row fires (R79, R16; DESIGN CHOICE, log 58). -/
def Dev.leaveMode (d : Dev) (new : BitVec 4) : Dev :=
  let d := d.modSys fun x => { x with changing := true, taken := false, target := new }
  if d.modeHeld then d else d.takeMode

/-- What the mode being left has going on has stopped: every row stands at a line boundary, no spit line is in progress. -/
def Dev.rowsStill (d : Dev) : Bool :=
  (fins 112).all fun gp => !d.ports[gp].rowA.firing && !d.ports[gp].rowB.firing && !d.spitting gp

/-- No swath prints and every row stands at a line boundary. -/
def Dev.printIdle (d : Dev) : Bool :=
  (fins 16).all fun s => d.swaths[s].state != 2 && d.swaths[s].state != 3 && d.rowsIdle s

/-- Every output of a port is low in TEST: a piece in progress is cut (Table 4.1). -/
def Dev.cutPiece (d : Dev) (gp : Fin 112) : Dev :=
  if d.pieceOn gp then (d.emit (.held gp.val)).modPort gp fun p => p.dropBurst.endPiece else d

/-- The new mode: in TEST every gate and every HPEN is low (Table 4.1). -/
def Dev.arriveMode (d : Dev) (new : BitVec 4) : Dev :=
  let pins := (fins 112).filter fun gp => d.ports[gp].powered
  let d := if new = mTest then pins.foldl (fun d gp => (d.cutPiece gp).emit (.hpen gp.val false)) d
    else if d.mode = mTest then pins.foldl (fun d gp => d.emit (.hpen gp.val true)) d
    else d
  let d := if new = mTest then
      (fins 8).foldl Dev.auxUnpower ((fins 4).foldl (fun d n => d.modTax n Tax.gatesOff) d)
    else d
  d.enterMode new

/-- A SET_MODE in its turn: refused, answered at once, or begun. -/
def Dev.tryMode (d : Dev) (p : Packet) : Dev :=
  let old := d.mode
  let new := BitVec.ofNat 4 (pU (pktParams p) 0 1)
  let x := d.actsFor p
  if new = old then d.answer p stOk noField (leBytes 1 old.toNat)
  else if !modeListed old new then d.answer p stMode noField []
  else if !d.modeRole x old new then d.answer p stRole noField []
  else
    let d := d.leaveMode new
    if d.rowsStill then (d.arriveMode new).answer p stOk noField (leBytes 1 old.toNat)
    else d.modSes fun t => { t with work := t.work.map fun (e : WorkEntry) =>
      if e.packet = p then { e with park := some (.modeChange old new) } else e }

/-- Waiting SET_MODEs take their turns, in the order in which they were taken, each judged against the mode the one
before it left (R80). -/
def Dev.nextMode : Nat → Dev → Dev
  | 0, d => d
  | n + 1, d =>
    if d.sys.changing then d else
    match d.ses.work.find? fun (e : WorkEntry) => e.park == some .modeWait with
    | some e => (d.tryMode e.packet).nextMode n
    | none => d

/-- A transition completes: the reply carries the previous mode. After a control-plane restart no command is left to be
answered (R16). -/
def Dev.completeMode (d : Dev) : Dev :=
  let old := d.mode
  let d := d.arriveMode d.sys.target
  (d.ses.work.filter fun (e : WorkEntry) => match e.park with
    | some (.modeChange _ _) => true
    | _ => false).foldl (fun d e => d.answer e.packet stOk noField (leBytes 1 old.toNat)) d

/-- A mode change that waits for the swaths to stop completes (R79, R144). -/
def Dev.wakeMode (d : Dev) : Dev :=
  if d.sys.changing && d.rowsStill then
    let d := (if d.sys.taken then d else d.takeMode).completeMode
    d.nextMode d.ses.work.length
  else d

/-- A swath whose rows have done every line of its run is idle: a job by its Length, a pattern by its Lines
(R167, R216). -/
def Dev.endByLength (d : Dev) (s : Fin 16) : Dev :=
  let w := d.swaths[s]
  match w.present with
  | some { epoch := e, lines := some n, pattern := pat, policy := pol, .. } =>
    let rows := (d.swathPorts s).flatMap fun gp => d.ports[gp].rowIds.map d.ports[gp].row
    if rows.all fun (r : Row) => r.done e n then
      if pat.isSome then
        ((d.modSwath s fun w => { w with state := 1 }).event evJob 5 0 [BitVec.ofNat 8 s.val]).pruneRuns s
      else if pol.length = n then
        -- what is left of its chain will not be read: no line of it is left
        let d := (d.modSwath s fun w => { w with state := 1, ended := true }).endFeed s e n true
        let d := if d.activeJob = some w.job && d.activeSwaths.contains s then
          ({ d with activeEnded := s :: d.activeEnded } : Dev).settleLength s else d
        ((d.settleActive).pruneRuns s).wakeJobEnd
      else d
    else d
  | _ => d

/-- What follows a row's line boundary on its swath: ends that waited for it, new rates, next lines, waiting commands
(R259). -/
def Dev.afterBoundary (d : Dev) (s : Fin 16) : Dev :=
  let d := if d.sys.changing && !d.sys.taken then d.takeMode else d
  let d := ((d.settleSwath s).settleActive).refreshSwath s
  (((d.endByLength s).refillSwath s).pruneRuns s).wakeJobEnd.wakeMode

/-- The job a swath prints stops at each of its swaths' next line boundaries: JOB kind 3 (R217). -/
def Dev.underrunStop (d : Dev) (s : Fin 16) : Dev :=
  let j := d.swaths[s].job
  let d := match d.armed with
    | some a => if a.job = j then d.disarmKeep else d
    | none => d
  let d := (fins 16).foldl (fun d k =>
    if d.swaths[k].state = 2 && d.swaths[k].job = j then d.endSwath k else d) d
  d.event evJob 3 j (le4 (d.hubCount s).toNat)

/-! ## SWATH_DEFINE -/

/-- A port map within the variant. -/
def Dev.mapPresent (d : Dev) (m : Nat) : Bool := (List.range 112).all fun gp => !m.testBit gp || d.hasPort gp

/-- SWATH_DEFINE (Table 6.10, R154). The reply's MaxRateHz is 0 when Clear leaves the swath undefined (DESIGN CHOICE,
log 76). -/
def swathDefineCmd (c : Ctx) : Chk (Dev × Finish) := do
  needRange c.ps 0 1 0 15
  needRange c.ps 1 1 0 3
  needRange c.ps 2 1 0 3
  let s := Fin.ofNat 16 (pU c.ps 0 1)
  let clear := getB 1 (pU c.ps 2 1)
  let map := pU c.ps 8 14
  let others := (fins 16).any fun k => k != s && c.d.swaths[k].defined
  needP (!(clear && c.d.swaths[s].reference && others)) 2
  needZero c.ps 3 1
  needP ((map == 0) == clear && c.d.mapPresent map) 8
  needZero c.ps 22 2
  c.needRoom 4 noField
  needFree (!c.d.swathBusy s)
  needFree ((fins 112).all fun gp => !map.testBit gp.val || (match c.d.swathOf gp.val with
    | some k => k == s
    | none => true))
  let first := !(fins 16).any fun k => c.d.swaths[k].reference
  let take := !clear && (getB 0 (pU c.ps 2 1) || first)
  let swaths := if take then vall (fun (w : Swath) => { w with reference := false }) c.d.swaths else c.d.swaths
  let d : Dev := { c.d with swaths }
  let d := d.modSwath s fun w =>
    if clear then { epoch := w.epoch, gens := w.gens }
    else { w with
      defined := true, reference := w.reference || take, channel := Fin.ofNat 4 (pU c.ps 1 1)
      barOffset := BitVec.ofNat 32 (pU c.ps 4 4), portMap := BitVec.ofNat 112 map
      state := if w.defined then w.state else 1 }
  return (d.refreshRates, .ok (le4 (if clear then 0 else d.swathHz s)))

/-- SWATH_DEFINE's row of Table 6.2. -/
def specSwathDefine : CmdSpec :=
  { opcode := 0x40, variant := 0, modes := setO, role := atLeast rOperator, len := lenIs 24 }

/-- SWATH_DEFINE. -/
def execSwathDefine (p : Packet) (s : State) : Out := onDev (cmdDev specSwathDefine swathDefineCmd p) s

/-! ## JOB_WRITE, JOB_READ -/

/-- JOB_WRITE (R155). -/
def jobWriteCmd (c : Ctx) : Chk (Dev × Banks × Finish) := do
  let j := pU c.ps 0 1
  let off := pU c.ps 2 2
  needZero c.ps 1 1
  needRange c.ps 2 2 0 8191
  need (off + (c.ps.length - 4) ≤ 8192) stLengthExceeds 26
  needFree (!c.d.ctxInUse j)
  let r := putRange c.d c.s.mem (ctxBase j + off) (c.ps.drop 4)
  return (r.1, r.2, .ok [])

/-- JOB_WRITE's row of Table 6.2. -/
def specJobWrite : CmdSpec :=
  { opcode := 0x41, variant := 0, modes := setO, role := atLeast rOperator
    len := fun ps => decide (5 ≤ ps.length) && decide (ps.length ≤ 4060) }

/-- JOB_WRITE. -/
def execJobWrite (p : Packet) (s : State) : Out := onMem (cmdMem specJobWrite jobWriteCmd p) s

/-- JOB_READ (R155). -/
def jobReadCmd (c : Ctx) : Chk (Dev × Finish) := do
  let off := pU c.ps 2 2
  let n := pU c.ps 4 2
  needZero c.ps 1 1
  needRange c.ps 2 2 0 8191
  needRange c.ps 4 2 1 4060
  need (off + n ≤ 8192) stLengthExceeds 28
  c.needRoom n 28
  let r := hostRead c.d c.s.mem (ctxBase (pU c.ps 0 1) + off) n
  return (r.1, .ok r.2)

/-- JOB_READ's row of Table 6.2. -/
def specJobRead : CmdSpec := { opcode := 0x42, variant := 0, modes := setA, role := atLeast rObserver, len := lenIs 6 }

/-- JOB_READ. -/
def execJobRead (p : Packet) (s : State) : Out := onDev (cmdDev specJobRead jobReadCmd p) s

/-! ## Validation (R205, R206) -/

/-- Bytes are zero. -/
def zeros (bs : List Byte) (off n : Nat) : Bool := ((bs.drop off).take n).all fun b => b == 0

/-- The header of a context: format, reserved bytes, CRC, a swath named (Table 8.2). -/
def ctxHeaderOk (bs : List Byte) : Bool :=
  pU bs 0 2 == 8 && pU bs 2 2 != 0 && zeros bs 8 52 && pU bs 60 4 == (crc32c (bs.take 60 ++ bs.drop 64)).toNat

/-- A swath entry within its ranges (Table 8.3, R202). -/
def entryOk (e : List Byte) : Bool :=
  let num := pU e 0 4
  let den := pU e 4 4
  decide (1 ≤ num) && decide (1 ≤ den) && decide (num ≤ 4096 * den)
    && decide (pU e 12 2 ≤ 189) && decide (1 ≤ pU e 14 2) && decide (pU e 12 2 + pU e 14 2 ≤ 190)
    && decide (pU e 16 1 ≤ 2) && decide (pU e 17 1 ≤ 3) && decide (pU e 18 1 ≤ 3) && decide (pU e 19 1 ≤ 3)
    && decide (pU e 20 1 ≤ 2) && decide (pU e 21 1 ≤ 2) && decide (1 ≤ pU e 22 2) && decide (pU e 24 2 ≤ 10000)
    && zeros e 28 100

/-- What a swath entry selects. -/
def entryPolicy (e : List Byte) : JobSwath :=
  { gearNum := pU e 0 4, gearDen := pU e 4 4, length := pU e 8 4, firstDesc := pU e 12 2, descCount := pU e 14 2
    chainEnd := pU e 16 1, waveSet := Fin.ofNat 4 (pU e 17 1), shareSet := Fin.ofNat 4 (pU e 18 1)
    calSet := Fin.ofNat 4 (pU e 19 1), hidePolicy := pU e 20 1, overspeed := pU e 21 1, dropLimit := pU e 22 2
    windowTolNs := pU e 24 2, underrunStop := pU e 26 2 }

/-- The run a swath entry describes; its origin comes with the boundary. -/
def entryRun (bs : List Byte) (job : Nat) (s : Fin 16) : Run :=
  let pol := entryPolicy ((bs.drop (64 + 128 * s.val)).take 128)
  { epoch := 0, job, origin := 0, gearNum := pol.gearNum, gearDen := pol.gearDen, policy := pol
    lines := if pol.length = 0 then none else some pol.length
    chain := (List.range pol.descCount).map fun i => parseDesc ((bs.drop (2112 + 32 * (pol.firstDesc + i))).take 32) }

/-- The along-web offsets of a swath in both jobs change by at most one line of the new ratio on every row (R210). -/
def Dev.alongOk (d : Dev) (m : Banks) (s : Fin 16) (new : Run) : Bool :=
  let w := d.swaths[s]
  -- a swath whose old job has ended by its Length keeps that job's set and ratio in force
  if w.state = 2 || (w.ended && d.activeSwaths.contains s) then
    (d.swathPorts s).all fun gp => d.ports[gp].rowIds.all fun k =>
      let set := match w.present with
        | some old => old.policy.calSet
        | none => d.ports[gp].calSel
      let a : Rat := (m.offset gp.val set.val k : Rat) * w.gearDen / w.gearNum
      let b : Rat := (m.offset gp.val new.policy.calSet.val k : Rat) * new.gearDen / new.gearNum
      decide (|b - a| ≤ 256 * (new.gearDen : Rat) / new.gearNum)
  else true

/-- The checks of Table 8.5 on one swath, on the reference swath's channel. -/
def Dev.entryValid (d : Dev) (m : Banks) (bs : List Byte) (job : Nat) (ch : Fin 4) (s : Fin 16) : Bool :=
  let w := d.swaths[s]
  let r := entryRun bs job s
  w.defined && w.channel == ch && (d.feedOf s).isSome
    && entryOk ((bs.drop (64 + 128 * s.val)).take 128)
    && r.chain.all (fun x => (d.descFault true s x).isNone)
    && (d.swathPorts s).all (fun gp =>
      m.waveLoaded gp.val r.policy.waveSet.val && m.shareLoaded gp.val r.policy.shareSet.val)
    && decide (spread (d.swathOffsets m s r.policy.calSet.val) ≤ 49152)
    && d.alongOk m s r

/-- The swaths a context names. -/
def ctxSwaths (bs : List Byte) : List (Fin 16) := (fins 16).filter fun s => (pU bs 2 2).testBit s.val

/-- The reference swath. -/
def Dev.refSwath (d : Dev) : Option (Fin 16) := (fins 16).find? fun s => d.swaths[s].reference && d.swaths[s].defined

/-- A context validates (Table 8.5, R329). -/
def Dev.ctxValid (d : Dev) (m : Banks) (bs : List Byte) (job : Nat) (ref : Fin 16) : Bool :=
  let ch := d.swaths[ref].channel
  ctxHeaderOk bs && d.pos.enc[ch].cfg.mode != 0 && (ctxSwaths bs).all (d.entryValid m bs job ch)

/-! ## Arming (R207 to R212) -/

/-- The ratio by which R211 counts lines before a switch position: the old job's while it prints, else the new one's. -/
def Dev.ratioFor (d : Dev) (s : Fin 16) (new : Option Run) : Nat × Nat :=
  match d.swaths[s].present, new with
  | some r, _ => (r.gearNum, r.gearDen)
  | none, some r => (r.gearNum, r.gearDen)
  | none, none => (1, 1)

/-- A count lies fewer than `n` lines short of a position (R207, R211). -/
def tooNear (n : Nat) (ratio : Nat × Nat) (pos c : Nat) : Bool :=
  decide (diff40 pos c * ratio.1 < (n * 256 * ratio.2 : Nat))

/-- A position stands at which the present job of a swath ends and nothing starts: the end of an earlier switch (R208). -/
def Swath.pendingEnd (w : Swath) : Option (Nat × Nat) :=
  match w.endPos, w.switch with
  | some p, _ => some p
  | none, some { pos, run := none, tag } => if w.gens[0].crossed then none else some (pos, tag)
  | _, _ => none

/-- The switches a die has still to pass when another is armed. -/
def LineGen.behind (g : LineGen) (switch : Option JobChange) : List JobChange :=
  g.late ++ if g.armed && !g.crossed then switch.toList else []

/-- The swaths of the printing and of the arming job, each with the run it starts. A swath that is to end at the position
of an earlier switch ends there and not later. -/
def Dev.switching (d : Dev) (runs : List (Fin 16 × Run)) : List (Fin 16 × Option Run) :=
  (fins 16).filterMap fun s =>
    match runs.find? fun (x : Fin 16 × Run) => x.1 == s with
    | some x => some (s, some x.2)
    | none => if d.swaths[s].state = 2 && d.swaths[s].pendingEnd.isNone then some (s, none) else none

/-- P_s of a boundary (R208). -/
def Dev.switchPos (d : Dev) (boundary : Nat) (s : Fin 16) : Nat := add40 boundary d.swaths[s].barOffset.toInt

/-- The boundary of R212: after `asked`, every swath at least 8 lines short, on the reference swath's old grid while it
prints. -/
def Dev.asapBoundary (d : Dev) (ref : Fin 16) (now asked : Nat) (sw : List (Fin 16 × Option Run)) : Nat :=
  let lead := sw.map fun x =>
    let q := d.ratioFor x.1 x.2
    ((2048 * q.2 : Nat) : Rat) / (q.1 : Rat) - (d.swaths[x.1].barOffset.toInt : Rat)
  let low := lead.foldl max (diff40 asked now : Rat)
  let u : Int := match d.swaths[ref].present with
    | some r =>
      let o : Rat := (-d.swaths[ref].gens[0].pos : Rat) - (d.swaths[ref].barOffset.toInt : Rat)
      -- in step with Origin, whichever the line: r itself is named for its ratio
      let step : Rat := ((256 * r.gearDen : Nat) : Rat) / (r.gearNum : Rat)
      let k := ((low - o) / step).ceil
      (o + k * step).ceil
    | none => low.ceil
  add40 now u

/-- The dies that carry a port of a swath. -/
def Dev.swathDies (d : Dev) (s : Fin 16) : List (Fin 7) :=
  (fins 7).filter fun f => (d.swathPorts s).any fun gp => gp.val / 16 == f.val

/-- One swath takes its pending switch: the old lines are bounded, their feed with them (R208, R209). -/
def Dev.armSwath (d : Dev) (boundary : Nat) (x : Fin 16 × Option Run) : Dev :=
  let s := x.1
  let pos := d.switchPos boundary s
  let now := d.swaths[s].present
  let at' : Int := d.swaths[s].gens[0].pos + diff40 pos (d.pos.enc[d.swaths[s].channel].copies[0]).ext
  let d := d.modSwath s fun w =>
    let e := w.epoch + 1
    let gens := vall (fun (g : LineGen) => { g with armed := false, crossed := false, late := g.behind w.switch }) w.gens
    { w with
      epoch := e
      endPos := w.pendingEnd
      switch := some { pos, run := x.2.map fun r => { r with epoch := e, origin := pos }, tag := e }
      gens := vmod gens 0 fun g => { g with armed := true, late := [] }
      runs := w.runs.map fun (r : Run) => match now with
        | some o => if r.epoch = o.epoch then { r with lines := minLines r.lines (r.linesBefore at') } else r
        | none => r }
  match now with
  | some r => (d.dropTokens s r.epoch (r.linesBefore at')).endFeed s r.epoch (r.linesBefore at') false
  | none => d

/-- The arming write and the commits that go out with it, to every die that carries a port of a swath of either job, one
that has ended by its Length among them (R207). -/
def Dev.arm (d : Dev) (job : Nat) (boundary : Nat) (runs : List (Fin 16 × Run)) : Dev :=
  let sw := d.switching runs
  let dies := ((sw.map fun x => x.1) ++ d.activeSwaths).flatMap d.swathDies |>.eraseDups
  let d := sw.foldl (fun d x => d.armSwath boundary x) d
  let swaths := runs.map fun x => x.1
  let a : Armed := {
    job, boundary := BitVec.ofNat 32 boundary
    wrap := BitVec.ofNat 8 ((boundary + (if boundary % 2 ^ 32 ≥ 2 ^ 31 then 2 ^ 32 else 0)) / 2 ^ 32)
    swaths, switching := sw.map fun x => x.1, toSwitch := swaths, waitAck := dies }
  let d := dies.foldl (fun d f => d.modDie f fun x => x.sendCtrl false .commit) d
  { d with armed := some a }.event evJob 0 job (le4 boundary)

/-- A job is active, or still printed by some swath. -/
def Dev.jobActive (d : Dev) (j : Nat) : Bool :=
  d.activeJob == some j || (fins 16).any fun s => d.swaths[s].state == 2 && d.swaths[s].job == j

/-- JOB_SWITCH (R156, R207). -/
def jobSwitchCmd (c : Ctx) : Chk (Dev × Finish) := do
  let j := pU c.ps 0 1
  let a := ctxBase j
  let bs := c.s.mem.bytes a 8192
  let c := { c with s := { c.s with dev := c.d.ceIn a 8192 } }
  match c.d.badWordsIn a 8192, c.d.refSwath with
  | _ :: _, _ => return (c.d.ueIn a 8192, .status stBadParam 24)
  | [], none => .error (stBadParam, 24)
  | [], some ref =>
    needP (c.d.ctxValid c.s.banks bs j ref) 0
    needRange c.ps 1 1 0 1
    needZero c.ps 3 1
    let now := (c.d.pos.enc[c.d.swaths[ref].channel].copies[0]).ext
    let asked := extPos (BitVec.ofNat 8 (pU c.ps 2 1)) (BitVec.ofNat 32 (pU c.ps 4 4))
    needP (decide (diff40 asked now ≤ 0x7FFFFFFF)) 4
    c.needRoom 4 noField
    needFree (c.d.armed.isNone && !c.d.jobActive j)
    let runs := (ctxSwaths bs).map fun s => (s, entryRun bs j s)
    let sw := c.d.switching runs
    let asap := pU c.ps 1 1 == 1
    let used := if asap then c.d.asapBoundary ref now asked sw else asked
    need (asap || decide (0 ≤ diff40 used now)) stTooLate noField
    need (asap || !sw.any fun x => tooNear 8 (c.d.ratioFor x.1 x.2) (c.d.switchPos used x.1) now) stTooLate noField
    let d := c.d.arm j used runs
    let wait := match d.armed with
      | some x => !x.waitAck.isEmpty
      | none => false
    return (d, if wait then .park (.arming j) else .ok (le4 used))

/-- JOB_SWITCH's row of Table 6.2. -/
def specJobSwitch : CmdSpec :=
  { opcode := 0x43, variant := 0, modes := [mPrint], role := atLeast rOperator, len := lenIs 8 }

/-- JOB_SWITCH. -/
def execJobSwitch (p : Packet) (s : State) : Out := onDev (cmdDev specJobSwitch jobSwitchCmd p) s

/-- The JOB_SWITCH that waits for acknowledgements is answered once all are in. -/
def Dev.wakeArming (d : Dev) : Dev :=
  match d.armed with
  | some a =>
    if a.waitAck.isEmpty then
      (d.ses.work.filter fun (e : WorkEntry) => e.park == some (.arming a.job)).foldl
        (fun d e => d.answer e.packet stOk noField (le4 a.boundary.toNat)) d
    else d
  | none => d

/-- A die is no longer waited for. -/
def Dev.ackDie (d : Dev) (f : Fin 7) : Dev :=
  ({ d with armed := d.armed.map fun a => { a with waitAck := a.waitAck.filter (· != f) } } : Dev).wakeArming

/-- A CTRL message from a die to the hub is sent: true when it has left, false when it waits for a credit (R29). -/
def Dev.sendUp (d : Dev) (f : Fin 7) (m : CtrlMsg) : Dev × Bool :=
  (d.modDie f fun x => x.sendCtrl true m, d.dies[f].ctrlCreditsUp != 0)

/-- The commit reaches a die once it has left the hub: acknowledged, or late when its own count has crossed the switch
position of a swath that the arming switches or lies fewer than 4 lines short of it (R207). -/
def Dev.jobCommit (d : Dev) (f : Fin 7) : Dev :=
  match d.armed with
  | none => d
  | some a =>
    if !a.waitAck.contains f || d.dies[f].ctrlWait.contains .commit then d else
    let mine := (fins 16).filter fun s => a.switching.contains s && (d.swathDies s).contains f
    let late := mine.filter fun s =>
      let w := d.swaths[s]
      match w.switch with
      | some x =>
        let c := (d.pos.enc[w.channel].copies[f.val + 1]'(by omega)).ext
        tooNear 4 (d.ratioFor s x.run) x.pos c
      | none => false
    match late with
    | s :: _ =>
      let r := d.sendUp f (.commitLate d.swaths[s].channel)
      if r.2 then r.1.detect (idDiverge d.swaths[s].channel.val) else r.1
    | [] =>
      let r := d.sendUp f .commitAck
      let d := mine.foldl (fun d s => (d.modSwath s fun w =>
        { w with gens := vmod w.gens ⟨f.val + 1, by omega⟩ fun g => { g with armed := true } }).refillSwath s) r.1
      if r.2 then d.ackDie f else d

/-- JOB_COMMIT. -/
def execJobCommit (die : Fin 7) (s : State) : Out := onDev (fun s => s.dev.jobCommit die) s

/-- COMMIT_ACK_TIMEOUT: TINE_LINK of the die, which is waited for no longer (R207; log 18). -/
def Dev.commitTimeout (d : Dev) (f : Fin 7) : Dev :=
  match d.armed with
  | some a => if a.waitAck.contains f then (d.detect (idDie f.val oTineLink)).ackDie f else d
  | none => d

/-- COMMIT_ACK_TIMEOUT. -/
def execCommitAckTimeout (die : Fin 7) (s : State) : Out := onDev (fun s => s.dev.commitTimeout die) s

/-! ## The switch (R203, R208, R213, R214) -/

/-- The last swath of the armed job has switched: it is active, JOB kind 1. -/
def Dev.activate (d : Dev) (a : Armed) : Dev :=
  let mine := fun (s : Fin 16) => a.swaths.contains s && d.swaths[s].job == a.job
  let d := { d with
    activeJob := some a.job, activeSwaths := a.swaths, armed := none
    activeEnded := (fins 16).filter fun s => mine s && d.swaths[s].ended
    activeLines := vallIdx (fun k _ => if mine (Fin.ofNat 16 k) then d.swaths[k % 16].linesFired else 0) d.activeLines }.event
      evJob 1 a.job (le4 a.boundary.toNat)
  match a.swaths with
  | s :: _ => d.settleLength s
  | [] => d

/-- A die records the count of a switch, with the hub's snapshot number (R35, R214). The last 16 are kept (DESIGN
CHOICE, log 34). -/
def LineGen.record (g : LineGen) (tag : Nat) (c snap : Word) : LineGen :=
  let l := g.records ++ [(tag, c, snap)]
  { g with swCount := c, records := l.drop (l.length - 16) }

/-- The present job of a swath ends at the position of an earlier switch, at a count (R208, R214). -/
def Dev.hubEnd (d : Dev) (s : Fin 16) (c : Word) (tag : Nat) : Dev :=
  let e := d.swaths[s].gens[0].epoch
  let d := d.modSwath s fun w => { w with
    endPos := none, state := if w.state = 2 then 1 else w.state
    gens := vmod w.gens 0 fun g => g.record tag c d.pos.snapNumber }
  let d := (d.endFeed s e 0xFFFFFFFF true).pruneRuns s
  d.settleActive.wakeJobEnd.wakeMode

/-- A swath switches on the hub at a count. -/
def Dev.hubSwitch (d : Dev) (s : Fin 16) (c : Word) : Dev :=
  let w := d.swaths[s]
  match w.switch with
  | none => d
  | some x =>
    let pattern := x.run.any fun r => r.pattern.isSome
    let gen := fun (e : Nat) => vmod w.gens 0 fun g => { (if pattern then g else g.record x.tag c d.pos.snapNumber) with
      epoch := e, armed := false, crossed := true
      pos := if x.run.isSome then (c - BitVec.ofNat 32 x.pos).toInt else g.pos }
    match x.run with
    | none =>
      let d := d.modSwath s fun w => { w with
        gens := gen w.gens[0].epoch
        state := if w.state = 2 then 1 else w.state }
      let d := (d.endFeed s w.gens[0].epoch 0xFFFFFFFF true).pruneRuns s
      d.settleActive.wakeJobEnd.wakeMode
    | some r =>
      let pat := r.pattern.isSome
      let d := d.modSwath s fun w => { w with
        gens := gen r.epoch
        state := if pat then 3 else 2
        job := if pat then w.job else r.job
        gearNum := r.gearNum, gearDen := r.gearDen, runs := r :: w.runs, linesFired := d.firedOf s r.epoch, firePoint := 0
        ended := false, endPos := none }
      let d := (d.refillSwath s).pruneRuns s
      match d.armed with
      | some a =>
        if a.toSwitch.contains s then
          let a := { a with toSwitch := a.toSwitch.filter (· != s) }
          if a.toSwitch.isEmpty then d.activate a else { d with armed := some a }
        else d
      | none => d

/-- A swath switches on a furrow die at the die's own count: on the die's ports the sets of the new job are in force; the
record of a job switch goes to the hub for R35 (R208, R214, R306). -/
def Dev.dieSwitch (d : Dev) (s : Fin 16) (k : Fin 8) (c : Word) (x : JobChange) : Dev :=
  let pattern := x.run.any fun r => r.pattern.isSome
  let d := match x.run with
    | some r =>
      if pattern then d else
      ((d.swathPorts s).filter fun gp => dieCopy gp == k).foldl (fun d gp => d.modPort gp fun p => { p with
        calSel := r.policy.calSet, waveSel := r.policy.waveSet, shareSel := r.policy.shareSet }) d
    | none => d
  let d := if pattern then d else d.tellHub k (.switchRecord s)
  d.modSwath s fun w => { w with gens := vmod w.gens k fun g =>
    { (if pattern then g else g.record x.tag c d.pos.snapNumber) with epoch := (x.run.map fun r => r.epoch).getD g.epoch } }

/-- The fire point of a printing swath: the line after the last one whose position its most upstream row has reached; it
never moves back (R247, R248, R268). -/
def Dev.advanceFire (d : Dev) (m : Banks) (s : Fin 16) : Dev :=
  match d.swaths[s].present with
  | none => d
  | some r =>
    let k := ((r.lp d.swaths[s].gens[0].pos - d.upstream m s r) / 256 + 1).toNat
    let k := match r.lines with
      | some n => min k n
      | none => k
    d.modSwath s fun w => { w with firePoint := max w.firePoint k }

/-- The count of a channel's copy on die `k` (0 the hub) has changed: switches at a forward crossing, and the fire
points. -/
def Dev.crossings (d : Dev) (m : Banks) (ch : Fin 4) (k : Fin 8) (old new : Word) : Dev :=
  (fins 16).foldl (fun d s =>
    let w := d.swaths[s]
    if w.channel ≠ ch || !w.defined then d else
    let d := if k = 0 then d.modSwath s fun w => { w with
        gens := vmod w.gens 0 fun g => { g with pos := g.pos + (new - old).toInt } } else d
    let passed := fun (pos : Nat) => crossesForward old new (BitVec.ofNat 32 pos)
    let d := match w.endPos with
      | some (p, tag) => if k = 0 && passed p then d.hubEnd s new tag else d
      | none => d
    let late := w.gens[k].late.filter fun (x : JobChange) => passed x.pos
    let d := (late.foldl (fun d x => d.dieSwitch s k new x) d).modSwath s fun w =>
      { w with gens := vmod w.gens k fun g => { g with late := g.late.filter fun (x : JobChange) => !passed x.pos } }
    let d := match w.switch with
      | some x =>
        if w.gens[k].armed && passed x.pos then
          if k = 0 then d.hubSwitch s new
          else (d.dieSwitch s k new x).modSwath s fun w =>
            { w with gens := vmod w.gens k fun g => { g with armed := false, crossed := true } }
        else d
      | none => d
    if k = 0 then d.advanceFire m s else d) d

/-- The web has turned back on a die's copy of a channel: tokens queued on its ports are discarded (R268, R328). -/
def Dev.discardTokens (d : Dev) (ch : Fin 4) (k : Fin 8) : Dev :=
  (fins 16).foldl (fun d s =>
    if d.swaths[s].channel = ch && d.swaths[s].defined && (d.swathPorts s).any (fun gp => dieCopy gp == k) then
      let d := ((d.swathPorts s).filter fun gp => dieCopy gp == k).foldl (fun d gp => d.modPort gp fun p =>
        let back := fun (r : Row) => { r with
          queue := r.queue.filter fun (t : Token) => t.started || t.blanked
          nextLine := match r.queue.find? fun (t : Token) => !t.started && !t.blanked with
            | some t => t.line
            | none => r.nextLine
          epoch := match r.queue.find? fun (t : Token) => !t.started && !t.blanked with
            | some t => t.epoch
            | none => r.epoch }
        { p with rowA := back p.rowA, rowB := back p.rowB }) d
      if d.swaths[s].state = 2 || d.swaths[s].state = 3 then d.modSwath s fun w => { w with resumed := true } else d
    else d) d

/-- The web runs forward again: rows queue the lines after their marks. -/
def Dev.resumeTokens (d : Dev) (ch : Fin 4) : Dev :=
  (fins 16).foldl (fun d s => if d.swaths[s].channel = ch && d.swaths[s].defined then d.refillSwath s else d) d

/-! ## JOB_CANCEL, JOB_STATUS -/

/-- JOB_CANCEL variant 0: the armed job is disarmed unless a swath has switched (R157). -/
def jobDisarmCmd (c : Ctx) : Chk (Dev × Finish) := do
  let j := pU c.ps 0 1
  match c.d.armed with
  | some a =>
    needP (a.job = j) 0
    need (a.toSwitch.length = a.swaths.length) stTooLate noField
    return (c.d.disarmKeep, .ok [])
  | none => .error (stBadParam, 24)

/-- JOB_CANCEL's rows of Table 6.2. -/
def specJobCancel (v : Byte) : CmdSpec :=
  { opcode := 0x44, variant := v, modes := [mPrint], role := atLeast rOperator, len := lenIs 1 }

/-- JOB_CANCEL variant 0. -/
def execJobCancelDisarm (p : Packet) (s : State) : Out := onDev (cmdDev (specJobCancel 0) jobDisarmCmd p) s

/-- A job prints on some swath. -/
def Dev.printing (d : Dev) (j : Nat) : Bool := (fins 16).any fun s => d.swaths[s].state == 2 && d.swaths[s].job == j

/-- JOB_CANCEL variant 1: the job ends at the next line boundary of each swath (R157). -/
def jobEndCmd (c : Ctx) : Chk (Dev × Finish) := do
  let j := pU c.ps 0 1
  needP (c.d.printing j) 0
  let d := match c.d.armed with
    | some a => if a.job = j then c.d.disarmKeep else c.d
    | none => c.d
  let d := (fins 16).foldl (fun d k =>
    if d.swaths[k].state = 2 && d.swaths[k].job = j then d.endSwath k else d) d
  return (d, if d.printing j then .park (.jobEnd j) else .ok [])

/-- JOB_CANCEL variant 1. -/
def execJobCancelEnd (p : Packet) (s : State) : Out := onDev (cmdDev (specJobCancel 1) jobEndCmd p) s

/-- Lines fired by the active job on a swath, whether or not the swath still prints it. -/
def Dev.linesOf (d : Dev) (s : Fin 16) : Nat := if d.activeJob.isSome then d.activeLines[s] else 0

/-- JOB_STATUS (Table 6.12). -/
def jobStatusCmd (c : Ctx) : Chk (Dev × Finish) :=
  let a := match c.d.armed with
    | some a => leBytes 2 a.job ++ le4 a.boundary.toNat
    | none => leBytes 2 0xFFFF ++ le4 0
  return (c.d, .ok (leBytes 2 (c.d.activeJob.getD 0xFFFF) ++ a ++ (fins 16).flatMap fun s => le4 (c.d.linesOf s)))

/-- JOB_STATUS's row of Table 6.2. -/
def specJobStatus : CmdSpec := { opcode := 0x45, variant := 0, modes := setA, role := atLeast rObserver, len := lenIs 0 }

/-- JOB_STATUS. -/
def execJobStatus (p : Packet) (s : State) : Out := onDev (cmdDev specJobStatus jobStatusCmd p) s

end Sys2Proof.Machine
end

