-- ==== Sys2Proof/Machine/Heads.lean ====
section
/-! DEFINITION. Head ports: PORT_CONFIG, PORT_ENABLE, WAVE_WRITE, HEAT_CONFIG, PULSE_AUX, PORT_STATUS, the direct
registers of a port, and its temperature (R158 to R161, R244, R271 to R284, R290). -/

namespace Sys2Proof.Machine

/-- A port of the variant (R6). -/
def Ctx.needPort (c : Ctx) : Chk (Fin 112) := do
  needRange c.ps 0 1 0 111
  needP (c.d.hasPort (pU c.ps 0 1)) 0
  return Fin.ofNat 112 (pU c.ps 0 1)

/-- A port's Tmin is computed again (R260). -/
def Dev.newTmin (d : Dev) (m : Banks) (gp : Fin 112) : Dev :=
  (d.modPort gp fun p => { p with tmin := (d.sound m).tminOf gp.val p }).refreshRates

/-! ## PORT_CONFIG, PORT_ENABLE -/

/-- PORT_CONFIG (Table 6.13, R158, R244). -/
def portConfigCmd (c : Ctx) : Chk (Dev × Finish) := do
  let gp ← c.needPort
  let p := c.d.ports[gp]
  needRange c.ps 1 1 0 1
  needRange c.ps 2 2 64 10240
  needP (pU c.ps 2 2 % 64 == 0) 2
  needRange c.ps 4 1 1 64
  needP (pU c.ps 4 1 % p.nBanks == 0) 4
  needP (decide (pU c.ps 5 1 < pU c.ps 4 1)) 5
  needRange c.ps 6 1 1 3
  needZero c.ps 7 1
  needRange c.ps 8 2 0 1000
  c.needRoom 8 noField
  needFree (!c.d.portInUse gp.val && !p.on)
  let d := c.d.modPort gp fun p =>
    { p with
      group := pU c.ps 1 1 == 1, blocks := BitVec.ofNat 8 (pU c.ps 2 2 / 64)
      addrM1 := BitVec.ofNat 6 (pU c.ps 4 1 - 1), rotStep := BitVec.ofNat 6 (pU c.ps 5 1)
      phases := BitVec.ofNat 2 (pU c.ps 6 1), slotGap := BitVec.ofNat 10 (pU c.ps 8 2)
      stagger := BitVec.ofNat 16 (pU c.ps 10 2) }
  let d := d.newTmin c.s.mem gp
  return (d, .ok (le4 d.ports[gp].tmin ++ le4 (d.portHz d.ports[gp])))

/-- PORT_CONFIG's row of Table 6.2. -/
def specPortConfig : CmdSpec :=
  { opcode := 0x50, variant := 0, modes := setO, role := atLeast rService, len := lenIs 12 }

/-- PORT_CONFIG. -/
def execPortConfig (p : Packet) (s : State) : Out := onDev (cmdDev specPortConfig portConfigCmd p) s

/-- The port's swath prints a job or a pattern. -/
def Dev.portPrints (d : Dev) (gp : Fin 112) : Bool :=
  match d.swathOf gp.val with
  | some s => d.swaths[s].state == 2 || d.swaths[s].state == 3
  | none => false

/-- The fire queue of a port is discarded; while its swath prints it fires again from the first line whose commit moment
follows and whose data is complete (R96, R159, R218). -/
def Dev.startOver (d : Dev) (gp : Fin 112) : Dev :=
  let wait := d.portPrints gp
  (d.modPort gp fun p => { p with
    rowA := { p.rowA with waitData := wait }
    rowB := { p.rowB with waitData := wait } }).discardQueue gp

/-- A port is enabled: HPEN rises, its temperature is formed afresh, its lines count from 0 (R159, R277, R279). -/
def Dev.portOn (d : Dev) (gp : Fin 112) : Dev :=
  ((d.setHpen gp true).modPort gp fun p =>
    { p with
      enable := Tv.mk3 1, lines := 0, idVerified := true
      heat := { p.heat with recent := [], lastBad := none, fresh := true } }).startOver gp

/-- PORT_ENABLE (R159, R244, R276, R296). Enable 0 also lowers an HPEN that head discovery has left high. -/
def portEnableCmd (c : Ctx) : Chk (Dev × Finish) := do
  let gp ← c.needPort
  let p := c.d.ports[gp]
  let on := pU c.ps 1 1 == 1
  needP (!on || (p.heat.tsnValid && p.configured)) 0
  needRange c.ps 1 1 0 1
  if on == p.on && (on || !p.powered) then return (c.d, .ok [])
  else if on then return (c.d.portOn gp, .ok [])
  else
    needFree (!c.d.portInUse gp.val && p.scan.state == 0)
    return (c.d.portOff gp, .ok [])

/-- PORT_ENABLE's row of Table 6.2. -/
def specPortEnable : CmdSpec :=
  { opcode := 0x51, variant := 0, modes := setO, role := atLeast rOperator, len := lenIs 2 }

/-- PORT_ENABLE. -/
def execPortEnable (p : Packet) (s : State) : Out := onDev (cmdDev specPortEnable portEnableCmd p) s

/-! ## WAVE_WRITE -/

/-- A wave set is selected by an armed or active job (R140). -/
def Dev.waveInUse (d : Dev) (gp set : Nat) : Bool :=
  (d.portRuns gp).any fun r => r.pattern.isNone && r.policy.waveSet.val == set

/-- Every entry's Pulses lies within 1 to 3; the first that does not is at fault (Table 6.14, R273). -/
def needPulses (ps : List Byte) (off : Nat) : Nat → Chk Unit
  | 0 => .ok ()
  | n + 1 => do
    needRange ps (off + 6) 2 1 3
    needPulses ps (off + 8) n

/-- WAVE_WRITE (R273, R274). -/
def waveWriteCmd (c : Ctx) : Chk (Dev × Banks × Finish) := do
  let gp ← c.needPort
  let set := pU c.ps 1 1
  let first := pU c.ps 2 1
  let n := pU c.ps 3 1
  needRange c.ps 1 1 0 3
  needRange c.ps 2 1 0 63
  needRange c.ps 3 1 1 64
  needPulses c.ps 4 n
  need (first + n ≤ 64) stLengthExceeds 27
  needFree (!c.d.waveInUse gp.val set)
  let r := putRange c.d c.s.mem (waveAddr gp.val set first) (c.ps.drop 4)
  needFree (!(c.d.portPrints gp && decide (c.d.ports[gp].tmin < r.2.tminOf gp.val c.d.ports[gp])))
  return (r.1.newTmin r.2 gp, r.2, .ok [])

/-- WAVE_WRITE's row of Table 6.2. -/
def specWaveWrite : CmdSpec :=
  { opcode := 0x52, variant := 0, modes := setO, role := atLeast rService
    len := fun ps => decide (4 ≤ ps.length) && ps.length == 4 + 8 * pU ps 3 1 }

/-- WAVE_WRITE. -/
def execWaveWrite (p : Packet) (s : State) : Out := onMem (cmdMem specWaveWrite waveWriteCmd p) s

/-! ## HEAT_CONFIG, PULSE_AUX, PORT_STATUS -/

/-- HEAT_CONFIG (Table 6.15, R160). -/
def heatConfigCmd (c : Ctx) : Chk (Dev × Finish) := do
  let gp ← c.needPort
  needRange c.ps 1 1 0 2
  needRangeI c.ps 2 2 (-400) 1250
  needRangeI c.ps 4 2 (-400) 1250
  needRangeI c.ps 6 2 (-400) 1250
  needP (decide (pI c.ps 4 2 < pI c.ps 6 2)) 6
  needRangeI c.ps 8 2 (-400) 1250
  needP (decide (pI c.ps 6 2 < pI c.ps 8 2)) 8
  needRange c.ps 10 2 0 200
  let d := c.d.modPort gp fun p =>
    { p with heat := { p.heat with
      hotAction := BitVec.ofNat 2 (pU c.ps 1 1), bandBase := pI c.ps 2 2, warm := pI c.ps 4 2
      hotTh := pI c.ps 6 2, critTh := pI c.ps 8 2, hyst := pU c.ps 10 2, fresh := true } }
  return (d.refreshRates, .ok [])

/-- HEAT_CONFIG's row of Table 6.2. -/
def specHeatConfig : CmdSpec :=
  { opcode := 0x53, variant := 0, modes := setO, role := atLeast rService, len := lenIs 12 }

/-- HEAT_CONFIG. -/
def execHeatConfig (p : Packet) (s : State) : Out := onDev (cmdDev specHeatConfig heatConfigCmd p) s

/-- PULSE_AUX (Table 6.16, R290). -/
def pulseAuxCmd (c : Ctx) : Chk (Dev × Finish) := do
  let gp ← c.needPort
  needRange c.ps 1 1 0 1
  needRange c.ps 2 2 1 1000
  needRange c.ps 4 1 0 7
  needZero c.ps 5 1
  needRange c.ps 6 2 20 1000
  return (c.d.modPort gp fun p =>
    { p with heat := { p.heat with
      keepWarm := pU c.ps 1 1 == 1, keepWarmNs := BitVec.ofNat 10 (pU c.ps 2 2)
      spitPattern := BitVec.ofNat 3 (pU c.ps 4 1), headlandMinUs := BitVec.ofNat 10 (pU c.ps 6 2) } }, .ok [])

/-- PULSE_AUX's row of Table 6.2. -/
def specPulseAux : CmdSpec :=
  { opcode := 0x54, variant := 0, modes := setO, role := atLeast rService, len := lenIs 8 }

/-- PULSE_AUX. -/
def execPulseAux (p : Packet) (s : State) : Out := onDev (cmdDev specPulseAux pulseAuxCmd p) s

/-- PORT_STATUS (Table 6.17). -/
def portStatusCmd (c : Ctx) : Chk (Dev × Finish) := do
  let gp ← c.needPort
  let p := c.d.ports[gp]
  return (c.d, .ok (leBytes 1 (c.d.portState gp) ++ leBytes 1 p.heat.band.toNat ++ leBytes 2 (sfld 0 16 p.heat.temp)
    ++ le4 p.tmin ++ le4 p.underruns ++ le4 p.drops ++ leBytes 8 (if p.headValid then p.headId.toNat else 0)
    ++ le4 p.lines.toNat))

/-- PORT_STATUS's row of Table 6.2. -/
def specPortStatus : CmdSpec :=
  { opcode := 0x55, variant := 0, modes := setA, role := atLeast rObserver, len := lenIs 1 }

/-- PORT_STATUS. -/
def execPortStatus (p : Packet) (s : State) : Out := onDev (cmdDev specPortStatus portStatusCmd p) s

/-! ## Direct registers of a port. These are the effects of the writes; who may write is judged with the others. -/

/-- PRT_GEOM takes a value, or drops it while the port is enabled (R244). -/
def Dev.setGeom (d : Dev) (m : Banks) (gp : Fin 112) (v : Nat) : Dev :=
  if d.ports[gp].on then d.prtWrDrop gp
  else (d.modPort gp fun p =>
    { p with rows2 := getB 0 v, staggered := getB 1 v, banks := BitVec.ofNat 2 (getF 2 2 v) }).newTmin m gp

/-- PLS_HEATCTL takes a value; TsnValid keeps its own while the port is enabled (R276, Table 11.5). -/
def Dev.setHeatctl (d : Dev) (gp : Fin 112) (v : Nat) : Dev :=
  let p := d.ports[gp]
  let pct := getF 0 8 v
  let kw := getF 8 10 v
  let spit := getF 18 8 v
  let valid := getB 31 v
  let d := d.modPort gp fun p =>
    { p with heat := { p.heat with
      hotRatePct := BitVec.ofNat 8 (if 25 ≤ pct ∧ pct ≤ 100 then pct else 80)
      kwPeriodUs := BitVec.ofNat 10 (if 10 ≤ kw ∧ kw ≤ 1000 then kw else 100)
      spitPeriodMs := BitVec.ofNat 8 (if spit = 0 then 1 else spit)
      tsnValid := if p.on then p.heat.tsnValid else valid } }
  let d := if p.on && valid != p.heat.tsnValid then d.prtWrDrop gp else d
  d.refreshRates

/-- PLS_TSNTAB takes an entry, or drops it while the port is enabled (R276). -/
def Dev.setTsntab (d : Dev) (gp : Fin 112) (i : Fin 17) (v : Nat) : Dev :=
  if d.ports[gp].on then d.prtWrDrop gp
  else d.modPort gp fun p =>
    { p with heat := { p.heat with tsnTab := p.heat.tsnTab.set i (BitVec.ofNat 16 v) } }

/-! ## Resets of ports (R96 to R98) -/

/-- A port is reset: its fire queue is discarded, a sensor fault is over and T is formed afresh, a CRIT that has gone is
over (R96, R278, R284). -/
def Dev.portReset (d : Dev) (gp : Fin 112) : Dev :=
  let d := (d.modPort gp fun p =>
    { p with
      resetting := false
      heat := if p.heat.sensorFault then { p.heat with sensorFault := false, recent := [], lastBad := none }
        else p.heat }).startOver gp
  if d.ports[gp].heat.crit then d else d.causeGone (idTempCrit gp.val)

/-- No row of a unit's ports is in a sequence. -/
def Dev.unitStill (d : Dev) (u : FaultUnit) : Bool :=
  (d.unitPorts u).all fun gp => !d.ports[gp].rowA.firing && !d.ports[gp].rowB.firing

/-- A port or swath reset begins: a scan ends at once, no line starts any more (R96, R297). -/
def Dev.beginReset (d : Dev) (u : FaultUnit) : Dev :=
  let d := (d.unitPorts u).foldl Dev.abortScan d
  (d.unitPorts u).foldl (fun d gp => d.modPort gp fun p => { p with resetting := true }) d

/-- It ends once the present lines have ended: its ports start over, the unit leaves CONTAIN. -/
def Dev.endReset (d : Dev) (u : FaultUnit) : Dev := ((d.unitPorts u).foldl Dev.portReset d).leaveContain u

/-- The copy index of a furrow die. -/
def copyOf (f : Fin 7) : Fin 8 := ⟨f.val + 1, by omega⟩

/-- The reset of a die ends: its ports start over, its unit leaves CONTAIN and the command is answered (R96, R97, R145). -/
def Dev.dieDone (d : Dev) (f : Fin 7) : Dev :=
  if d.dies[f].resetting then
    let d := (d.modDie f fun x => { x with resetting := false }).endReset (.die f)
    (d.ses.work.filter fun (w : WorkEntry) => w.park == some (.dieReset f)).foldl
      (fun d w => d.answer w.packet stOk noField []) d
  else d

/-- Some copy of a die is still being brought into agreement. -/
def Dev.dieSyncing (d : Dev) (f : Fin 7) : Bool := (fins 4).any fun ch => d.pos.enc[ch].copies[copyOf f].syncing

/-- A die whose copies all agree and whose rows have ended is ready for use. -/
def Dev.dieReady (d : Dev) (f : Fin 7) : Dev := if d.dieSyncing f || !d.unitStill (.die f) then d else d.dieDone f

/-- Resets that waited for rows to end complete: the commands are answered (R96). -/
def Dev.wakeResets (d : Dev) : Dev :=
  let d := d.ses.work.foldl (fun d (e : WorkEntry) => match e.park with
    | some (.unitReset u) => if d.unitStill u then (d.endReset u).answer e.packet stOk noField [] else d
    | _ => d) d
  let d := (d.sys.resets.foldl (fun d u => if d.unitStill u then d.endReset u else d) d).modSys fun x =>
    { x with resets := x.resets.filter fun u => !d.unitStill u }
  (fins 7).foldl Dev.dieReady d

/-! ## Temperature -/

/-- A conversion's temperature, in 0.1 °C (R275). -/
def Heat.convert (h : Heat) (code : Nat) : Int :=
  let e := fun (i : Nat) => (h.tsnTab.toList.getD i 0).toInt
  let i := code / 1024
  roundAway ((e i : Rat) + ((code % 1024 : Nat) : Rat) * ((e (i + 1) - e i : Int) : Rat) / 1024)

/-- The mean of the last valid values (R277). -/
def meanOf (xs : List Int) : Int := roundAway (((xs.foldl (· + ·) 0 : Int) : Rat) / ((max xs.length 1 : Nat) : Rat))

/-- The band of a temperature, without hysteresis (R279). -/
def Heat.bandAt (h : Heat) (t : Int) : Nat := (max 0 (min 15 ((t - h.bandBase) / 40))).toNat

/-- The band after a conversion: it rises at once, it falls 0.5 °C below its lower edge (R279). -/
def Heat.nextBand (h : Heat) (t : Int) : Nat :=
  let b := h.bandAt t
  let now := h.band.toNat
  if h.fresh || now < b then b
  else if t ≤ h.bandBase + 40 * now - 5 then b
  else now

/-- Data of the HEAT events (Table 6.28). -/
def heatData (t : Int) (band : Nat) : List Byte := leBytes 2 (sfld 0 16 t) ++ leBytes 1 band

/-- A row in no sequence takes the port's band (R279). -/
def Row.takeBand (r : Row) (b : BitVec 4) : Row := if r.firing then r else { r with band := b }

/-- Rows of a port are in a sequence. -/
def Port.firing (p : Port) : Bool := p.rowA.firing || p.rowB.firing

/-- The rows of a port that entered HOT under HOT_ACTION 2 have ended: it is contained, even if it has left HOT since
(R283). -/
def Dev.hotBoundary (d : Dev) (gp : Fin 112) : Dev :=
  let p := d.ports[gp]
  if p.heat.hotDue && !p.firing then
    let d := (d.modPort gp fun p => { p with heat := { p.heat with hotDue := false } }).detectHot gp.val
    if d.ports[gp].heat.hot then d else (d.endHotCause (idPortFlt gp.val)).checkOvf
  else d

/-- Rows of a port have ended their sequences, at a line boundary or before it: what waited for that follows. -/
def Dev.afterStop (d : Dev) (gp : Fin 112) : Dev :=
  let d := d.hotBoundary gp
  (match d.swathOf gp.val with
    | some s => d.afterBoundary s
    | none => d).wakeResets

/-- TEMP_CRIT is confirmed, if its cause is not present already (R284). -/
def Dev.tempCrit (d : Dev) (gp : Fin 112) : Dev :=
  if (d.src (idTempCrit gp.val)).cause then d else (d.detect (idTempCrit gp.val)).afterStop gp

/-- An out-of-range conversion; the second in a row is a sensor fault (R278). -/
def Dev.badConversion (d : Dev) (gp : Fin 112) (isOpen : Bool) : Dev :=
  let h := d.ports[gp].heat
  let fault := h.lastBad.isSome && !h.sensorFault
  let d := d.modPort gp fun p =>
    { p with heat := { p.heat with
      lastBad := some isOpen
      sensorFault := h.sensorFault || fault
      temp := if fault then (if isOpen then 2000 else -400) else h.temp } }
  if fault then d.tempCrit gp else d

/-- The port enters HOT: HEAT kind 1; a burst ends with its present line under HOT_ACTION 0, containment follows under
HOT_ACTION 2 once each row has completed its present line (R281 to R283). -/
def Dev.enterHot (d : Dev) (gp : Fin 112) : Dev :=
  let p := d.ports[gp]
  let d := d.event evHeat 1 gp.val (heatData p.heat.temp p.heat.band.toNat)
  if p.heat.hotAction = 0 then d.stopPiece gp fun x => x.lineNs
  else if p.heat.hotAction = 2 then
    if p.firing then d.modPort gp fun p => { p with heat := { p.heat with hotDue := true } } else d.detectHot gp.val
  else d

/-- The port leaves HOT: HEAT kind 2. -/
def Dev.leaveHot (d : Dev) (gp : Fin 112) : Dev :=
  let h := d.ports[gp].heat
  let d := d.event evHeat 2 gp.val (heatData h.temp h.band.toNat)
  if (d.src (idPortFlt gp.val)).hotCause then (d.endHotCause (idPortFlt gp.val)).checkOvf else d

/-- A valid conversion: temperature, band, thresholds (R277 to R284). A sensor fault keeps Temp fixed. Two valid conversions
are consecutive for Crit also when an out-of-range one, or a time in which the port was disabled, lies between them (DESIGN
CHOICE, log 74). -/
def Dev.goodConversion (d : Dev) (gp : Fin 112) (code : Nat) : Dev :=
  let h := d.ports[gp].heat
  let tc := h.convert code
  let recent := (tc :: h.recent).take 8
  let crit := decide (h.critTh ≤ tc)
  let d := d.modPort gp fun p => { p with heat := { p.heat with lastBad := none, recent, crit } }
  let d := if h.sensorFault then d else
    let t := meanOf recent
    let band := BitVec.ofNat 4 (h.nextBand t)
    let warm := if h.fresh then decide (t < h.warm) else if h.belowWarm then decide (t < h.warm) else decide (t < h.warm - 5)
    let hot := if h.fresh || !h.hot then decide (h.hotTh ≤ t) else decide (h.hotTh - h.hyst ≤ t)
    let d := d.modPort gp fun p =>
      { p with
        heat := { p.heat with temp := t, band, belowWarm := warm, hot, fresh := false }
        rowA := p.rowA.takeBand band, rowB := p.rowB.takeBand band }
    let d := if band = h.band then d else d.event evHeat 0 gp.val (heatData t band.toNat)
    let d := if hot && !h.hot then d.enterHot gp else if h.hot && !hot then d.leaveHot gp else d
    d.refreshRates
  if crit && h.crit then d.tempCrit gp else d

/-- TSN_CONVERSION: a conversion of an enabled port (R275). -/
def Dev.tsnConversion (d : Dev) (gp : Fin 112) (code : BitVec 14) : Dev :=
  if !d.ports[gp].on || d.sys.held || d.mode = mFallow || !d.hasPort gp.val then d else
  let d := d.modPort gp fun p => { p with heat := { p.heat with code } }
  if 15292 ≤ code.toNat then d.badConversion gp true
  else if code.toNat ≤ 64 then d.badConversion gp false
  else d.goodConversion gp code.toNat

/-- TSN_CONVERSION. -/
def execTsnConversion (gp : Fin 112) (code : BitVec 14) (s : State) : Out :=
  onDev (fun s => s.dev.tsnConversion gp code) s

end Sys2Proof.Machine
end

