-- ==== Sys2Proof/Machine/Firing.lean ====
section
/-! DEFINITION. The firing path: alignment, share masks, Gleaner, pulses, the prediction of a line's start, commits,
fire windows, underruns and missed lines (R244 to R269). -/

namespace Sys2Proof.Machine

/-! ## Stages 2 to 6 on one row -/

/-- The other row. -/
def otherRow : RowId → RowId
  | .a => .b
  | .b => .a

/-- The levels of a row: row A holds the first Nr nozzles (R230, R244). -/
def rowLevels (p : Port) (r : RowId) (xs : List Nat) : List Nat := (xs.drop (rowIndex r * p.nr)).take p.nr

/-- Stage 3's shift: position j takes the level of j − Column (R249). -/
def shiftRow (column : Int) (xs : List Nat) : List Nat :=
  let a := xs.toArray
  (List.range xs.length).map fun j =>
    let i : Int := (j : Int) - column
    if 0 ≤ i ∧ i < xs.length then a.getD i.toNat 0 else 0

/-- Stage 3's blend. `low` and `high` say whether the swath has a port on that side (R249). -/
def blendRow (blend : Nat) (low high : Bool) (xs : List Nat) : List Nat :=
  let nr := xs.length
  xs.mapIdx fun j v =>
    if low && decide (j < 64) && !blend.testBit j then 0
    else if high && decide (64 < nr) && decide (nr - 64 ≤ j) && blend.testBit (j - (nr - 64)) then 0
    else v

/-- Stage 4: a nozzle's turn (R250). -/
def shareRow (x : List Byte × Nat × Nat × Nat × Nat) (line : Nat) (r : RowId) (xs : List Nat) : List Nat :=
  if x.2.1 = 1 then xs else
  let index := match r with
    | .a => x.2.2.1
    | .b => x.2.2.2.1
  xs.mapIdx fun j v => if sharePattern x.1 ((line + j * x.2.2.2.2) % 64) = index then v else 0

/-- What the Gleaner does with a masked nozzle's level. -/
inductive Hide where
  | gone | partner | neighbour
  deriving DecidableEq, Repr

/-- The method of a masked nozzle: by the job's policy and its map byte (R252). A partner that is unavailable falls
back to the neighbour. -/
def hideOf (p : Port) (policy : Nat) (map : Array Byte) (r : RowId) (j : Nat) : Hide :=
  let b := (map.getD (rowIndex r * p.nr + j) 0).toNat
  let m := if policy = 1 then Hide.gone
    else match getF 5 2 b with
      | 1 => .partner
      | 2 => .neighbour
      | 0 => if policy = 2 then .neighbour else .gone
      | _ => .gone
  let partnerOk := p.rows2 && !p.staggered && !(map.getD (rowIndex (otherRow r) * p.nr + j) 0).getLsbD 7
  if m = .partner && !partnerOk then .neighbour else m

/-- A nozzle of a row is masked. -/
def maskedAt (p : Port) (map : Array Byte) (r : RowId) (j : Nat) : Bool := (map.getD (rowIndex r * p.nr + j) 0).getLsbD 7

/-- The neighbour that takes a masked nozzle's level: left on even lines, right on odd ones, else the other (R252). -/
def hideTarget (p : Port) (map : Array Byte) (r : RowId) (line j : Nat) : Option Nat :=
  let left := if 0 < j && !maskedAt p map r (j - 1) then some (j - 1) else none
  let right := if j + 1 < p.nr && !maskedAt p map r (j + 1) then some (j + 1) else none
  if line % 2 = 0 then left <|> right else right <|> left

/-- Stage 5 on one row: its levels, the other row's, and how many non-zero levels were lost (R252). -/
def gleanRow (p : Port) (policy : Nat) (map : Array Byte) (line : Nat) (r : RowId) (own other : List Nat) :
    List Nat × Nat :=
  let a := own.toArray
  let b := other.toArray
  let gives := fun (m j : Nat) =>
    maskedAt p map r m && hideOf p policy map r m == .neighbour && hideTarget p map r line m == some j
  let out := (List.range own.length).map fun j =>
    if maskedAt p map r j then 0 else
    let v := a.getD j 0
    let v := if p.rows2 && maskedAt p map (otherRow r) j && hideOf p policy map (otherRow r) j == .partner
      then max v (b.getD j 0) else v
    let l := if 0 < j && gives (j - 1) j then a.getD (j - 1) 0 else 0
    let g := if gives (j + 1) j then a.getD (j + 1) 0 else 0
    min 3 (v + l + g)
  let lost := (List.range own.length).filter fun j =>
    maskedAt p map r j && hideOf p policy map r j == .neighbour && (hideTarget p map r line j).isNone
      && a.getD j 0 != 0
  (out, lost.length)

/-- Stage 6: how many phases a level fires (R254). -/
def phasesOf (m : Banks) (gp : Nat) (p : Port) (set : Nat) (band level : Nat) : Nat :=
  if level = 0 then 0 else min (m.wave gp set level band).2.2.2 p.phases.toNat

/-- A pattern's level of a nozzle (Table 10.7). -/
def patternLevel (pat : Nat) (nr : Nat) (r : RowId) (l j : Nat) : Nat :=
  let on := match pat, r with
    | 0, .a => decide (l % 128 < 64) && l / 4 % 16 == j % 16
    | 0, .b => decide (64 ≤ l % 128) && l / 4 % 16 == j % 16
    | 1, .a => (decide (j < 64) && j == l % 64) || (decide (nr ≤ j + 64) && j + l % 64 + 1 == nr)
    | 1, .b => false
    | 2, .a => l % 16 == 0
    | 2, .b => l % 16 == 8
    | _, .a => (j + l) % 64 == 0
    | _, .b => j % 64 == l % 64
  if on then 3 else 0

/-- A line's data in the line buffer is complete on a port; a pattern needs none (R245). -/
def Dev.lineComplete (d : Dev) (gp : Fin 112) (r : Run) (line : Nat) : Bool :=
  r.pattern.isSome || d.ports[gp].slots.any fun (x : LineSlot) => x.epoch == r.epoch && x.line == line && x.complete

/-- The map bytes of a port. -/
def Banks.map (m : Banks) (gp n : Nat) : Array Byte := (m.bytes (mapAddr gp 0) n).toArray

/-- Stages 3 to 5 of one row-line: level of each nozzle of the row, lost levels, and whether the line has dots. -/
def Dev.rowLine (d : Dev) (m : Banks) (s : Fin 16) (gp : Fin 112) (row : RowId) (r : Run) (line : Nat) :
    List Nat × Nat × Bool :=
  let p := d.ports[gp]
  let cal := m.cal gp.val (r.calSet p).val
  let ports := d.swathPorts s
  let low := ports.head? != some gp
  let high := ports.getLast? != some gp
  match r.pattern with
  | some pat =>
    let xs := (List.range p.nr).map (patternLevel pat.toNat p.nr row line)
    let xs := shiftRow cal.1 xs
    let xs := if pat = 1 then xs else blendRow cal.2.2.2 low high xs
    (xs, 0, xs.any (· != 0))
  | none =>
    let all := p.levels (m.bytes (lineAddr gp.val line) (p.nozzles / 4))
    let share := m.share gp.val r.policy.shareSet.val
    let stage4 := fun (k : RowId) =>
      shareRow share line k (blendRow cal.2.2.2 low high (shiftRow cal.1 (rowLevels p k all)))
    let map := m.map gp.val p.nozzles
    let g := gleanRow p r.policy.hidePolicy map line row (stage4 row) (if p.rows2 then stage4 (otherRow row) else [])
    (g.1, g.2, all.any (· != 0))

/-- The run of a port's swath with an epoch, as the port's die holds it. -/
def Dev.runOf (d : Dev) (gp : Fin 112) (epoch : Nat) : Option (Fin 16 × Run) :=
  match d.swathOf gp.val with
  | some s => ((d.swaths[s].dieRuns (dieCopy gp)).find? fun (r : Run) => r.epoch == epoch).map fun r => (s, r)
  | none => none

/-- The first token that `p` picks is changed. -/
def modToken (p : Token → Bool) (f : Token → Token) : List Token → List Token
  | [] => []
  | t :: ts => if p t then f t :: ts else t :: modToken p f ts

/-- A token ready for stages 2 to 5: not yet processed nor committed, its data complete. -/
def Dev.tokenReady (d : Dev) (gp : Fin 112) (t : Token) : Bool :=
  t.processed.isNone && t.start.isNone && (match d.runOf gp t.epoch with
    | some (_, r) => d.lineComplete gp r t.line
    | none => false)

/-- What stages 2 to 5 read of a line: its data, the port's map, its share set and its calibration set, as address and
number of bytes; of a pattern the calibration set alone. -/
def Dev.lineReads (d : Dev) (gp : Fin 112) (r : Run) (line : Nat) : List (Nat × Nat) :=
  let p := d.ports[gp]
  (calAddr gp.val (r.calSet p).val, 20) :: if r.pattern.isSome then [] else
    [(lineAddr gp.val line, p.nozzles / 4), (mapAddr gp.val 0, p.nozzles), (shareAddr gp.val r.policy.shareSet.val, 19)]

/-- ROW_LINE_PROCESS: the first token that is ready goes through stages 2 to 5. A line that holds a word in error counts
as incomplete (R417). -/
def Dev.rowProcess (d : Dev) (m : Banks) (gp : Fin 112) (row : RowId) : Dev :=
  let p := d.ports[gp]
  match (p.row row).queue.find? (d.tokenReady gp) with
  | none => d
  | some t =>
  match d.runOf gp t.epoch with
  | none => d
  | some (s, r) =>
    let bad := r.pattern.isNone && !(d.badWordsIn (lineAddr gp.val t.line) (p.nozzles / 4)).isEmpty
    let d := (d.lineReads gp r t.line).foldl (fun d x => d.ueIn x.1 x.2) d
    if bad then
      d.modPort gp fun p => { p with
        slots := p.slots.map fun x => if x.epoch = r.epoch && x.line = t.line then { x with complete := false } else x }
    else
      let x := d.rowLine m s gp row r t.line
      (d.modPort gp fun p => { p with lost := min 0xFFFFFFFF (p.lost + x.2.1) }).modRow gp row fun q => { q with
        queue := modToken (d.tokenReady gp) (fun t => { t with processed := some x.1, dots := x.2.2 }) q.queue }

/-- ROW_LINE_PROCESS. -/
def execRowLineProcess (gp : Fin 112) (row : RowId) (s : State) : Out :=
  onDev (fun s => s.dev.rowProcess s.banks gp row) s

/-! ## Prediction (R261, R262) -/

/-- The least time of at least 0 after which the web has moved by `e`, at speed v and acceleration a; none if it never
does (R261). -/
def reachIn (e v a : Rat) : Option Rat :=
  let least := fun (xs : List Rat) => (xs.filter fun t => decide (0 ≤ t)).foldl
    (fun (b : Option Rat) t => some (match b with
      | some u => min u t
      | none => t)) none
  if e = 0 then some 0
  else if a = 0 then (if v = 0 then none else least [e / v])
  else
    let q := v * v + 2 * a * e
    if q < 0 then none else
    let r := ratSqrt q
    least [(-v - r) / a, (-v + r) / a]

/-- A difference of extended positions as the nearest one modulo 2^40. -/
def near40 (e : Rat) : Rat := e - ((2 ^ 40 : Nat) : Rat) * ((e / ((2 ^ 40 : Nat) : Rat) + 1 / 2).floor : Rat)

/-- The count of row `row`'s line `line` of a run, an exact rational (R201, R247, R261). -/
def Run.lineCount (r : Run) (m : Banks) (p : Port) (gp : Nat) (row : RowId) (line : Nat) : Rat :=
  let lp : Int := 256 * line + m.offset gp (r.calSet p).val row
  (toSigned 40 r.origin : Rat) + (lp : Rat) * r.gearDen / r.gearNum

/-- What the web has still to go to a row's line, by the observer of the port's die; negative once it has passed. -/
def Dev.lineAhead (d : Dev) (m : Banks) (s : Fin 16) (gp : Fin 112) (row : RowId) (r : Run) (line : Nat) : Rat :=
  near40 (r.lineCount m d.ports[gp] gp.val row line - (d.pos.enc[d.swaths[s].channel].copies[dieCopy gp]).x)

/-- S(L) in ns of fire-timebase time, on the 250 ps grid; none while the web will not reach the line (R258, R261). -/
def Dev.predict (d : Dev) (m : Banks) (s : Fin 16) (gp : Fin 112) (row : RowId) (r : Run) (line : Nat) : Option Rat :=
  let o := d.pos.enc[d.swaths[s].channel].copies[dieCopy gp]
  (reachIn (d.lineAhead m s gp row r line) o.v o.acc).map fun tau =>
    let ts : Rat := ((10 * o.t.toNat : Nat) : Rat) + tau * 1000000000
    let ft := d.ftOf (dieOf gp) ts + Config.dieTrim d.otp.trims (gp.val / 16)
    (roundAway (4 * (ft + (d.ports[gp].stagger.toNat : Rat))) : Rat) / 4

/-- A token's S(L) at an observer update. Once the web has passed the fire reference, the commit may still lie ahead by
Stagger: the prediction made last then stands (DEDUCED, log 23). -/
def Dev.predToken (d : Dev) (m : Banks) (gp : Fin 112) (row : RowId) (t : Token) : Option Rat :=
  match d.runOf gp t.epoch with
  | none => none
  | some (s, r) =>
    match d.predict m s gp row r t.line with
    | some x => some x
    | none => if d.lineAhead m s gp row r t.line < 0 then t.pred else none

/-- Every line of a row's fire queue that has not been committed is predicted again (R261). -/
def Dev.predictRow (d : Dev) (m : Banks) (gp : Fin 112) (row : RowId) : Dev :=
  d.modRow gp row fun q => { q with
    queue := q.queue.map fun t => if t.start.isNone then { t with pred := d.predToken m gp row t } else t }

/-! ## Commit (R263) -/

/-- No row of a port starts a line: contained, or about to be by HOT_ACTION 2, disabled, being reset, scanned in the
foreground, or while a mode change that has been taken or a STOP or KILL reaction is in progress (R79, R96, R159, R283, R292, R381, R382). -/
def Dev.mute (d : Dev) (gp : Fin 112) : Bool :=
  d.portContained gp || d.dieResetting gp || d.ports[gp].resetting || d.ports[gp].heat.hotDue || !d.ports[gp].on
    || d.ports[gp].scan.state == 1 || d.firingOver

/-- LINE_COMMIT: the row's next line gets its S(L). A line the web will not reach is not due and stays. A line that the
web has passed without a prediction, complete data not yet through stages 2 to 6, and a hand-over that did not reach the
timebase make the line missed; incomplete data let it fire blank, or be taken off while the row waits for its first
complete line. A background piece stops at its next slot boundary (R287). -/
def Dev.lineCommit (d : Dev) (m : Banks) (gp : Fin 112) (row : RowId) (reached : Bool) : Dev :=
  let open' := fun (t : Token) => t.start.isNone
  match (d.ports[gp].row row).queue.find? open' with
  | none => d
  | some t =>
  match d.runOf gp t.epoch with
  | none => d
  | some (s, r) =>
    let pred := d.predToken m gp row t
    if d.swathReversed s gp || (pred.isNone && decide (0 ≤ d.lineAhead m s gp row r t.line)) then d else
    let complete := d.lineComplete gp r t.line
    let skip := (d.ports[gp].row row).waitData && !complete
    let d := if skip || d.mute gp then d else d.stopPiece gp fun x => x.slotNs
    (d.togglePort gp fun p => 0x203 + 4 * p).modRow gp row fun q => { q with
      waitData := q.waitData && !complete
      queue := modToken open' (fun t => { t with
        start := some (pred.getD (d.fireNow gp))
        complete := complete && t.processed.isSome, skip
        missed := !reached || pred.isNone || (complete && t.processed.isNone) }) q.queue }

/-- LINE_COMMIT. -/
def execLineCommit (gp : Fin 112) (row : RowId) (reached : Bool) (s : State) : Out :=
  onDev (fun s => s.dev.lineCommit s.banks gp row reached) s

/-! ## Start (R264, R265, R281) -/

/-- E(L): the earliest start, a whole number of ns after S(L), that keeps the row's rate and follows the previous
sequence and a background piece; none at an admissible rate of 0 (R263, R264, R287). -/
def Row.earliest (q : Row) (piece : Option Piece) (s : Rat) : Option Rat :=
  if q.fAdm = 0 then none else
  let e := match q.prevStart with
    | some t => max s (t + 1000000000 / (q.fAdm : Rat))
    | none => s
  let e := match q.busyUntil with
    | some t => max e t
    | none => e
  let e := match piece with
    | some x => max e x.stop
    | none => e
  some (s + ((e - s).ceil : Rat))

/-- The other row of a port has taken this line before. -/
def Port.counted (p : Port) (row : RowId) (epoch line : Nat) : Bool :=
  let o := p.row (otherRow row)
  p.rows2 && (decide (epoch < o.markEpoch) || (o.markEpoch == epoch && decide (line < o.upTo)))

/-- A line fired blank for want of data: one underrun of the port for each line (R265), and the job's underrun policy
(R217). -/
def Dev.underrun (d : Dev) (s : Fin 16) (gp : Fin 112) (r : Run) (line : Nat) : Dev :=
  let key := r.epoch * 2 ^ 32 + line
  if d.ports[gp].underrunLines.contains key then d else
  let d := (d.togglePort gp fun p => 0x300 + 2 * p).modPort gp fun p =>
    { p with
      underruns := satInc p.underruns, consecUnderruns := satTo 0xFFFF p.consecUnderruns
      underrunLines := (key :: p.underrunLines).take 256 }
  let d := (d.event evPort 0 gp.val (le4 line)).detect (idUnderrun gp.val)
  if r.policy.underrunStop ≠ 0 && decide (r.policy.underrunStop ≤ d.ports[gp].consecUnderruns) && d.swaths[s].state = 2
  then d.underrunStop s else d

/-- A line fired with complete data ends the port's run of underruns. -/
def Dev.lineGood (d : Dev) (gp : Fin 112) : Dev :=
  (d.modPort gp fun p => { p with consecUnderruns := 0 }).normal (idUnderrun gp.val)

/-- The port blanks its lines (R281). -/
def Port.blanking (p : Port) : Bool := p.heat.hot && p.heat.hotAction == 0

/-- A line taken blank by a HOT port at its start: counted once, whichever of its rows are blanked, and the row's mark
advances (R281). -/
def Dev.hotBlankLine (d : Dev) (gp : Fin 112) (row : RowId) (t : Token) : Dev :=
  let key := t.epoch * 2 ^ 32 + t.line
  let d := if d.ports[gp].heat.blanks.contains key then d else d.modPort gp fun p => { p with heat := { p.heat with
    hotBlank := satInc p.heat.hotBlank, blanks := (key :: p.heat.blanks).take 256 } }
  d.modRow gp row fun q => { q with queue := modToken (fun _ => true) (fun t => { t with blanked := true }) q.queue }.mark t.epoch t.line

/-- The swath's progress after a line has started: lines fired, firing resumed after a reversal (R268). -/
def Dev.progress (d : Dev) (s : Fin 16) (r : Run) : Dev :=
  let w := d.swaths[s]
  let n := d.firedOf s r.epoch
  let d := if r.epoch = w.gens[0].epoch then d.modSwath s fun w => { w with linesFired := n } else d
  let d := if r.pattern.isNone && d.activeJob = some r.job && d.activeSwaths.contains s then
    { d with activeLines := vmod d.activeLines s fun k => max k n } else d
  if w.resumed then
    let c := d.pos.enc[w.channel].copies[0]
    (d.modSwath s fun w => { w with resumed := false }).event evPosition 4 w.channel.val
      (le4 c.count.toNat ++ leBytes 1 c.wrap.toNat)
  else d

/-- Stage 6: the phases each nozzle of a row fires, by the row's band; a line fired blank keeps its sequence with every
data bit 0 (R254, R265; log 59). -/
def Dev.linePhases (d : Dev) (m : Banks) (gp : Fin 112) (row : RowId) (r : Run) (t : Token) : List Nat :=
  let p := d.ports[gp]
  let pulses := (List.range 4).map (phasesOf m gp.val p (r.waveSet p).val (p.row row).band.toNat)
  if t.complete then (t.processed.getD []).map fun l => pulses.getD l 0 else []

/-- The pulse shape of each phase, by the row's band (R254). -/
def Dev.lineShapes (d : Dev) (m : Banks) (gp : Fin 112) (row : RowId) (set : Nat) : List (Nat × Nat × Nat) :=
  let p := d.ports[gp]
  (List.range p.phases.toNat).map fun k =>
    let w := m.wave gp.val set (k + 1) (p.row row).band.toNat
    (w.1, w.2.1, w.2.2.1)

/-- A row starts a line at E(L). -/
def Dev.startLine (d : Dev) (m : Banks) (s : Fin 16) (gp : Fin 112) (row : RowId) (r : Run) (t : Token) (e : Rat) : Dev :=
  let p := d.ports[gp]
  let d := d.ueIn (waveAddr gp.val (r.waveSet p).val 0) 512
  let new := !p.counted row r.epoch t.line
  let slots := p.slotPlan row e t.line p.slotNs (d.lineShapes m gp row (r.waveSet p).val) (d.linePhases m gp row r t)
  let dots := !t.complete || t.dots
  let d := d.emit (.line gp.val row (BitVec.ofNat 32 t.line) e (!t.complete) slots)
  let d := d.modPort gp fun p => { p with
    consecDrops := 0, lines := if new then p.lines + 1 else p.lines
    heat := if dots then { p.heat with headland := false } else p.heat }
  let d := d.modRow gp row fun q =>
    { q with
      queue := modToken (fun _ => true) (fun t => { t with started := true }) q.queue
      prevStart := some e, busyUntil := some (e + p.tmin), firing := true, dots }.fire t.epoch t.line
  let d := d.emit (.lanes gp.val (d.ports[gp].laneOrder (d.fireNow gp)))
  let d := (d.progress s r).normal (idOverspeed s.val)
  if t.complete then d.lineGood gp else d.underrun s gp r t.line

/-- A line of a run that ends at this line boundary, or of a row whose port starts none, is taken off unfired. -/
def Dev.passOver (d : Dev) (s : Fin 16) (gp : Fin 112) (t : Token) : Bool :=
  t.skip || d.mute gp || (d.swaths[s].endAtBoundary && t.epoch == d.swaths[s].gens[0].epoch)

/-- LINE_START: the row's committed line starts in its window, unless the web is reversed or the line is missed. A line
that finds the port HOT under HOT_ACTION 0 is blanked, one that its port does not start is passed over. -/
def Dev.lineStart (d : Dev) (m : Banks) (gp : Fin 112) (row : RowId) : Dev :=
  let p := d.ports[gp]
  let q := p.row row
  match q.queue with
  | [] => d
  | t :: _ =>
  match d.runOf gp t.epoch, t.start with
  | some (s, r), some x =>
    if t.started || t.blanked || t.missed || q.firing || d.swathReversed s gp then d
    else if d.passOver s gp t then
      d.modRow gp row fun q => { q with queue := modToken (fun _ => true) (fun t => { t with skip := true }) q.queue }
    else
      match q.earliest p.piece x with
      | none => d
      | some e =>
        if e ≤ x + r.policy.windowTolNs then
          if p.blanking then d.hotBlankLine gp row t else d.startLine m s gp row r t e
        else d
  | _, _ => d

/-- LINE_START. -/
def execLineStart (gp : Fin 112) (row : RowId) (s : State) : Out := onDev (fun s => s.dev.lineStart s.banks gp row) s

/-! ## The window closes (R266, R382) -/

/-- A missed line: counted, and the overspeed policy (R266). -/
def Dev.missLine (d : Dev) (s : Fin 16) (gp : Fin 112) (r : Run) (line : Nat) : Dev :=
  let d := (d.togglePort gp fun p => 0x301 + 2 * p).modPort gp fun p => { p with drops := satInc p.drops, consecDrops := satTo 0xFFFF p.consecDrops }
  let d := d.event evPort 1 gp.val (le4 line)
  let pol := r.policy
  if pol.overspeed = 2 || (decide (pol.dropLimit < 65535) && decide (pol.dropLimit ≤ d.ports[gp].consecDrops))
  then d.detect (idOverspeed s.val) else d

/-- FIRE_WINDOW_CLOSE: the first token, if its line has been committed, leaves the queue: started or blanked at its start,
taken off unfired and uncounted, or missed. -/
def Dev.windowClose (d : Dev) (gp : Fin 112) (row : RowId) : Dev :=
  match (d.ports[gp].row row).queue with
  | [] => d
  | t :: _ =>
  if t.start.isNone then d else
  let off := fun (d : Dev) => d.modRow gp row fun q => { q with queue := q.queue.drop 1 }
  match d.runOf gp t.epoch with
  | none =>
    -- its run ended at the boundary of this line
    match d.swathOf gp.val with
    | some s => (((off d).refillSwath s).pruneRuns s).tellSlots gp
    | none => off d
  | some (s, r) =>
    let d :=
      if t.started || t.blanked then off d
      else if d.passOver s gp t then (off d).modRow gp row fun q => q.mark t.epoch t.line
      else (off d).missLine s gp r t.line
    (((d.refillSwath s).endByLength s).pruneRuns s).tellSlots gp

/-- FIRE_WINDOW_CLOSE. -/
def execFireWindowClose (gp : Fin 112) (row : RowId) (s : State) : Out := onDev (fun s => s.dev.windowClose gp row) s

/-! ## Headland windows (R286) -/

/-- A line of a run has dots on a port; a line whose data is not complete counts as having them. -/
def Dev.hasDots (d : Dev) (m : Banks) (gp : Fin 112) (r : Run) (line : Nat) : Bool :=
  match r.pattern with
  | some pat => (List.range d.ports[gp].nr).any fun j =>
      patternLevel pat.toNat d.ports[gp].nr .a line j != 0 || patternLevel pat.toNat d.ports[gp].nr .b line j != 0
  | none =>
    !d.lineComplete gp r line
      || (m.bytes (lineAddr gp.val line) (d.ports[gp].nozzles / 4)).any (· != 0)

/-- The first line with dots of a run, from `line` on; among 256 at most, which is every line a port can hold. -/
def Dev.firstDots (d : Dev) (m : Banks) (gp : Fin 112) (r : Run) : Nat → Nat → Option Nat
  | 0, _ => none
  | n + 1, line =>
    if (match r.lines with
      | some k => decide (k ≤ line)
      | none => false) then none
    else if d.hasDots m gp r line then some line
    else d.firstDots m gp r n (line + 1)

/-- Predicted start of a row's next line with dots; none when no line is due. -/
def Dev.rowDots (d : Dev) (m : Banks) (s : Fin 16) (gp : Fin 112) (row : RowId) : Option Rat :=
  let q := d.ports[gp].row row
  let w := d.swaths[s]
  let first := match q.queue.find? fun (t : Token) => !t.started && !t.blanked && !t.skip with
    | some t => (t.epoch, t.line)
    | none => (q.epoch, q.nextLine)
  let runs := (w.runs.reverse ++ w.pendingRun.toList).filter fun (r : Run) => decide (first.1 ≤ r.epoch)
  let hit : Option (Run × Nat) := runs.findSome? fun r =>
    (d.firstDots m gp r 257 (if r.epoch = first.1 then first.2 else 0)).map fun l => (r, l)
  match hit with
  | none => none
  | some (r, l) =>
    match q.queue.find? fun (t : Token) => t.epoch == r.epoch && t.line == l with
    | some t => match t.start with
      | some x => some x
      | none => d.predToken m gp row t
    | none => d.predict m s gp row r l

/-- Predicted start of the port's next line with dots, on the earlier of its rows. -/
def Dev.nextDots (d : Dev) (m : Banks) (s : Fin 16) (gp : Fin 112) : Option Rat :=
  d.ports[gp].rowIds.foldl (fun best k => match best, d.rowDots m s gp k with
    | some a, some b => some (min a b)
    | some a, none => some a
    | none, b => b) none

/-- Background pieces of a port need no window: it belongs to no printing swath, or the mode is READY or SERVICE. -/
def Dev.alwaysOpen (d : Dev) (gp : Fin 112) : Bool := d.mode = mReady || d.mode = mService || !d.portPrints gp

/-- Time left in ns in the port's headland window: none outside one, `some none` without end. -/
def Dev.windowLeft (d : Dev) (m : Banks) (gp : Fin 112) : Option (Option Rat) :=
  if d.alwaysOpen gp then some none else
  let p := d.ports[gp]
  if !p.heat.headland || (p.rowA.firing && p.rowA.dots) || (p.rowB.firing && p.rowB.dots) then none else
  match d.swathOf gp.val with
  | none => some none
  | some s =>
    match d.nextDots m s gp with
    | none => some none
    | some t => let left := t - 5000 - d.fireNow gp
                if left ≤ 0 then none else some (some left)

/-- A window whose end has come stays closed, whatever is predicted later (R286). -/
def Dev.closeWindow (d : Dev) (m : Banks) (gp : Fin 112) : Dev :=
  if d.ports[gp].heat.headland && (d.windowLeft m gp).isNone then
    d.modPort gp fun p => { p with heat := { p.heat with headland := false } }
  else d

/-- A piece of `ns` ends inside the port's window. -/
def Dev.fits (d : Dev) (m : Banks) (gp : Fin 112) (ns : Nat) : Bool :=
  match d.windowLeft m gp with
  | none => false
  | some none => true
  | some (some left) => decide ((ns : Rat) ≤ left)

/-- At a line boundary the window opens when the next line with dots starts HeadlandMinUs later or more. -/
def Dev.openWindow (d : Dev) (m : Banks) (gp : Fin 112) : Dev :=
  match d.swathOf gp.val with
  | none => d
  | some s =>
    let far := match d.nextDots m s gp with
      | none => true
      | some t => decide (((1000 * d.ports[gp].heat.headlandMinUs.toNat : Nat) : Rat) ≤ t - d.fireNow gp)
    if d.ports[gp].heat.headland then d.closeWindow m gp
    else d.modPort gp fun p => { p with heat := { p.heat with headland := far, spitDone := p.heat.spitDone && !far } }

/-- The observer of a die has been updated: windows whose end has come by the last prediction close, the lines of the
swaths on its channel are predicted again, and so are the windows' ends (R261, R286). -/
def Dev.repredict (d : Dev) (m : Banks) (ch : Fin 4) (k : Fin 8) : Dev :=
  ((fins 16).filter fun s => d.swaths[s].channel == ch && d.swaths[s].defined).foldl (fun d s =>
    ((d.swathPorts s).filter fun gp => dieCopy gp == k).foldl (fun d gp =>
      (d.ports[gp].rowIds.foldl (fun d row => d.predictRow m gp row) (d.closeWindow m gp)).closeWindow m gp) d) d

/-! ## Line boundary (R259) -/

/-- LINE_BOUNDARY: the row's sequence ends, its band is renewed, and what waited for the boundary takes effect. -/
def Dev.lineBoundary (d : Dev) (m : Banks) (gp : Fin 112) (row : RowId) : Dev :=
  if (d.ports[gp].row row).firing then
    let band := d.ports[gp].heat.band
    let d := d.modRow gp row fun q => { q with firing := false, busyUntil := none, dots := false, band }
    let d := (d.afterStop gp).tellSlots gp
    d.openWindow m gp
  else d

/-- LINE_BOUNDARY. -/
def execLineBoundary (gp : Fin 112) (row : RowId) (s : State) : Out :=
  onDev (fun s => s.dev.lineBoundary s.banks gp row) s

end Sys2Proof.Machine
end

