-- ==== Sys2Proof/Machine/Transport.lean ====
section
/-! DEFINITION. Transport axes: current sampling, flux observer, loops, recatch, caps, the DC bus and its chopper, and
the transport commands (R170 to R174, R333 to R353). Quantities are exact rationals in V, A, Wb, s and turns (log 20). -/

namespace Sys2Proof.Machine

/-! ## Arithmetic -/

/-- A division whose zero divisor no rule covers. -/
def div0 (x y : Rat) : Rat := if y = 0 then Config.overZero x else x / y

/-- The sine table at an angle in 1/65,536 turn: the entry of bits 15:6, interpolated by bits 5:0 (R341). -/
def sine (k : Nat) : Rat :=
  let i := k / 64 % 1024
  sineEntry i + (sineEntry ((i + 1) % 1024) - sineEntry i) * (k % 64 : Nat) / 64

/-- The sine of an angle in turns, from the table (R341). -/
def sinT (x : Rat) : Rat := sine ((x * 65536).floor % 65536).toNat

/-- The cosine of an angle in turns. -/
def cosT (x : Rat) : Rat := sinT (x + 1 / 4)

/-- An angle difference in turns, from −1/2 to +1/2. -/
def wrapT (x : Rat) : Rat := x - (x + 1 / 2).floor

/-- The direction of a vector in turns. -/
def argT (v : Rat × Rat) : Rat :=
  if v.1 = 0 ∧ v.2 = 0 then Config.zeroAngle else turnsOf (v.2.num * v.1.den) (v.1.num * v.2.den)

/-- The magnitude of a vector. -/
def magT (v : Rat × Rat) : Rat := ratSqrt (v.1 * v.1 + v.2 * v.2)

/-- Three phases to α and β, amplitude kept (log 20). -/
def clarke (u v w : Rat) : Rat × Rat := ((2 * u - v - w) / 3, (v - w) / ratSqrt 3)

/-- α and β to three phases. -/
def phases3 (v : Rat × Rat) : List Rat :=
  [v.1, -v.1 / 2 + ratSqrt 3 / 2 * v.2, -v.1 / 2 - ratSqrt 3 / 2 * v.2]

/-- Park transform at an angle in turns: d and q. -/
def park (x : Rat) (v : Rat × Rat) : Rat × Rat := (v.1 * cosT x + v.2 * sinT x, v.2 * cosT x - v.1 * sinT x)

/-- Inverse Park transform. -/
def unpark (x : Rat) (v : Rat × Rat) : Rat × Rat := (v.1 * cosT x - v.2 * sinT x, v.1 * sinT x + v.2 * cosT x)

/-- Clamp to ± a limit. -/
def clampTo (m x : Rat) : Rat := max (-m) (min m x)

/-- Move toward a goal by at most a step. -/
def toward (goal step x : Rat) : Rat := if x ≤ goal then min goal (x + step) else max goal (x - step)

/-! ## Parameters -/

/-- Control period in s. -/
def Tax.period (t : Tax) : Rat := div0 1 t.pwmHz
def Tax.psiWb (t : Tax) : Rat := t.psi.toNat / 100000
def Tax.rsOhm (t : Tax) : Rat := t.rs.toNat / 1000
def Tax.lsH (t : Tax) : Rat := t.ls.toNat / 1000000

/-- Electrical speed in turns/s at a mechanical speed in rpm. -/
def Tax.elec (t : Tax) (rpm : Rat) : Rat := rpm * t.polePairs / 60

/-- Mechanical speed in rpm at an electrical speed in turns/s. -/
def Tax.rpm (t : Tax) (w : Rat) : Rat := div0 (60 * w) t.polePairs

/-- The bus voltage (R337). -/
def Bus.volts (b : Bus) : Rat := (b.code.toNat * b.scale.toNat : Nat) / 1000000

/-- A shunt code as a current in A (R337). -/
def Tax.amps (t : Tax) (code : BitVec 12) : Rat := div0 ((code.toInt : Rat) * 250000 / 2048) t.shunt.toNat

/-- A speed as an event or a register reports it: signed, 0.01 rpm. -/
def rpmWord (x : Rat) : Word := satInt32 (roundAway (100 * x))

/-- Data of a TRANSPORT event (Table 6.28). -/
def Dev.taxEvent (d : Dev) (n : Fin 4) (kind : Nat) : Dev :=
  d.event evTransport kind n.val (le4 (rpmWord d.mot.tax[n].speed).toNat)

/-- The code of GOVERN (Table 8.3). -/
abbrev ovGovern : Nat := 1

/-! ## Caps (R267, R344) -/

/-- The cap of a swath under a gear, in counts/s. -/
def capOf (fAdm num den : Nat) : Rat := div0 (97 * fAdm * 256 * den : Nat) (100 * num : Nat)

/-- Caps of the GOVERN swaths an axis masters, in counts/s. -/
def Dev.caps (d : Dev) (n : Fin 4) : List Rat :=
  (fins 16).flatMap fun s =>
    let w := d.swaths[s]
    let of := fun (r : Option Run) => match r with
      | some r => if r.policy.overspeed = ovGovern && r.pattern.isNone then [capOf (d.rateInForce s) r.gearNum r.gearDen] else []
      | none => []
    if d.mot.tax[n].masterOf.getLsbD s.val then
      of (if w.state = 2 then w.present else none) ++ of (if d.armed.isSome then w.pendingRun else none)
    else []

/-- The lowest cap of an axis in counts/s; none without a GOVERN swath. -/
def Dev.capCounts (d : Dev) (n : Fin 4) : Option Rat :=
  match d.caps n with
  | [] => none
  | x :: xs => some (xs.foldl min x)

/-- The cap in rpm (R344). -/
def Dev.capRpm (d : Dev) (n : Fin 4) : Option Rat :=
  (d.capCounts n).map fun x => div0 (60 * x) d.mot.tax[n].countsPerRev

/-- On the channel of a GOVERN swath the axis masters, v + a × 20 ms has reached a cap (R267). -/
def Dev.capReached (d : Dev) (n : Fin 4) (cap : Rat) : Bool :=
  (fins 16).any fun s =>
    let w := d.swaths[s]
    let governs := fun (r : Option Run) => r.any fun r => r.policy.overspeed == ovGovern && r.pattern.isNone
    let c := d.pos.enc[w.channel].copies[0]
    d.mot.tax[n].masterOf.getLsbD s.val
      && ((w.state == 2 && governs w.present) || (d.armed.isSome && governs w.pendingRun))
      && decide (cap ≤ |c.v + c.acc / 50|)

/-- The target before the cap: 0 while stopping (R351). -/
def Tax.goal (t : Tax) : Rat := if t.stopping then 0 else t.target

/-- The cap that bounds the reference: once the web nears it (R267). -/
def Tax.bound (t : Tax) : Option Rat := if t.capHit then t.cap else none

/-- The target after the cap (R344). -/
def Tax.capped (t : Tax) : Rat :=
  match t.bound with
  | some c => clampTo c t.goal
  | none => t.goal

/-- The acceleration of the last set-point, as AccelMax is now (R343). -/
def Tax.rate (t : Tax) : Nat := if t.accel = 0 || t.accelMax < t.accel then t.accelMax else t.accel

/-- The cap takes effect on an axis: TRANSPORT kind 3 at each change of CapActive. -/
def Dev.applyCap (d : Dev) (n : Fin 4) : Dev :=
  let cap := d.capRpm n
  let hit := (d.capCounts n).any fun x => d.capReached n x
  let act := hit && cap.any fun c => decide (c < |d.mot.tax[n].target|)
  let was := d.mot.tax[n].capActive
  let d := d.modTax n fun t => { t with cap, capHit := hit, capActive := act }
  if act = was then d else d.taxEvent n 3

/-! ## Set-points (R195, R343) -/

/-- A set-point is stored as the target. -/
def Tax.setTarget (t : Tax) (c : SpeedCmd) : Tax :=
  { t with target := (c.speed : Rat) / 100, accel := c.accel }

/-- The set-point a TAX_SPEED carries. -/
def speedCmd (ps : List Byte) : SpeedCmd := { speed := pI ps 4 4, accel := pU ps 8 4 }

/-- A set-point goes to the axis: to its queue, or, on a disabled axis, into its target (R172). -/
def Tax.push (t : Tax) (c : SpeedCmd) : Tax := if t.on then { t with queue := t.queue ++ [c] } else t.setTarget c

/-- The first command that waits for a slot of a transport axis's queue. -/
def Dev.parkedTax (d : Dev) (n : Nat) : Option WorkEntry :=
  d.ses.work.find? fun (e : WorkEntry) =>
    e.park == some .axisQueue && e.packet.opcode == 0x83 && pU (pktParams e.packet) 0 1 == n

/-- A parked TAX_SPEED is completed while its axis has room. -/
def Dev.wakeTax (n : Fin 4) : Nat → Dev → Dev
  | 0, d => d
  | k + 1, d =>
    match d.parkedTax n.val with
    | some e =>
      if d.mot.tax[n].queue.length < 16 || !d.mot.tax[n].on then
        Dev.wakeTax n k ((d.modTax n (·.push (speedCmd (pktParams e.packet)))).answer e.packet stOk noField [])
      else d
    | none => d

/-- The axis takes one set-point. -/
def Dev.takeSetpoint (d : Dev) (n : Fin 4) : Dev :=
  match d.mot.tax[n].queue with
  | c :: cs => Dev.wakeTax n 16 (d.modTax n fun t => { t.setTarget c with queue := cs })
  | [] => d

/-- The axis is disabled: what its queue holds becomes the target, in order, and waiting commands complete. -/
def Dev.taxDisable (d : Dev) (n : Fin 4) : Dev :=
  let d := (d.taxOff n).modTax n fun t => { t.queue.foldl Tax.setTarget t with queue := [] }
  Dev.wakeTax n 64 d

/-! ## Sampling (R335, R336) -/

/-- The low-side on-time of a phase, centred on the period boundary, in ns (R334). -/
def Tax.lowNs (t : Tax) (duty : Rat) : Rat := (1 - duty) * t.period * 1000000000

/-- The high-side on-time of a phase, centred on mid-period, in ns: none below 20 ns (R334). -/
def Tax.highNs (t : Tax) (duty : Rat) : Rat :=
  let x := duty * t.period * 1000000000 - 20 * t.deadTime
  if x < 20 then 0 else x

/-- The on-times of an axis's phases in a period: every low side on in active short circuit, none with the gates off. -/
def Tax.gateNs (t : Tax) : List (Rat × Rat) :=
  if t.state = 5 then List.replicate 3 (t.lowNs 0, 0) else t.duty.map fun x => (t.lowNs x, t.highNs x)

/-- The second-highest of three duties. -/
def second (xs : List Rat) : Rat :=
  match xs with
  | [a, b, c] => max (min a b) (min (max a b) c)
  | _ => 0

/-- The window of a set of duties is at least T_MIN. -/
def Tax.windowOk (t : Tax) (duty : List Rat) : Bool := decide ((t.tMinNs : Rat) ≤ t.lowNs (second duty))

/-- The sampled phase currents, one phase rebuilt where it has no window; none when the sample is skipped. -/
def Tax.sample (t : Tax) (u v w : Rat) : Option (List Rat) :=
  match t.duty with
  | [a, b, c] =>
    let ok := fun (x : Rat) => decide ((t.tMinNs : Rat) ≤ t.lowNs x)
    if !t.windowOk [a, b, c] then none
    else if !ok a then some [-(v + w), v, w]
    else if !ok b then some [u, -(u + w), w]
    else if !ok c then some [u, v, -(u + v)]
    else some [u, v, w]
  | _ => some [u, v, w]

/-- The phases of a sample that were measured. -/
def Tax.measured (t : Tax) (xs : List Rat) : List Rat :=
  (xs.zip t.duty).filterMap fun (x : Rat × Rat) => if (t.tMinNs : Rat) ≤ t.lowNs x.2 then some x.1 else none

/-- The duty clamp after 4 skips, and its release after 16 unclamped windows. -/
def Tax.countSkip (t : Tax) (skipped : Bool) : Tax :=
  if skipped then
    { t with skips := satInc t.skips, skipRun := t.skipRun + 1, dutyClamp := t.dutyClamp || decide (4 ≤ t.skipRun + 1) }
  else { t with skipRun := 0 }

/-! ## The flux observer (R339) -/

/-- The voltage of one phase. -/
def Tax.phaseV (t : Tax) (vbus duty i : Rat) : Rat :=
  let dt := (t.deadTime : Rat) / 100000000 / t.period
  let sg : Rat := if 0 < i then 1 else if i < 0 then -1 else 0
  (duty - dt) * vbus - sg * dt * vbus

/-- The mean voltage the duties in force apply at a current, in α and β; 0 while no phase is switched (log 20). -/
def Tax.applied (t : Tax) (vbus : Rat) (i : Rat × Rat) : Rat × Rat :=
  let u := (t.duty.zip (phases3 i)).map fun (x : Rat × Rat) => t.phaseV vbus x.1 x.2
  clarke (u.getD 0 0) (u.getD 1 0) (u.getD 2 0)

/-- The predicted α and β currents of a skipped sample: the motor model in the frame of the axis's angle, which has moved on
by a period when the sample would have been taken (R336; log 20). -/
def Tax.predictI (t : Tax) (vbus : Rat) : Rat × Rat :=
  let v := park t.angle (t.applied vbus (t.ia, t.ib))
  let i := park t.angle (t.ia, t.ib)
  let e := park t.angle (t.ea, t.eb)
  let step := fun (x v e : Rat) => x + div0 (t.period * (v - t.rsOhm * x - e)) t.lsH
  unpark (if t.aligning then t.angle else t.angle + t.elec t.speed * t.period) (step i.1 v.1 e.1, step i.2 v.2 e.2)

/-- One period of the observer. -/
def Tax.observe (t : Tax) (vbus : Rat) (i : Rat × Rat) : Tax :=
  let v := t.applied vbus i
  let T := t.period
  let pa := t.pa + (v.1 - t.rsOhm * i.1) * T
  let pb := t.pb + (v.2 - t.rsOhm * i.2) * T
  let fa := pa - t.lsH * i.1
  let fb := pb - t.lsH * i.2
  let mag := magT (fa, fb)
  let g := div0 (twoPi * 20 * (t.psiWb - mag)) mag
  let k := twoPi * 150
  let err := wrapT (argT (fa, fb) - t.th)
  let w := t.w + k * k * err * T
  let ea := (fa - t.fa) / T
  let eb := (fb - t.fb) / T
  { t with
    pa := pa + g * fa * T, pb := pb + g * fb * T, fa, fb, w, ea, eb
    th := wrapT (t.th + (w + 2 * k * err) * T)
    resid := div0 |t.psiWb - mag| t.psiWb
    emf := magT (ea, eb) }

/-- resid exceeds ResidualPct. -/
def Tax.residHigh (t : Tax) : Bool := decide ((t.residualPct.toNat : Rat) / 100 < t.resid)

/-- Either condition under which the observer counts as lost (R345). -/
def Tax.lossy (t : Tax) : Bool := t.residHigh || decide (t.emf < twoPi * |t.w| * t.psiWb / 2)

/-! ## The loops (R341 to R343) -/

/-- The phase advance in turns at a mechanical speed in rpm. -/
def Tax.adv (t : Tax) (rpm : Rat) : Rat :=
  let entry := fun (i : Nat) => (((t.advance.toList.getD i 0).toInt : Int) : Rat)
  let x := div0 (|rpm| * 31) t.ratedRpm
  let i := x.floor.toNat
  let a := if t.ratedRpm ≤ |rpm| then entry 31 else entry i + (entry (i + 1) - entry i) * (x - i)
  (if rpm < 0 then -a else a) / 65536

/-- Limits of the q reference in mA: ± ImaxMa, and no braking under the regeneration limit (R349). -/
def Tax.qLimit (t : Tax) (regen : Bool) (rpm x : Rat) : Rat :=
  let x := clampTo t.imax.toNat x
  if regen && decide (x * rpm < 0) then 0 else x

/-- One proportional-integral current loop: its output and its integrator, held while the output is limited in the
direction of the error. -/
def Tax.pi (t : Tax) (limited : Bool) (e integ : Rat) : Rat :=
  let ki := t.rsOhm * (twoPi * t.pwmHz / 10)
  if limited then integ else integ + ki * e * t.period

/-- The current loops and the duties: references in A in the advanced frame, angle in turns, speed in rpm. -/
def Tax.drive (t : Tax) (vbus theta rpm dRef qRef : Rat) : Tax :=
  let adv := t.adv rpm
  let i := park (theta + adv) (t.ia, t.ib)
  let kp := t.lsH * (twoPi * t.pwmHz / 10)
  let ed := dRef - i.1
  let eq := qRef - i.2
  let vd := kp * ed + t.idInteg
  let vq := kp * eq + t.iqInteg
  let mag := magT (vd, vq)
  let lim := decide (vbus / 2 < mag)
  let m := min 1 (div0 mag (vbus / 2))
  let dir := argT (unpark (theta + t.elec rpm * (3 / 2) * t.period + adv) (vd, vq))
  let free := [(0 : Rat), 1 / 3, 2 / 3].map fun x => 1 / 2 + m * cosT (dir - x) / 2
  let t := { t with openRun := if t.dutyClamp && t.windowOk free then t.openRun + 1 else 0 }
  let t := if 16 ≤ t.openRun then { t with dutyClamp := false, openRun := 0 } else t
  let top := 1 - div0 t.tMinNs (t.period * 1000000000)
  { t with
    idInteg := t.pi (lim && decide (0 < ed * vd)) ed t.idInteg
    iqInteg := t.pi (lim && decide (0 < eq * vq)) eq t.iqInteg
    duty := if t.dutyClamp then free.map (min top) else free
    angle := theta - theta.floor }

/-- The speed loop: the q reference in mA and its integrator (R343). -/
def Tax.speedLoop (t : Tax) (regen : Bool) : Rat × Rat :=
  let e := t.ref - t.speed
  let x := (t.kp : Rat) / 65536 * e + t.integ
  let y := t.qLimit regen t.speed x
  (y, if y = x then t.integ + (t.ki : Rat) / 65536 * e * t.period else t.integ)

/-- The reference moves toward the capped target (R343, R344, R351). -/
def Tax.ramp (t : Tax) : Tax :=
  let out := t.bound.any fun c => decide (c < |t.ref|)
  let rate : Nat := if t.stopping || out then t.accelMax else t.rate
  { t with ref := toward t.capped ((rate : Rat) * t.period) t.ref }

/-! ## Open and closed loop (R338) -/

/-- The I/f frequency and its angle. -/
def Tax.openLoop (t : Tax) : Tax :=
  let top := (4 * t.ratedRpm : Nat) / (100 : Rat)
  let goal := if t.capped = 0 then 0 else if 0 < t.capped then top else -top
  let f := if t.follow then clampTo top t.ref else toward goal ((t.ifRamp.toNat : Rat) * t.period) t.olFreq
  let a := wrapT (t.olAngle + t.elec f * t.period)
  let near := decide (|f| = top ∧ |wrapT (t.th - a)| ≤ 1 / 12)
  { t with olFreq := f, olAngle := a, speed := f, agree := if near then t.agree + t.period else 0 }

/-- State 1 for one period. -/
def Tax.ifStep (t : Tax) (vbus : Rat) (regen : Bool) : Tax :=
  let t := t.openLoop
  if 1 / 50 ≤ t.agree then
    let diff := wrapT (t.olAngle - t.th)
    { t.drive vbus t.olAngle t.olFreq 0 (t.qLimit regen t.olFreq t.ifCurrent.toNat / 1000) with
      state := 2, integ := t.ifCurrent.toNat, slew := diff, slewStep := diff * 100, agree := 0, follow := false }
  else t.drive vbus t.olAngle t.olFreq 0 (t.qLimit regen t.olFreq t.ifCurrent.toNat / 1000)

/-- Speeds below 3 % of RatedRpm. -/
def Tax.low3 (t : Tax) (rpm : Rat) : Bool := decide (|rpm| < (3 * t.ratedRpm : Nat) / (100 : Rat))

/-- State 2 for one period, at an angle. -/
def Tax.closedStep (t : Tax) (vbus : Rat) (regen : Bool) (theta : Rat) : Tax :=
  let q := t.speedLoop regen
  { t with integ := q.2 }.drive vbus theta t.speed 0 (q.1 / 1000)

/-- The angle of an encoder source (R340). -/
def Tax.encAngle (t : Tax) (c : EncCopy) : Rat :=
  let x := div0 (((c.count - t.zero).toInt : Rat) * t.polePairs) t.encRev.toNat
  x - x.floor

/-- The speed of an encoder source, in rpm. -/
def Tax.encRpm (t : Tax) (c : EncCopy) : Rat := div0 (60 * c.v) t.encRev.toNat

/-! ## Recatch and coast (R345 to R347) -/

/-- A recatch begins, or begins again. -/
def Tax.recatchFrom (t : Tax) (now since : DWord) (atEnable : Bool) : Tax :=
  { t.gatesOff with
    state := 3, recatches := satInc t.recatches, ref := t.ref, stopping := t.stopping
    recatch := some { since, start := now, atEnable } }

/-- The estimate of three probes: speed in turns/s, angle in turns, and whether it is valid; then whether the probe
currents lie below the 3 % threshold. -/
def Tax.estimate (t : Tax) (ps : List (Rat × Rat)) : Rat × Rat × Bool × Bool :=
  match ps with
  | [a, b, c] =>
    let s1 := wrapT (argT b - argT a)
    let s2 := wrapT (argT c - argT b)
    let mean := (s1 + s2) / 2
    let w := mean * 2500
    let i := (magT a + magT b + magT c) / 3
    let at' := fun (w : Rat) => div0 (twoPi * |w| * t.psiWb / 50000) t.lsH
    let low := decide (i < at' (t.elec ((3 * t.ratedRpm : Nat) / (100 : Rat))) / 2)
    let sg : Rat := if 0 < w then 1 else if w < 0 then -1 else 0
    (w, argT c - sg / 4,
      decide (|s1 - s2| ≤ |mean| / 10 ∧ |i - at' w| ≤ at' w / 4) && !low, low)
  | _ => (0, 0, false, false)

/-- PWM resumes at an estimate (step 6). -/
def Tax.resume (t : Tax) (r : Recatch) (w theta : Rat) : Tax :=
  let f := (t.psiWb * cosT theta, t.psiWb * sinT theta)
  { t with
    recatch := some { r with resumed := true, good := true }
    pa := f.1 + t.lsH * t.ia, pb := f.2 + t.lsH * t.ib, fa := f.1, fb := f.2, th := wrapT theta, w
    ref := t.rpm w, speed := t.rpm w, integ := 0, idInteg := 0, iqInteg := 0, resid := 0, slew := 0 }

/-- The axis starts under I/f, its estimate and its reference at 0 (R338 step 1, R343). -/
def Tax.startIf (t : Tax) : Tax :=
  { t with state := 1, recatch := none, follow := false, olFreq := 0, olAngle := 0, agree := 0, pa := 0, pb := 0, fa := 0
           fb := 0, w := 0, th := 0, idInteg := 0, iqInteg := 0, speed := 0, ref := 0 }

/-- State 3 for one period. The first period at or after the end of a probe carries the currents sampled at that end, so
the probes' samples lie 400 µs apart whatever the period (Table 14.1; log 20). -/
def Dev.recatchStep (d : Dev) (n : Fin 4) (i : List Rat) : Dev :=
  let t := d.mot.tax[n]
  match t.recatch with
  | none => d
  | some r =>
    let el := (d.sys.now - r.start).toNat
    let again := fun (d : Dev) => d.modTax n fun t => t.recatchFrom d.sys.now r.since r.atEnable
    if r.resumed then
      let t := { t with speed := t.rpm t.w }
      let r := { r with good := r.good && !t.residHigh }
      if 300000 ≤ el then
        if r.good then (d.modTax n fun _ => { t with state := 2, recatch := none }).taxEvent n 2 else again d
      else d.modTax n fun _ => { t.drive d.mot.bus.volts t.th t.speed 0 0 with recatch := some r }
    else if r.probes.length < 3 then
      if 12000 + 40000 * r.probes.length ≤ el then
        if i.any fun x => decide ((t.imax.toNat : Rat) / 1000 < |x|) then again d
        else (d.emit (.zeroVector n.val (r.start + BitVec.ofNat 64 (10000 + 40000 * r.probes.length)))).modTax n fun t =>
          { t with recatch := some { r with probes := r.probes ++ [(t.ia, t.ib)] } }
      else d
    else if 100000 ≤ el then
      let e := t.estimate r.probes
      if e.2.2.1 then d.modTax n fun t => (t.resume r e.1 e.2.1).drive d.mot.bus.volts e.2.1 (t.rpm e.1) 0 0
      else if r.atEnable && e.2.2.2 then d.modTax n Tax.startIf
      else again d
    else d

/-- A zero crossing of a line voltage, the one before it and whether the rotor turns forward: the speed it gives, half a turn
having gone by; none from the first crossing of a coast. -/
def Tax.crossing (t : Tax) (now : DWord) (last : Option DWord) (fwd : Bool) : Tax :=
  match last with
  | some x =>
    let f := div0 100000000 (2 * (now - x).toNat : Nat)
    { t with speed := t.rpm (if fwd then f else -f) }
  | none => t

/-- The speed of a coasting axis, from the zero crossings of VU − VV and of VV − VW, each with the sign of the other for the
direction (R347). -/
def Tax.coastStep (t : Tax) (now : DWord) (u v w : BitVec 12) : Tax :=
  let uv := decide (v < u)
  let vw := decide (w < v)
  let was := t.lineUp.getD (uv, vw)
  let t := { t with lineUp := some (uv, vw) }
  let t := if uv = was.1 then t else { t.crossing now t.crossUv (uv != vw) with crossUv := some now }
  if vw = was.2 then t else { t.crossing now t.crossVw (uv == vw) with crossVw := some now }

/-! ## The control period -/

/-- Closed loop for one period, with the return to I/f (R338 step 5). -/
def Dev.closed (d : Dev) (n : Fin 4) : Dev :=
  let t := d.mot.tax[n]
  let b := d.mot.bus
  if h : 1 ≤ t.angleSrc ∧ t.angleSrc ≤ 4 then
    let c := d.pos.enc[t.angleSrc - 1].copies[0]
    d.modTax n fun t => { t with speed := t.encRpm c }.ramp.closedStep b.volts b.regenLimit (t.encAngle c)
  else
    let t := { t with speed := t.rpm t.w }.ramp
    let left := toward 0 (|t.slewStep| * t.period) t.slew
    let t := { t with slew := left }
    let t := t.closedStep b.volts b.regenLimit (t.th + left)
    let t := if t.low3 t.speed && t.low3 t.ref then
        { t with state := 1, follow := true, olAngle := wrapT (t.th + left), olFreq := t.speed, agree := 0, slew := 0 }
      else t
    d.modTax n fun _ => t

/-- The sampled currents reach the axis; a phase above 1.25 × ImaxMa raises TAX_OVERCURRENT (R352). -/
def Dev.taxSample (d : Dev) (n : Fin 4) (u v w : Rat) : Dev :=
  let t := d.mot.tax[n]
  match t.sample u v w with
  | none =>
    let i := t.predictI d.mot.bus.volts
    d.modTax n fun t => { t.countSkip true with ia := i.1, ib := i.2 }
  | some xs =>
    let i := clarke (xs.getD 0 0) (xs.getD 1 0) (xs.getD 2 0)
    let d := d.modTax n fun t => { t.countSkip false with ia := i.1, ib := i.2 }
    let lim : Rat := t.imax.toNat * 125 / 100000
    if (if t.duty.isEmpty then xs else t.measured xs).any fun x => decide (lim < |x|) then d.detect (idTaxOver n.val) else d

/-- The observer and the loops of a period, and the currents it reports, in mA and the frame without the advance. -/
def Dev.taxLoops (d : Dev) (n : Fin 4) (xs : List Rat) (vu vv vw : BitVec 12) : Dev :=
  let d := d.modTax n fun t => t.observe d.mot.bus.volts (t.ia, t.ib)
  let t := d.mot.tax[n]
  let b := d.mot.bus
  let d :=
    if t.aligning then d.modTax n fun t => t.drive b.volts 0 0 (t.ifCurrent.toNat / 1000) 0
    else if t.state = 1 then
      d.modTax n fun t => t.ramp.ifStep b.volts b.regenLimit
    else if t.state = 2 then d.closed n
    else if t.state = 3 then d.recatchStep n xs
    else if t.state = 4 then d.modTax n fun t => t.coastStep d.sys.now vu vv vw
    else d
  d.modTax n fun t =>
    let i := park t.angle (t.ia, t.ib)
    { t with id := 1000 * i.1, iq := 1000 * i.2 }

/-- TAX_CONTROL_PERIOD (R333). Late duties leave the previous ones in force and count one. An axis whose gates are held
low, in TEST too, takes its set-points and does no more (R195); a disabled one only follows its cap (R344). -/
def Dev.taxPeriod (d : Dev) (n : Fin 4) (i v : List (BitVec 12)) (late : Bool) : Dev :=
  let t := d.mot.tax[n]
  if !d.hasTax || d.sys.held || d.mode = mFallow || !t.configured then d else
  if !t.on then d.applyCap n else
  let d := if late then (d.modTax n fun t => { t with late := satInc t.late }).detect (idTaxLate n.val)
    else d.normal (idTaxLate n.val)
  let d := (d.takeSetpoint n).applyCap n
  if t.state = 0 || d.mode = mTest then d else
  let xs := i.map t.amps
  let d := d.taxSample n (xs.getD 0 0) (xs.getD 1 0) (xs.getD 2 0)
  if d.mot.tax[n].state = 0 then d else
  let old := d.mot.tax[n].duty
  let d := d.taxLoops n xs (v.getD 0 0) (v.getD 1 0) (v.getD 2 0)
  let d := if late then d.modTax n fun t => { t with duty := old } else d
  let t := d.mot.tax[n]
  let d := d.emit (.gates n.val t.gateNs)
  if t.stopping && (d.mot.bus.regenLimit || (t.low3 t.speed && (t.state = 1 || t.state = 2))) then d.taxDisable n else d

/-- TAX_CONTROL_PERIOD. -/
def execTaxControlPeriod (axis : Fin 4) (iu iv iw vu vv vw : BitVec 12) (late : Bool) (s : State) : Out :=
  onDev (fun s => s.dev.taxPeriod axis [iu, iv, iw] [vu, vv, vw] late) s

/-! ## Events of an axis -/

/-- ROTOR_LOSS: a condition of R345 has held for 2 ms, in State 2 with the flux observer: TRANSPORT kind 1, then recatch or
coast. -/
def Dev.rotorLoss (d : Dev) (n : Fin 4) : Dev :=
  let t := d.mot.tax[n]
  if t.state ≠ 2 || t.angleSrc ≠ 0 || !t.lossy then d else
  let d := d.taxEvent n 1
  if t.coast then d.modTax n fun t => { t.gatesOff with state := 4 }
  else d.modTax n fun t => t.recatchFrom d.sys.now d.sys.now false

/-- ROTOR_LOSS. -/
def execRotorLoss (axis : Fin 4) (s : State) : Out := onDev (fun s => s.dev.rotorLoss axis) s

/-- The I/f frequency is held at 4 % of RatedRpm (R338 step 2). -/
def Tax.holding (t : Tax) : Bool :=
  t.state == 1 && !t.aligning && t.angleSrc == 0 && decide (|t.olFreq| = (4 * t.ratedRpm : Nat) / (100 : Rat))

/-- TAX_LOST: the 500 ms of R338 step 4, or the 10 ms of R346 with every gate off. -/
def Dev.taxLost (d : Dev) (n : Fin 4) : Dev :=
  let t := d.mot.tax[n]
  if t.state = 3 then (d.modTax n Tax.gatesOff).detect (idTaxLost n.val)
  else if t.holding then d.detect (idTaxLost n.val)
  else d

/-- TAX_LOST. -/
def execTaxLost (axis : Fin 4) (s : State) : Out := onDev (fun s => s.dev.taxLost axis) s

/-- ENCODER_ALIGN_DONE: the count is recorded as zero; closed loop (R340). -/
def Dev.alignDone (d : Dev) (n : Fin 4) : Dev :=
  let t := d.mot.tax[n]
  if h : 1 ≤ t.angleSrc ∧ t.angleSrc ≤ 4 then
    if t.aligning then
      let c := d.pos.enc[t.angleSrc - 1].copies[0]
      d.modTax n fun t => { t with
        aligning := false, zero := c.count, state := 2, integ := 0, speed := t.encRpm c, ref := t.encRpm c }
    else d
  else d

/-- ENCODER_ALIGN_DONE. -/
def execEncoderAlignDone (axis : Fin 4) (s : State) : Out := onDev (fun s => s.dev.alignDone axis) s

/-- TARGET_SPEED_REACHED: TRANSPORT kind 0 when the reference is at the target and the estimate within 1 % of RatedRpm
of it, under I/f too (R343). -/
def Dev.targetReached (d : Dev) (n : Fin 4) : Dev :=
  let t := d.mot.tax[n]
  if (t.state = 2 || (t.state = 1 && !t.aligning)) && decide (t.ref = t.capped) && decide (|t.speed - t.ref| ≤ (t.ratedRpm : Rat) / 100) then d.taxEvent n 0
  else d

/-- TARGET_SPEED_REACHED. -/
def execTargetSpeedReached (axis : Fin 4) (s : State) : Out := onDev (fun s => s.dev.targetReached axis) s

/-- ACTIVE_SHORT_CIRCUIT_END: every gate off (R350). -/
def execActiveShortCircuitEnd (axis : Fin 4) (s : State) : Out :=
  onDev (fun s => if s.dev.mot.tax[axis].state = 5 then s.dev.taxDisable axis else s.dev) s

/-! ## The bus (R348 to R350) -/

/-- Consecutive samples at or beyond a threshold. -/
def runOf (b : Bool) (n : Nat) : Nat := if b then min (n + 1) 2 else 0

/-- The sample and its run lengths. -/
def Bus.sample (b : Bus) (code brake : BitVec 12) : Bus :=
  let n := b.braking + 1
  { b with
    code
    runOn := runOf (b.brkOn ≤ code) b.runOn, runOff := runOf (code ≤ b.brkOff) b.runOff
    runWarn := runOf (b.ovWarn ≤ code) b.runWarn, runTrip := runOf (b.ovTrip ≤ code) b.runTrip
    ovWarnActive := decide (b.ovWarn ≤ code)
    history := if b.gate then (code :: b.history).take 201 else []
    braking := if b.gate then n else 0
    lowRun := if b.gate && decide (5 < n) && decide (brake < b.brkIMin) then b.lowRun + 1 else 0 }

/-- The chopper has failed: too little current, or a rising bus (Table 14.2). -/
def Bus.failed (b : Bus) : Bool :=
  decide (10 ≤ b.lowRun) ||
    (match b.history[200]? with
     | some old => decide (old.toNat + b.riseCodes.toNat ≤ b.code.toNat)
     | none => false)

/-- The chopper's state machine (Table 14.2); BRK_GATE stays low in a KILL reaction and in HALTED (R350). -/
def Dev.chopper (d : Dev) : Dev :=
  let b := d.mot.bus
  if b.state = 0 && 2 ≤ b.runOn && d.mode ≠ mHalted && !d.killing then (d.modBus fun b => { b with state := 1 }).setBrk true
  else if b.state = 1 && b.failed then
    (((d.modBus fun b => { b with state := 2, regenLimit := true }).setBrk false).detect 0x00B)
  else if b.state = 1 && 2 ≤ b.runOff then (d.modBus fun b => { b with state := 0 }).setBrk false
  else d

/-- The overvoltage sources and the regeneration limit (Table 14.2). -/
def Dev.overvoltage (d : Dev) : Dev :=
  let b := d.mot.bus
  let d := if 2 ≤ b.runWarn then
      let d := d.modBus fun b => { b with regenLimit := true }
      if (d.src 0x00C).cause then d else d.detect 0x00C
    else if !b.ovWarnActive then d.causeGone 0x00C else d
  let d := if decide (b.code < b.brkOn) && b.state ≠ 2 then d.modBus fun b => { b with regenLimit := false } else d
  if 2 ≤ b.runTrip then (if (d.src 0x00D).cause then d else d.detect 0x00D)
  else if decide (b.code < b.ovTrip) then d.causeGone 0x00D else d

/-- BUS_SAMPLE. Axes that ramp down in a STOP reaction turn their gates off under the regeneration limit (R351). Without transport axes the monitor is off (Table 2.6); before a BUS_CONFIG there are no thresholds. -/
def Dev.busSample (d : Dev) (code brake : BitVec 12) : Dev :=
  if !d.hasTax || d.sys.held || d.mode = mFallow then d
  else if !d.mot.bus.configured then d.modBus fun b => { b with code }
  else
    let d := ((d.modBus fun b => b.sample code brake).chopper).overvoltage
    if d.mot.bus.regenLimit then
      (fins 4).foldl (fun d n => if d.mot.tax[n].stopping then d.taxDisable n else d) d
    else d

/-- BUS_SAMPLE. -/
def execBusSample (bus brake : BitVec 12) (s : State) : Out := onDev (fun s => s.dev.busSample bus brake) s

/-! ## Commands -/

/-- A transport axis that the variant has. -/
def Ctx.needTax (c : Ctx) : Chk (Fin 4) := do
  needP c.d.hasTax 0
  if h : pU c.ps 0 1 < 4 then return ⟨pU c.ps 0 1, h⟩ else throw (stBadParam, 24)

/-- TAX_CONFIG (Table 6.22, R170). -/
def taxConfigCmd (c : Ctx) : Chk (Dev × Finish) := do
  let ps := c.ps
  let n ← c.needTax
  needRange ps 1 1 1 32
  needRange ps 2 1 0 4
  needRange ps 3 1 0 1
  needRange ps 4 2 8000 40000
  needRange ps 6 2 5 500
  needP (2 * pU ps 6 2 * pU ps 4 2 < 100000000) 6
  needRange ps 8 2 200 5000
  needP (2 * pU ps 8 2 * pU ps 4 2 < 1000000000) 8
  needRange ps 10 2 1 30000
  needRange ps 12 4 0 0x7FFFFFFF
  needRange ps 16 4 0 0x7FFFFFFF
  needRange ps 20 4 1 1000000
  needFree (!c.d.mot.tax[n].on)
  return (c.d.modTax n fun t => { t with
    configured := true, polePairs := pU ps 1 1, angleSrc := pU ps 2 1, coast := pU ps 3 1 == 1, pwmHz := pU ps 4 2
    deadTime := pU ps 6 2, tMinNs := pU ps 8 2, ratedRpm := pU ps 10 2, kp := pU ps 12 4, ki := pU ps 16 4
    accelMax := pU ps 20 4 }, .ok [])

/-- TAX_CONFIG's row of Table 6.2. -/
def specTaxConfig : CmdSpec :=
  { opcode := 0x80, variant := 0, modes := setO, role := atLeast rService, len := lenIs 24 }

/-- TAX_CONFIG. -/
def execTaxConfig (p : Packet) (s : State) : Out := onDev (cmdDev specTaxConfig taxConfigCmd p) s

/-- TAX_ADVANCE (R171). -/
def taxAdvanceCmd (c : Ctx) : Chk (Dev × Finish) := do
  let n ← c.needTax
  needZero c.ps 1 1
  needFree (!c.d.mot.tax[n].on)
  let entry := fun (i : Nat) (_ : BitVec 16) => BitVec.ofNat 16 (pU c.ps (2 + 2 * i) 2)
  return (c.d.modTax n fun t => { t with advance := vallIdx entry t.advance }, .ok [])

/-- TAX_ADVANCE's row of Table 6.2. -/
def specTaxAdvance : CmdSpec :=
  { opcode := 0x81, variant := 0, modes := setO, role := atLeast rService, len := lenIs 66 }

/-- TAX_ADVANCE. -/
def execTaxAdvance (p : Packet) (s : State) : Out := onDev (cmdDev specTaxAdvance taxAdvanceCmd p) s

/-- What R337 and R329 ask of an axis that is to be enabled; an axis that TAX_CONFIG never set has no PwmHz. -/
def Dev.taxReady (d : Dev) (n : Fin 4) : Bool :=
  let t := d.mot.tax[n]
  t.configured && t.rs != 0 && t.ls != 0 && t.psi != 0 && t.imax != 0 && t.shunt != 0
    && d.mot.bus.scale != 0 && d.mot.bus.pscale != 0
    && (if h : 1 ≤ t.angleSrc ∧ t.angleSrc ≤ 4 then d.pos.enc[t.angleSrc - 1].cfg.mode != 0 else true)

/-- An axis starts: alignment with an encoder source, else a recatch (R340, R347). A contained axis keeps its gates
off. -/
def Dev.taxStart (d : Dev) (n : Fin 4) : Dev :=
  let d := d.modTax n fun t => { t with enable := Tv.mk3 1, stopping := false }
  let gated := d.contained (.transport n) || d.mode = mTest
  if gated then d
  else if d.mot.tax[n].angleSrc = 0 then
    d.modTax n fun t => { t.recatchFrom d.sys.now d.sys.now true with ref := t.speed, duty := [] }
  else d.modTax n fun t => { t with state := 1, aligning := true, ref := t.speed, idInteg := 0, iqInteg := 0 }

/-- TAX_ENABLE (R171, R337, R347). -/
def taxEnableCmd (c : Ctx) : Chk (Dev × Finish) := do
  let n ← c.needTax
  needRange c.ps 1 1 0 1
  if pU c.ps 1 1 = 0 then return (c.d.taxDisable n, .ok []) else
  needP (c.d.taxReady n) 0
  needFree c.d.mot.bus.configured
  if c.d.mot.tax[n].on && c.d.mot.tax[n].state ≠ 0 then return (c.d, .ok []) else
  return (c.d.taxStart n, .ok [])

/-- TAX_ENABLE's row of Table 6.2. -/
def specTaxEnable : CmdSpec :=
  { opcode := 0x82, variant := 0, modes := setO, role := atLeast rOperator, len := lenIs 2 }

/-- TAX_ENABLE. -/
def execTaxEnable (p : Packet) (s : State) : Out := onDev (cmdDev specTaxEnable taxEnableCmd p) s

/-- TAX_SPEED (R172): parked while the axis's queue is full (R195). -/
def taxSpeedCmd (c : Ctx) : Chk (Dev × Finish) := do
  let n ← c.needTax
  let t := c.d.mot.tax[n]
  needZero c.ps 1 3
  needRangeI c.ps 4 4 (-(100 * t.ratedRpm : Nat)) (100 * t.ratedRpm : Nat)
  needRange c.ps 8 4 0 1000000
  if t.on && 16 ≤ t.queue.length then return (c.d, .park .axisQueue)
  else return (c.d.modTax n (·.push (speedCmd c.ps)), .ok [])

/-- TAX_SPEED's row of Table 6.2. -/
def specTaxSpeed : CmdSpec :=
  { opcode := 0x83, variant := 0, modes := setO, role := atLeast rOperator, len := lenIs 12 }

/-- TAX_SPEED. -/
def execTaxSpeed (p : Packet) (s : State) : Out := onDev (cmdDev specTaxSpeed taxSpeedCmd p) s

/-- TAX_MASTER (R173): an enabled axis, and a swath with an armed or active job, are in use (R140). -/
def taxMasterCmd (c : Ctx) : Chk (Dev × Finish) := do
  let n ← c.needTax
  needZero c.ps 1 1
  needRange c.ps 4 4 1 0xFFFFFFFF
  let mask := BitVec.ofNat 16 (pU c.ps 2 2)
  needFree ((fins 4).all fun k => k == n || (c.d.mot.tax[k].masterOf &&& mask) == 0)
  needFree (!c.d.mot.tax[n].on && (fins 16).all fun s => !mask.getLsbD s.val || !c.d.swathInUse s)
  return (c.d.modTax n fun t => { t with masterOf := mask, countsPerRev := pU c.ps 4 4 }, .ok [])

/-- TAX_MASTER's row of Table 6.2. -/
def specTaxMaster : CmdSpec :=
  { opcode := 0x84, variant := 0, modes := setO, role := atLeast rService, len := lenIs 8 }

/-- TAX_MASTER. -/
def execTaxMaster (p : Packet) (s : State) : Out := onDev (cmdDev specTaxMaster taxMasterCmd p) s

/-- BUS_CONFIG (R174): with every axis disabled it also leaves LIMITED (Table 14.2). -/
def busConfigCmd (c : Ctx) : Chk (Dev × Finish) := do
  let ps := c.ps
  needRange ps 0 2 0 4095
  needRange ps 2 2 0 4095
  needP (pU ps 0 2 < pU ps 2 2) 2
  needRange ps 4 2 0 4095
  needP (pU ps 2 2 < pU ps 4 2) 4
  needRange ps 6 2 0 4095
  needP (pU ps 4 2 < pU ps 6 2) 6
  needFree ((fins 4).all fun n => !c.d.mot.tax[n].on)
  let limited := c.d.mot.bus.state = 2
  let d := c.d.modBus fun b => { b with
    configured := true, brkOff := BitVec.ofNat 12 (pU ps 0 2), brkOn := BitVec.ofNat 12 (pU ps 2 2)
    ovWarn := BitVec.ofNat 12 (pU ps 4 2), ovTrip := BitVec.ofNat 12 (pU ps 6 2)
    state := if b.state = 2 then 0 else b.state
    regenLimit := b.regenLimit && b.state != 2
    runOn := 0, runOff := 0, runWarn := 0, runTrip := 0 }
  return (if limited then d.causeGone 0x00B else d, .ok [])

/-- BUS_CONFIG's row of Table 6.2. -/
def specBusConfig : CmdSpec :=
  { opcode := 0x85, variant := 0, modes := setO, role := atLeast rService, len := lenIs 8 }

/-- BUS_CONFIG. -/
def execBusConfig (p : Packet) (s : State) : Out := onDev (cmdDev specBusConfig busConfigCmd p) s

/-- A current in mA as a signed 16-bit field. -/
def mA16 (x : Rat) : Nat := sfld 0 16 (max (-32768) (min 32767 (roundAway x)))

/-- TAX_STATUS (Table 6.23). -/
def taxStatusCmd (c : Ctx) : Chk (Dev × Finish) := do
  let n ← c.needTax
  let t := c.d.mot.tax[n]
  let b := c.d.mot.bus
  return (c.d, .ok (
    leBytes 1 t.state.toNat ++ leBytes 1 (fld 0 1 (bit t.capActive) + fld 1 1 (bit t.dutyClamp) + fld 2 1 (bit b.gate))
    ++ [0, 0] ++ le4 (rpmWord t.speed).toNat ++ le4 (rpmWord t.capped).toNat ++ leBytes 2 (mA16 t.iq)
    ++ leBytes 2 (mA16 t.id) ++ leBytes 2 b.code.toNat ++ [0, 0]))

/-- TAX_STATUS's row of Table 6.2. -/
def specTaxStatus : CmdSpec :=
  { opcode := 0x86, variant := 0, modes := setA, role := atLeast rObserver, len := lenIs 1 }

/-- TAX_STATUS. -/
def execTaxStatus (p : Packet) (s : State) : Out := onDev (cmdDev specTaxStatus taxStatusCmd p) s

end Sys2Proof.Machine
end

