-- ==== Sys2Proof/Machine/Auxiliary.lean ====
section
/-! DEFINITION. Auxiliary axes: profiles, windings, stall, gearing, switches, homing, and the auxiliary commands
(R175, R176, R355 to R374). Quantities are exact rationals in V, A, s and microsteps (log 21). -/

namespace Sys2Proof.Machine

/-! ## Parameters -/

/-- Control period in s. -/
def Aux.period (a : Aux) : Rat := div0 1 (1000 * a.pwmKhz.toNat : Nat)

/-- Bridge supply in V (R358). -/
def Motion.vAux (m : Motion) : Rat := if m.vbusSrc then m.bus.volts else m.vbusMv.toNat / (1000 : Rat)

/-- A winding current in A (R357). -/
def Aux.amps (a : Aux) (code : BitVec 12) : Rat := (((code.toNat : Int) - 2048 : Int) : Rat) * a.iscale.toNat / 1000000

/-- The axis moves: its speed is not 0, or a motion is under way or queued. -/
def Aux.moving (a : Aux) : Bool :=
  a.speed != 0 || a.state == 2 || a.state == 3 || a.move.isSome || a.stopping.isSome || a.followOn.isSome
    || a.queue.any fun (q : AuxCmd) => match q with
      | .move _ _ => true
      | _ => false

/-- The axis is enabled and energised. -/
def Aux.live (a : Aux) : Bool := a.on && a.state != 0

/-- An AUX event: bytes 0 to 3 the position (Table 6.28). -/
def Dev.auxEvent (d : Dev) (n : Fin 8) (kind : Nat) : Dev :=
  d.event evAux kind n.val (le4 d.mot.aux[n].pos.toNat)

/-- The position moves by a rational number of microsteps; `pos` holds the whole part. -/
def Aux.shift (a : Aux) (x : Rat) : Aux :=
  let y := a.posFrac + x
  { a with pos := a.pos + BitVec.ofInt 32 y.floor, posFrac := y - y.floor }

/-- The axis stands still at once. -/
def Aux.halt (a : Aux) (state : BitVec 3) : Aux :=
  { a with
    state, speed := 0, posFrac := 0, move := none, followOn := none, stopping := none, cruise := false, braking := false
    homing := none, gear := none, gearNext := none, stopEvent := none }

/-! ## Profiles and set-points (R195, R359 to R363) -/

/-- The least deceleration that stops a speed within a distance. -/
def leastDecel (v dist : Rat) : Nat := if dist = 0 then 0 else (v * v / (2 * dist)).ceil.toNat

/-- The remaining distance to the target of a move. -/
def Aux.remaining (a : Aux) (m : Move) : Rat := ((m.target - a.pos).toInt : Rat) - a.posFrac

/-- A speed ramps toward a goal and the position follows. -/
def Aux.ramp (a : Aux) (goal : Rat) (rate : Nat) : Aux :=
  let v := toward goal ((rate : Rat) * a.period) a.speed
  { a.shift ((a.speed + v) / 2 * a.period) with speed := v }

/-- The greatest speed of at least 0 at the end of a period begun at speed `s` from which a deceleration still ends within
the distance left then. -/
def Aux.stopSpeed (a : Aux) (decel : Nat) (s dist : Rat) : Rat :=
  let k := decel * a.period
  max 0 ((ratSqrt (k * k + 4 * max 0 (2 * decel * dist - k * s)) - k) / 2)

/-- One period of a trapezoid: it accelerates or keeps Vmax as long as it can still stop at the target, turns into the
deceleration, and lands on the target; `true` when it arrives (R360). A Vmax below the present speed is approached at Decel
from a cruise too (R361). -/
def Aux.trapezoid (a : Aux) (m : Move) : Aux × Bool :=
  let T := a.period
  let rem := a.remaining m
  let sg : Rat := if rem < 0 then -1 else 1
  let dist := |rem|
  let s := if a.speed * sg < 0 then 0 else |a.speed|
  let stops := fun (v x : Rat) => decide (v * v ≤ 2 * m.decel * (dist - x))
  let up := if m.vmax < s then max (m.vmax : Rat) (s - m.decel * T) else min (m.vmax : Rat) (s + m.accel * T)
  let top := min up (a.stopSpeed m.decel s dist)
  let free := !a.cruise && !a.braking
  let go := fun (v : Rat) (braking cruise : Bool) =>
    ({ a.shift (sg * (s + v) / 2 * T) with speed := sg * v, braking, cruise }, false)
  if (free || decide (m.vmax < s)) && up ≠ 0 && stops up ((s + up) / 2 * T) then go up false (a.cruise && decide (m.vmax < s))
  else if free && decide (s < top) && stops top ((s + top) / 2 * T) then go top false false
  else if s ≠ 0 && stops s (s * T) && (a.cruise || !a.braking) then go s false a.cruise
  else
    let v := s - m.decel * T
    if v ≤ 0 || dist ≤ (s + v) / 2 * T then
      ({ a with pos := m.target, posFrac := 0, speed := 0, braking := false, cruise := false }, true)
    else go v true false

/-- A higher Vmax resumes acceleration where the distance allows (R361): the deceleration is left when even one more
period at speed still lets the axis stop. -/
def Aux.unbrake (a : Aux) (m : Move) : Aux :=
  let s := |a.speed|
  if a.braking && !a.cruise && decide (s * s < 2 * m.decel * (|a.remaining m| - s * a.period)) then
    { a with braking := false }
  else a

/-- The move of an axis that goes on beyond this period; none in homing or gearing. -/
def Aux.running (a : Aux) : Option Move :=
  match a.homing, a.gear, a.move with
  | none, none, some m => if !a.idle && ((a.unbrake m).trapezoid m).2 then none else some m
  | _, _, _ => none

/-- A new profile on an axis: the values, whether ACCEL_OVERRIDDEN was set now, and DecelUsed (R361). Its Accel also applies
to later moves (log 21). Without a move, and in the period in which the move ends (R374), it is kept for the next one. -/
def Aux.reprofile (a : Aux) (vmax accel decel : Nat) : Aux × Bool × Nat :=
  match a.running with
  | some m =>
    let need := leastDecel a.speed |a.remaining m|
    let used := max decel need
    let early := a.braking && decide (need < used)
    ({ a with
        move := some { m with vmax, accel, decel := used }, moveAccel := some accel, lastDecel := some used
        accelOverridden := a.accelOverridden || decide (decel < need)
        cruise := a.cruise || early }, decide (decel < need), used)
  | none => ({ a with nextProfile := some (vmax, accel, decel), lastDecel := some decel }, false, decel)

/-- A move starts: the Accel of a profile taken in an earlier move, then a profile kept for it, replace its own values. -/
def Aux.startMove (a : Aux) (m : Move) : Aux :=
  let m := { m with accel := a.moveAccel.getD m.accel }
  let m := match a.nextProfile with
    | some p => { m with vmax := p.1, accel := p.2.1, decel := p.2.2 }
    | none => m
  { a with
    move := some m, nextProfile := none, lastDecel := some m.decel, state := 2, accelOverridden := false, cruise := false
    braking := false }

/-- The parked entry whose AUX_PROFILE was queued first on an axis. -/
def Dev.parkedProfile (d : Dev) (n : Nat) : Option WorkEntry :=
  d.ses.work.find? fun (e : WorkEntry) =>
    e.park == some .profile && e.packet.opcode == 0x93 && pU (pktParams e.packet) 0 1 == n

/-- AUX_PROFILE is taken and answered. -/
def Dev.takeProfile (d : Dev) (n : Fin 8) (vmax accel decel : Nat) : Dev :=
  let r := d.mot.aux[n].reprofile vmax accel decel
  let moving : Bool := d.mot.aux[n].running.isSome
  let d := d.modAux n fun _ => r.1
  let d := if r.2.1 then d.auxEvent n 3 else d
  match d.parkedProfile n.val with
  | some e => d.answer e.packet stOk noField
      (leBytes 1 (if moving = true then bit d.mot.aux[n].accelOverridden else 0) ++ [0, 0, 0] ++ le4 r.2.2)
  | none => d

/-- AUX_STOP is taken (R363, R374). Nothing changes on an axis at standstill. One that a STOP reaction ramps down
de-energises where it is stopped at once (R364). -/
def Dev.takeStop (d : Dev) (n : Fin 8) (now : Bool) : Dev :=
  let a := d.mot.aux[n]
  if a.state = 1 || a.state = 5 || a.state = 0 then d
  else if now then
    let d := (d.modAux n fun a => { a.halt 1 with posValid := false }).auxEvent n 2
    if a.deenergise then d.auxOff n else d
  else if a.speed = 0 && a.state ≠ 4 && a.homing.isNone then (d.modAux n (·.halt 1)).auxEvent n 2
  else d.modAux n fun a => a.beginStop (some 2)

/-- One set-point acts. -/
def Dev.auxAct (d : Dev) (n : Fin 8) : AuxCmd → Dev
  | .move rel m => d.modAux n fun a => a.startMove (if rel then { m with target := a.pos + m.target } else m)
  | .profile v x y => d.takeProfile n v x y
  | .stop now => d.takeStop n now

/-- The set-point that a command carries; the variant selects it (R175). -/
def auxCmdOf (opcode variant : Nat) (ps : List Byte) : AuxCmd :=
  if opcode = 0x92 then
    .move (variant == 2) { target := BitVec.ofNat 32 (pU ps 4 4), vmax := pU ps 8 4, accel := pU ps 12 4, decel := pU ps 16 4 }
  else if opcode = 0x93 then .profile (pU ps 4 4) (pU ps 8 4) (pU ps 12 4)
  else .stop (variant == 1)

/-- A set-point goes to the axis's queue. -/
def Aux.push (a : Aux) (c : AuxCmd) : Aux := { a with queue := a.queue ++ [c] }

/-- The opcodes whose set-points go through the queue. -/
def auxQueued (opcode : Nat) : Bool := opcode == 0x92 || opcode == 0x93 || opcode == 0x94

/-- Commands that wait on an axis: for a slot, or for their set-point to be taken. -/
def Dev.parkedAux (d : Dev) (n : Nat) : List WorkEntry :=
  d.ses.work.filter fun (e : WorkEntry) =>
    (e.park == some .axisQueue || e.park == some .profile) && auxQueued e.packet.opcode.toNat
      && pU (pktParams e.packet) 0 1 == n

/-- The first command that waits for a slot gets it. -/
def Dev.wakeAux (d : Dev) (n : Fin 8) : Dev :=
  match (d.parkedAux n.val).find? fun (e : WorkEntry) => e.park == some .axisQueue with
  | some e =>
    let d := d.modAux n (·.push (auxCmdOf e.packet.opcode.toNat e.packet.variant.toNat (pktParams e.packet)))
    if e.packet.opcode = 0x93 then d.finish e.packet (.park .profile) else d.answer e.packet stOk noField []
  | none => d

/-- An axis that loses its current answers the commands that wait on it: it is not enabled any more (R175). -/
def Dev.dropAux (d : Dev) (n : Fin 8) : Dev :=
  (d.parkedAux n.val).foldl (fun d e => d.answer e.packet stBadParam 24 []) d

/-- A set-point is a move. -/
def AuxCmd.isMove : AuxCmd → Bool
  | .move _ _ => true
  | _ => false

/-- The axis takes one set-point; a follow-on starts in the period after its move, not before a move that still waits in the
queue (R362). -/
def Dev.auxTake (d : Dev) (n : Fin 8) : Dev :=
  let a := d.mot.aux[n]
  let d := if a.move.isNone && a.stopping.isNone && a.homing.isNone && a.gear.isNone
      && !a.queue.any AuxCmd.isMove then
      match a.followOn with
      | some m => d.modAux n fun a =>
          if a.posValid then { a with followOn := none }.startMove m else { a with followOn := none, state := 1 }
      | none => d
    else d
  match d.mot.aux[n].queue with
  | c :: cs => ((d.modAux n fun a => { a with queue := cs }).auxAct n c).wakeAux n
  | [] => d

/-! ## Stall (R365, R366) -/

/-- The stall of an axis outside stall homing. Homing that it ends ends with AUX kind 1 (R176). On an axis that a STOP
reaction ramps down, the reaction prevails, and AUX_STALL is still raised (R374). -/
def Dev.auxStall (d : Dev) (n : Fin 8) : Dev :=
  if d.mot.aux[n].deenergise then
    (d.modAux n fun a => { a with posValid := false, stalls := satInc a.stalls, stallRun := 0 }).detect (idAuxStall n.val)
  else
  let homing := d.mot.aux[n].homing.isSome
  let d := d.modAux n fun a => { a.halt 5 with posValid := false, stalls := satInc a.stalls, stallRun := 0 }
  (if homing then d.auxEvent n 1 else d).detect (idAuxStall n.val)

/-- Stall homing proceeds to its home point and backs off further (R372). -/
def Aux.stallHome (a : Aux) (h : Homing) : Aux :=
  let away : Int := if h.negative then 1 else -1
  { a with
    speed := 0, posFrac := 0, stallRun := 0, homing := some { h with step := 4, mark := a.stallStart }
    move := some { target := a.stallStart + BitVec.ofInt 32 (away * h.backoff), vmax := h.slowV, accel := h.accel, decel := h.accel }
    braking := false, cruise := false }

/-- A full step has ended: whether its mean load angle qualifies, and the fourth in a row stalls the axis. -/
def Dev.fullStep (d : Dev) (n : Fin 8) (old : Word) : Dev :=
  let a := d.mot.aux[n]
  let b := fun (p : Word) => p.toNat / 256
  if b old = b a.pos then d else
  let edge := if a.speed < 0 then BitVec.ofNat 32 ((b a.pos + 1) * 256) else BitVec.ofNat 32 (b a.pos * 256)
  let mean := div0 a.loadSum a.loadN
  let high := a.loadN != 0 && !a.loadLow && decide ((a.stallDeg.toNat : Rat) * 1024 / 360 < mean)
  let d := d.modAux n fun a => { a with
    stallRun := if high then a.stallRun + 1 else 0
    stallStart := if high && a.stallRun = 0 then a.stepStart else a.stallStart
    stepStart := edge, loadSum := 0, loadN := 0, loadLow := false }
  if 4 ≤ d.mot.aux[n].stallRun then
    match d.mot.aux[n].homing with
    | some h => if h.method = 2 && h.step = 5 then d.modAux n (·.stallHome h) else d.auxStall n
    | none => d.auxStall n
  else d

/-- The load angle of a period in microsteps, from the winding voltages and currents. -/
def Aux.loadAngle (a : Aux) (vA vB iA iB : Rat) : Rat :=
  let e := fun (v i di : Rat) => v - a.rmOhm.toNat / 1000 * i - div0 ((a.lmUh.toNat : Rat) / 1000000 * di) a.period
  let eA := e vA iA (iA - a.ia)
  let eB := e vB iB (iB - a.ib)
  let sg : Rat := if a.speed < 0 then -1 else 1
  let phi : Rat := (a.pos.toNat % 1024 : Nat) / 1024
  sg * wrapT (phi - (argT (eA, eB) - sg / 4)) * 1024

/-! ## Windings (R356, R357) -/

/-- The winding voltages and duties of a period, the load angle, and the currents kept for the next. -/
def Aux.wind (a : Aux) (vbus iA iB : Rat) : Aux :=
  let i : Rat := (if a.idle then a.irunMa.toNat * a.idlePct.toNat / (100 : Rat) else a.irunMa.toNat) / 1000
  let phi : Rat := (a.pos.toNat % 1024 : Nat) / 1024
  let rm : Rat := a.rmOhm.toNat / 1000
  let kc := rm * a.corrPct.toNat / 100
  let w := div0 (twoPi * a.speed) (256 * a.stepsPerRev.toNat : Nat)
  let ke : Rat := a.ke.toNat / 1000000
  let refA := i * cosT phi
  let refB := i * sinT phi
  let vA := rm * refA - ke * w * sinT phi + kc * (refA - iA)
  let vB := rm * refB + ke * w * cosT phi + kc * (refB - iB)
  let duty := fun (v : Rat) => max (1 / 100) (min (99 / 100) (1 / 2 + div0 v (2 * vbus)))
  let fast := decide (((256 * a.stepsPerRev.toNat : Nat) : Rat) ≤ |a.speed|)
  let l := if fast then a.loadAngle vA vB iA iB else 0
  { a with
    dutyA := duty vA, dutyB := duty vB, ia := iA, ib := iB
    load := (roundAway (|l| * 3600 / 1024)).toNat
    loadSum := a.loadSum + l, loadN := a.loadN + 1, loadLow := a.loadLow || !fast }

/-! ## Gearing (R367) -/

/-- The exact position of a gear at a count. -/
def Gear.at (g : Gear) (c : Word) : Rat := g.p0 + ((c - g.c0).toInt : Rat) * g.num / g.den

/-- A geared axis follows its channel; the gear is based anew at each period. -/
def Aux.follow (a : Aux) (g : Gear) (c : EncCopy) : Aux :=
  let p := g.at c.count
  let q := BitVec.ofInt 32 p.floor
  if a.idle && q ≠ a.pos then { a with idle := false }
  else { a with
    gear := some { g with c0 := c.count, p0 := p }, pos := q, posFrac := 0
    speed := if c.still then 0 else c.v * g.num / g.den }

/-- The exact position of an axis when channel `ch` is at count `c` and the others where they are. -/
def Aux.exact (a : Aux) (count : Fin 4 → Word) (ch : Fin 4) (c : Word) : Rat :=
  match a.gear with
  | some g => g.at (if g.channel = ch then c else count g.channel)
  | none => (a.pos.toInt : Rat) + a.posFrac

/-- A gear engages at a count of its channel: its p0 is the position then, by the gear in force until now. -/
def Aux.engage (a : Aux) (count : Fin 4 → Word) (g : Gear) (c : Word) : Aux :=
  { a with gear := some { g with c0 := c, p0 := a.exact count g.channel c }, gearNext := none, state := 4 }

/-- The hub's count of a channel. -/
def Dev.countOf (d : Dev) (ch : Fin 4) : Word := (d.pos.enc[ch].copies[0]).count

/-- The hub's count of a channel moves: pending gears engage at a forward crossing of At, not on a stalled axis (R366). -/
def Dev.gearCrossings (d : Dev) (ch : Fin 4) (old new : Word) : Dev :=
  (fins 8).foldl (fun d n =>
    let a := d.mot.aux[n]
    match a.gearNext with
    | some g =>
      if a.live && a.state != 5 && g.channel == ch && crossesForward old new g.c0 then d.modAux n (·.engage d.countOf g g.c0)
      else d
    | none => d) d

/-! ## Homing (R369 to R373) -/

/-- Sign of Dir. -/
def Homing.sign (h : Homing) : Rat := if h.negative then -1 else 1

/-- The axis has come to standstill: a follow-on queued meanwhile starts in the next period (R362). -/
def Aux.rest (a : Aux) : Aux :=
  { a.halt (if a.followOn.isSome then 2 else 1) with followOn := a.followOn }

/-- Homing completes: POS_VALID, AUX kind 1. -/
def Dev.homeDone (d : Dev) (n : Fin 8) : Dev :=
  (d.modAux n fun a => { a.rest with posValid := true }).auxEvent n 1

/-- Homing fails at a limit (R373). -/
def Dev.homeFail (d : Dev) (n : Fin 8) : Dev :=
  ((d.modAux n fun a => { a.halt 1 with posValid := false }).detect (idHomeFail n.val)).auxEvent n 1

/-- The latched point becomes 0 and the axis decelerates (step 6). -/
def Aux.redefine (a : Aux) (h : Homing) (p : Word) : Aux :=
  { a with pos := a.pos - p, stepStart := a.stepStart - p, homing := some { h with step := 6, mark := 0 } }

/-- The distance an axis has gone from the latched point of a homing. -/
def Aux.fromMark (a : Aux) (h : Homing) : Nat := (a.pos - h.mark).toInt.natAbs

/-- One period of homing (Table 15.1, R371, R372). -/
def Dev.homeStep (d : Dev) (n : Fin 8) (h : Homing) : Dev :=
  let a := d.mot.aux[n]
  match a.move with
  | some m =>
    let r := a.trapezoid m
    if r.2 then (d.modAux n fun _ => { r.1 with pos := r.1.pos - h.mark }).homeDone n else d.modAux n fun _ => r.1
  | none =>
    let go := fun (v : Rat) => d.modAux n fun a => a.ramp v h.accel
    let step := fun (k : Nat) => d.modAux n fun a => { a with homing := some { h with step := k } }
    let back := h.released && decide (h.backoff ≤ a.fromMark h)
    if h.step = 2 then go (h.sign * h.fastV)
    else if h.step = 3 then (if a.speed = 0 then step 4 else go 0)
    else if h.step = 4 then (if back then (if a.speed = 0 then step 5 else go 0) else go (-h.sign * h.slowV))
    else if h.step = 5 then go (h.sign * h.slowV)
    else if a.speed = 0 then d.homeDone n
    else go 0

/-- An index of a channel: axes homing on it latch their position (R371). -/
def Dev.indexHoming (d : Dev) (ch : Fin 4) : Dev :=
  (fins 8).foldl (fun d n =>
    match d.mot.aux[n].homing with
    | some h => if h.method = 1 && h.switch = ch.val && h.step = 5 then d.modAux n fun a => a.redefine h a.pos else d
    | none => d) d

/-! ## The control period -/

/-- The axis comes to standstill at the end of a stop. -/
def Dev.auxStopped (d : Dev) (n : Fin 8) : Dev :=
  let a := d.mot.aux[n]
  let d := d.modAux n fun a => { a.rest with deenergise := false }
  let d := match a.stopEvent with
    | some k => d.auxEvent n k
    | none => d
  if a.deenergise then d.auxOff n else d

/-- The motion of one period. -/
def Dev.auxAdvance (d : Dev) (n : Fin 8) : Dev :=
  let a := d.mot.aux[n]
  let wake := fun (f : Dev → Dev) => if a.idle then d.modAux n fun a => { a with idle := false } else f d
  match a.stopping, a.homing, a.gear, a.move with
  | some r, _, _, _ => if a.speed = 0 then d.auxStopped n else d.modAux n fun a => a.ramp 0 r
  | none, some h, _, _ => wake fun d => d.homeStep n h
  | none, none, some g, _ => d.modAux n fun a => a.follow g d.pos.enc[g.channel].copies[0]
  | none, none, none, some m => wake fun d =>
    let r := (d.mot.aux[n].unbrake m).trapezoid m
    let d := d.modAux n fun _ => r.1
    if r.2 then (d.modAux n fun a => { a with move := none, state := if a.followOn.isSome then 2 else 1 }).auxEvent n 0 else d
  | none, none, none, none => d

/-- AUX_CONTROL_PERIOD (R357): currents, one set-point, the profile, stall, windings. -/
def Dev.auxPeriod (d : Dev) (n : Fin 8) (ca cb : BitVec 12) : Dev :=
  let a := d.mot.aux[n]
  if !d.hasAux || d.sys.held || d.mode = mFallow then d else if !a.live then d.dropAux n else
  let iA := a.amps ca
  let iB := a.amps cb
  let lim : Rat := a.irunMa.toNat * 125 / 100000
  let d := if lim < |iA| || lim < |iB| then d.detect (idAuxOver n.val) else d
  if !d.mot.aux[n].live then d else
  let old := a.pos
  let d := ((d.auxTake n).auxAdvance n)
  if !d.mot.aux[n].live then d else
  let d := d.fullStep n old
  if !d.mot.aux[n].live then d else d.modAux n fun a => a.wind d.mot.vAux iA iB

/-- AUX_CONTROL_PERIOD. -/
def execAuxControlPeriod (axis : Fin 8) (ia ib : BitVec 12) (s : State) : Out :=
  onDev (fun s => s.dev.auxPeriod axis ia ib) s

/-- IDLE_CURRENT: the current falls while the commanded speed is 0 (R359). -/
def Dev.idleCurrent (d : Dev) (n : Fin 8) : Dev :=
  d.modAux n fun a => if a.live && decide (a.speed = 0) && !a.moving then { a with idle := true } else a

/-- IDLE_CURRENT. -/
def execIdleCurrent (axis : Fin 8) (s : State) : Out := onDev (fun s => s.dev.idleCurrent axis) s

/-! ## Switches (R368, R369) -/

/-- One read of one switch. -/
def Switch.read (w : Switch) (level activeHigh : Bool) : Switch :=
  let held := if level = w.raw then w.heldReads + 1 else 0
  { w with
    raw := level, heldReads := held
    active := if w.debounceMs * 100 ≤ held then level == activeHigh else w.active }

/-- A switch by number. -/
def Motion.switch? (m : Motion) (n : Nat) : Option Switch := m.switches.toList[n]?

/-- A switch is active. -/
def Motion.switchOn (m : Motion) (n : Nat) : Bool :=
  match m.switch? n with
  | some w => w.active
  | none => false

/-- What a read of the switches does to an axis that homes; `toggled` are the switches whose raw level changed. -/
def Dev.homeSwitches (d : Dev) (n : Fin 8) (toggled : List Nat) : Dev :=
  let a := d.mot.aux[n]
  match a.homing with
  | none => d
  | some h =>
    let hits := (if h.method = 0 && toggled.contains h.switch then 1 else 0) + (if toggled.contains h.limit then 1 else 0)
    let edges := (h.edges ++ List.replicate hits d.sys.now).filter fun (t : DWord) =>
      decide ((d.sys.now - t).toNat < h.chatterWinMs * 100000)
    let h := { h with edges }
    let d := d.modAux n fun a => { a with homing := some h }
    let active := d.mot.switchOn h.switch
    if h.limit < 16 && d.mot.switchOn h.limit then d.homeFail n
    else if h.chatterN < edges.length then
      (d.modAux n fun a => { a.beginStop (some 1) with posValid := false }).detect (idHomeChatter n.val)
    else if h.method ≠ 0 then d
    else if h.step = 2 && active then d.modAux n fun a => { a with homing := some { h with step := 3 } }
    else if h.step = 4 && !h.released && !active then
      d.modAux n fun a => { a with homing := some { h with released := true, mark := a.pos } }
    else if h.step = 5 && active then
      let p := ((d.mot.switchEdge.toList.getD h.switch []).getD n.val 0)
      d.modAux n fun a => a.redefine h p
    else d

/-- SWITCH_READ, on every motion variant (R4, R368). -/
def Dev.switchRead (d : Dev) (levels : BitVec 16) : Dev :=
  if d.sys.held || d.mode = mFallow then d else
  let toggled := (List.range 16).filter fun i => d.mot.switches.toList[i]?.any fun (w : Switch) => w.raw != levels.getLsbD i
  let ps := d.mot.aux.toList.map fun (a : Aux) => a.pos
  let edge := fun (i : Nat) (x : List Word) => if toggled.contains i then ps else x
  let read := fun (i : Nat) (w : Switch) => w.read (levels.getLsbD i) (d.mot.swPol.getLsbD i)
  let d := d.modMot fun m => { m with
    switches := vallIdx read m.switches
    switchEdge := vallIdx edge m.switchEdge }
  (fins 8).foldl (fun d n => d.homeSwitches n toggled) d

/-- SWITCH_READ. -/
def execSwitchRead (levels : BitVec 16) (s : State) : Out := onDev (fun s => s.dev.switchRead levels) s

/-! ## Commands -/

/-- An auxiliary axis that the variant has. -/
def Ctx.needAux (c : Ctx) : Chk (Fin 8) := do
  needP c.d.hasAux 0
  if h : pU c.ps 0 1 < 8 then return ⟨pU c.ps 0 1, h⟩ else throw (stBadParam, 24)

/-- An enabled auxiliary axis (R175). DESIGN CHOICE: one whose Enable is 1 but whose gates are held low (State 0, under
CONTAIN or in TEST) counts as not enabled; the spec does not say (log 26). -/
def Ctx.needLive (c : Ctx) : Chk (Fin 8) := do
  let n ← c.needAux
  needP c.d.mot.aux[n].live 0
  return n

/-- A speed or an acceleration of the motion commands. -/
def needRate (ps : List Byte) (offset : Nat) : Chk Unit := needRange ps offset 4 1 16777215

/-- AUX_CONFIG (Table 6.24). -/
def auxConfigCmd (c : Ctx) : Chk (Dev × Finish) := do
  let ps := c.ps
  let n ← c.needAux
  needRange ps 1 1 0 100
  needRange ps 2 1 20 64
  needRange ps 3 1 10 170
  needRange ps 4 2 1 65535
  needRange ps 6 2 1 65535
  needRange ps 8 2 1 10000
  needRange ps 10 2 0 4095
  needRange ps 12 2 4 1000
  needZero ps 14 2
  needFree (!c.d.mot.aux[n].on)
  return (c.d.modAux n fun a => { a with
    configured := true, idlePct := BitVec.ofNat 8 (pU ps 1 1), pwmKhz := BitVec.ofNat 8 (pU ps 2 1)
    stallDeg := BitVec.ofNat 8 (pU ps 3 1), rmOhm := BitVec.ofNat 16 (pU ps 4 2), ke := BitVec.ofNat 16 (pU ps 6 2)
    irunMa := BitVec.ofNat 16 (pU ps 8 2), idleDelay := BitVec.ofNat 12 (pU ps 10 2)
    stepsPerRev := BitVec.ofNat 10 (pU ps 12 2) }, .ok [])

/-- AUX_CONFIG's row of Table 6.2. -/
def specAuxConfig : CmdSpec :=
  { opcode := 0x90, variant := 0, modes := setO, role := atLeast rService, len := lenIs 16 }

/-- AUX_CONFIG. -/
def execAuxConfig (p : Packet) (s : State) : Out := onDev (cmdDev specAuxConfig auxConfigCmd p) s

/-- What R358 asks of an axis that is to be enabled. -/
def Dev.auxReady (d : Dev) (n : Fin 8) : Bool :=
  let a := d.mot.aux[n]
  a.configured && a.iscale != 0 && (if d.mot.vbusSrc then d.mot.bus.scale != 0 else d.mot.vbusMv != 0)

/-- AUX_ENABLE (R358, R364). A contained axis, or one in TEST, keeps its gates low. -/
def auxEnableCmd (c : Ctx) : Chk (Dev × Finish) := do
  let n ← c.needAux
  needRange c.ps 1 1 0 1
  if pU c.ps 1 1 = 0 then return ((c.d.auxOff n).dropAux n, .ok []) else
  needP (c.d.auxReady n) 0
  let low := c.d.contained (.aux n) || c.d.mode = mTest
  return (c.d.modAux n fun a => { a with
    enable := Tv.mk3 1, state := if a.state = 0 && !low then 1 else a.state, stepStart := a.pos }, .ok [])

/-- AUX_ENABLE's row of Table 6.2. -/
def specAuxEnable : CmdSpec :=
  { opcode := 0x91, variant := 0, modes := setO, role := atLeast rOperator, len := lenIs 2 }

/-- AUX_ENABLE. -/
def execAuxEnable (p : Packet) (s : State) : Out := onDev (cmdDev specAuxEnable auxEnableCmd p) s

/-- The fields of AUX_MOVE. -/
def Ctx.needMove (c : Ctx) : Chk (Fin 8) := do
  let n ← c.needLive
  needZero c.ps 1 3
  return n

/-- The rates of AUX_MOVE. -/
def needRates (ps : List Byte) : Chk Unit := do
  needRate ps 8
  needRate ps 12
  needRate ps 16

/-- The distance of a move, as signed positions, is at most 2^31 − 1 (R360). -/
def needDistance (x : Int) : Chk Unit := needP (decide (x.natAbs ≤ 0x7FFFFFFF)) 4

/-- A set-point goes to the axis, or its command waits for a slot (R195). -/
def Dev.queueAux (d : Dev) (n : Fin 8) (q : AuxCmd) : Dev × Finish :=
  if 16 ≤ d.mot.aux[n].queue.length then (d, .park .axisQueue) else (d.modAux n (·.push q), .ok [])

/-- A move from standstill: variant 0, and variant 1 there (R360, R362). -/
def Ctx.moveTo (c : Ctx) (n : Fin 8) : Chk (Dev × Finish) := do
  let a := c.d.mot.aux[n]
  needDistance (pI c.ps 4 4 - a.pos.toInt)
  needRates c.ps
  needFree (!a.moving && a.state != 4 && a.posValid)
  return c.d.queueAux n (auxCmdOf 0x92 0 c.ps)

/-- AUX_MOVE variant 0. -/
def auxMoveAbsoluteCmd (c : Ctx) : Chk (Dev × Finish) := do
  let n ← c.needMove
  c.moveTo n

/-- AUX_MOVE's rows of Table 6.2. -/
def specAuxMove (v : Byte) : CmdSpec :=
  { opcode := 0x92, variant := v, modes := setO, role := atLeast rOperator, len := lenIs 20 }

/-- AUX_MOVE_ABSOLUTE. -/
def execAuxMoveAbsolute (p : Packet) (s : State) : Out := onDev (cmdDev (specAuxMove 0) auxMoveAbsoluteCmd p) s

/-- The move that an axis is in, or that waits in its queue. -/
def Aux.presentMove (a : Aux) : Option (Bool × Move) :=
  match a.move with
  | some m => some (false, m)
  | none => a.queue.findSome? fun (q : AuxCmd) => match q with
    | .move rel m => some (rel, m)
    | _ => none

/-- AUX_MOVE variant 1: one follow-on move, whatever the motion under way, and ST_BUSY if one is queued or the axis is
geared; on an axis at standstill, variant 0 (R175, R362, R367). -/
def auxMoveFollowOnCmd (c : Ctx) : Chk (Dev × Finish) := do
  let n ← c.needMove
  let a := c.d.mot.aux[n]
  if !a.moving then c.moveTo n else
  let start := match a.presentMove with
    | some (rel, m) => if rel then a.pos + m.target else m.target
    | none => a.pos
  needDistance (pI c.ps 4 4 - start.toInt)
  needRates c.ps
  needFree (a.followOn.isNone && a.state != 4)
  let f : Move := {
    target := BitVec.ofNat 32 (pU c.ps 4 4), vmax := pU c.ps 8 4, accel := pU c.ps 12 4, decel := pU c.ps 16 4 }
  return (c.d.modAux n fun a => { a with followOn := some f }, .ok [])

/-- AUX_MOVE_FOLLOW_ON. -/
def execAuxMoveFollowOn (p : Packet) (s : State) : Out := onDev (cmdDev (specAuxMove 1) auxMoveFollowOnCmd p) s

/-- State 5 is left: AUX_STALL's cause ends (R366, R377). -/
def Dev.leaveStall (d : Dev) (n : Fin 8) : Dev :=
  if d.mot.aux[n].state = 5 then (d.modAux n fun a => { a with state := 1 }).causeGone (idAuxStall n.val) else d

/-- AUX_MOVE variant 2: a relative move; POS_VALID is not needed, and State 5 is left. -/
def auxMoveRelativeCmd (c : Ctx) : Chk (Dev × Finish) := do
  let n ← c.needMove
  let a := c.d.mot.aux[n]
  needDistance (pI c.ps 4 4)
  needRates c.ps
  needFree (!a.moving && a.state != 4)
  return (c.d.leaveStall n).queueAux n (auxCmdOf 0x92 2 c.ps)

/-- AUX_MOVE_RELATIVE. -/
def execAuxMoveRelative (p : Packet) (s : State) : Out := onDev (cmdDev (specAuxMove 2) auxMoveRelativeCmd p) s

/-- AUX_PROFILE (R361): answered when its set-point has been taken. -/
def auxProfileCmd (c : Ctx) : Chk (Dev × Finish) := do
  let n ← c.needMove
  needRate c.ps 4
  needRate c.ps 8
  needRate c.ps 12
  c.needRoom 8 noField
  if 16 ≤ c.d.mot.aux[n].queue.length then return (c.d, .park .axisQueue)
  else return (c.d.modAux n (·.push (auxCmdOf 0x93 0 c.ps)), .park .profile)

/-- AUX_PROFILE's row of Table 6.2. -/
def specAuxProfile : CmdSpec :=
  { opcode := 0x93, variant := 0, modes := setO, role := atLeast rOperator, len := lenIs 16 }

/-- AUX_PROFILE. -/
def execAuxProfile (p : Packet) (s : State) : Out := onDev (cmdDev specAuxProfile auxProfileCmd p) s

/-- AUX_STOP (R363). -/
def auxStopCmd (variant : Nat) (c : Ctx) : Chk (Dev × Finish) := do
  let n ← c.needLive
  return c.d.queueAux n (auxCmdOf 0x94 variant c.ps)

/-- AUX_STOP's rows of Table 6.2. -/
def specAuxStop (v : Byte) : CmdSpec :=
  { opcode := 0x94, variant := v, modes := setO, role := atLeast rOperator, len := lenIs 1 }

/-- STOP_RAMP. -/
def execStopRamp (p : Packet) (s : State) : Out := onDev (cmdDev (specAuxStop 0) (auxStopCmd 0) p) s

/-- STOP_NOW. -/
def execStopNow (p : Packet) (s : State) : Out := onDev (cmdDev (specAuxStop 1) (auxStopCmd 1) p) s

/-- Debounce times of the switches a homing names. -/
def Motion.setDebounce (m : Motion) (names : List Nat) (ms : Nat) : Motion :=
  let set := fun (i : Nat) (w : Switch) => if names.contains i then { w with debounceMs := ms } else w
  { m with switches := vallIdx set m.switches }

/-- AUX_HOME's checks of a method (R371, R372). -/
def Ctx.needMethod (c : Ctx) (n : Fin 8) : Chk Unit := do
  let ps := c.ps
  needRange ps 1 1 0 2
  needRange ps 2 1 0 15
  if pU ps 1 1 = 1 then
    if h : pU ps 2 1 < 4 then needP (c.d.pos.enc[pU ps 2 1].cfg.mode != 0) 2 else needP false 2
  needP (pU ps 3 1 ≤ 15 || pU ps 3 1 == 255) 3
  needRange ps 4 1 0 1
  needRange ps 5 1 0 10
  needRange ps 6 1 1 255
  needRange ps 7 1 1 255
  needRate ps 8
  needRate ps 12
  needP (pU ps 1 1 != 2 || decide (256 * c.d.mot.aux[n].stepsPerRev.toNat ≤ pU ps 12 4)) 12
  needRange ps 16 4 0 16777215
  needRate ps 20
  needZero ps 24 4

/-- AUX_HOME (Table 6.25, R176, R370). DESIGN CHOICE: a geared axis is in motion, at standstill too, and gets ST_BUSY; the
spec does not say (log 21). -/
def auxHomeCmd (c : Ctx) : Chk (Dev × Finish) := do
  let n ← c.needLive
  let ps := c.ps
  c.needMethod n
  let a := c.d.mot.aux[n]
  needFree (!a.moving && a.state != 4)
  let d := c.d.leaveStall n
  let method := pU ps 1 1
  let names := pU ps 3 1 :: (if method = 0 then [pU ps 2 1] else [])
  let d := d.modMot fun m => m.setDebounce names (pU ps 5 1)
  let active := d.mot.switchOn (pU ps 2 1)
  let h : Homing := {
    method, switch := pU ps 2 1, limit := pU ps 3 1, negative := pU ps 4 1 == 1, debounceMs := pU ps 5 1
    chatterN := pU ps 6 1, chatterWinMs := pU ps 7 1, fastV := pU ps 8 4, slowV := pU ps 12 4, backoff := pU ps 16 4
    accel := pU ps 20 4, step := if method ≠ 0 then 5 else if active then 4 else 2 }
  let d := d.modAux n fun a => { a with
    posValid := false, followOn := none, gearNext := none, state := 3, homing := some h, stallRun := 0, loadSum := 0
    loadN := 0, loadLow := false, stepStart := a.pos }
  let d := d.answer c.p stOk noField []
  if pU ps 3 1 ≤ 15 && d.mot.switchOn (pU ps 3 1) then return (d.homeFail n, .done) else return (d, .done)

/-- AUX_HOME's row of Table 6.2. -/
def specAuxHome : CmdSpec :=
  { opcode := 0x95, variant := 0, modes := setO, role := atLeast rOperator, len := lenIs 28 }

/-- AUX_HOME. -/
def execAuxHome (p : Packet) (s : State) : Out := onDev (cmdDev specAuxHome auxHomeCmd p) s

/-- AUX_GEAR (R176, R329, R367). A stalled axis refuses an engagement with ST_BUSY: State 5 holds (R366; DESIGN CHOICE,
log 21). -/
def auxGearCmd (c : Ctx) : Chk (Dev × Finish) := do
  let n ← c.needLive
  let ps := c.ps
  if h : pU ps 1 1 < 4 then
    let ch : Fin 4 := ⟨pU ps 1 1, h⟩
    needP (c.d.pos.enc[ch].cfg.mode != 0) 1
    needRange ps 2 1 0 3
    needZero ps 3 1
    needP (pU ps 4 4 != 0) 4
    needRange ps 8 4 1 0xFFFFFFFF
    let a := c.d.mot.aux[n]
    if getB 0 (pU ps 2 1) then
      needFree (a.state == 4 || (!a.moving && a.state != 5))
      let g : Gear := { channel := ch, num := pI ps 4 4, den := pU ps 8 4, c0 := BitVec.ofNat 32 (pU ps 12 4) }
      if getB 1 (pU ps 2 1) then return (c.d.modAux n fun a => { a with gearNext := some g }, .ok [])
      else return (c.d.modAux n fun a => a.engage c.d.countOf g (c.d.countOf ch), .ok [])
    else if a.gear.isSome then return (c.d.modAux n fun a => a.beginStop none, .ok [])
    else return (c.d.modAux n fun a => { a with gearNext := none }, .ok [])
  else throw (stBadParam, 25)

/-- AUX_GEAR's row of Table 6.2. -/
def specAuxGear : CmdSpec :=
  { opcode := 0x96, variant := 0, modes := setO, role := atLeast rOperator, len := lenIs 16 }

/-- AUX_GEAR. -/
def execAuxGear (p : Packet) (s : State) : Out := onDev (cmdDev specAuxGear auxGearCmd p) s

/-- A speed of an auxiliary axis as a status or a register reports it. -/
def Aux.speedWord (a : Aux) : Word := satInt32 (roundAway a.speed)

/-- AUX_STATUS (Table 6.26). -/
def auxStatusCmd (c : Ctx) : Chk (Dev × Finish) := do
  let n ← c.needAux
  let a := c.d.mot.aux[n]
  return (c.d, .ok (
    leBytes 1 a.state.toNat
    ++ leBytes 1 (fld 0 1 (bit a.posValid) + fld 1 1 (bit a.accelOverridden) + fld 2 1 (bit a.followOn.isSome)
      + fld 3 1 (bit a.idle))
    ++ leBytes 2 a.load ++ le4 a.pos.toNat ++ le4 a.speedWord.toNat ++ [0, 0, 0, 0]))

/-- AUX_STATUS's row of Table 6.2. -/
def specAuxStatus : CmdSpec :=
  { opcode := 0x97, variant := 0, modes := setA, role := atLeast rObserver, len := lenIs 1 }

/-- AUX_STATUS. -/
def execAuxStatus (p : Packet) (s : State) : Out := onDev (cmdDev specAuxStatus auxStatusCmd p) s

end Sys2Proof.Machine
end

