-- ==== Sys2Proof/Machine/Position.lean ====
section
/-! DEFINITION. Encoder channels on the hub and the dies: decoding, the count and its wrap, the observer, DIR, the
pass-through outputs, agreement between dies, and the position commands (R32 to R36, R97, R168, R169, R310 to R330). -/

namespace Sys2Proof.Machine

/-- A furrow die by its number among all dies. -/
def furrowOf (die : Fin 8) : Option (Fin 7) := if h : die.val = 0 then none else some ⟨die.val - 1, by omega⟩

/-- Channels count: the part runs and its receivers are on (R53, Table 4.9). -/
def Dev.counting (d : Dev) : Bool := !d.sys.held && d.mode ≠ mFallow

/-- The dies that hold a copy: the hub and the furrow dies present (R32). -/
def Dev.copyDies (d : Dev) : List (Fin 8) := (fins 8).filter fun k => k.val = 0 || d.hasDie (k.val - 1)

/-- Mode of a channel (Table 13.1). -/
def Dev.encMode (d : Dev) (ch : Fin 4) : Nat := d.pos.enc[ch].cfg.mode.toNat

/-- The hub's copy of a channel. -/
def Dev.hub (d : Dev) (ch : Fin 4) : EncCopy := d.pos.enc[ch].copies[0]

/-- Data of a POSITION event: count and WRAP_SEQ (Table 6.28). -/
def Dev.posEvent (d : Dev) (ch : Fin 4) (kind : Nat) : Dev :=
  let c := d.hub ch
  d.event evPosition kind ch.val (le4 c.count.toNat ++ leBytes 1 c.wrap.toNat)

/-! ## The observer (R320, R321) -/

/-- The extended position as a signed number (R317). -/
def EncCopy.pos (c : EncCopy) : Int := toSigned 40 c.ext

/-- The gains' ω, in rad/s. -/
def EncCfg.omega (g : EncCfg) : Rat := twoPi * g.bandwidth.toNat

/-- One update: the error is a function of the predicted position. The estimate is kept next to the count, modulo
2^40. -/
def EncCopy.observe (c : EncCopy) (w : Rat) (tn : DWord) (err : Rat → Rat) : EncCopy :=
  let dt : Rat := (tn - c.t).toNat / (100000000 : Rat)
  let xp := c.x + c.v * dt + c.acc * dt * dt / 2
  let vp := c.v + c.acc * dt
  let e := near40 (err xp)
  let x := xp + min 1 (3 * w * dt) * e
  { c with
    x := (c.pos : Rat) + near40 (x - c.pos), v := vp + 3 * w * w * dt * e, acc := c.acc + w * w * w * dt * e, t := tn }

/-- The error of a tick: 0 inside the present interval. -/
def EncCopy.tickErr (c : EncCopy) (xp : Rat) : Rat :=
  let k : Rat := c.pos
  let y := near40 (xp - k)
  if y < 0 then -y else if 1 ≤ y then 1 - y else 0

/-! ## DIR (R322) -/

/-- DIR and its extreme after a change of the count it follows. -/
def EncCopy.turn (c : EncCopy) (q : Word) (hyst : Nat) : EncCopy :=
  let h := BitVec.ofNat 32 hyst
  if !c.dir then
    if after q c.dirExt then { c with dirExt := q }
    else if q = c.dirExt - h || before q (c.dirExt - h) then { c with dir := true, dirExt := q }
    else c
  else if before q c.dirExt then { c with dirExt := q }
  else if q = c.dirExt + h || after q (c.dirExt + h) then { c with dir := false, dirExt := q }
  else c

/-! ## Pass-through outputs (R323) -/

/-- The quadrature pair of a state number: 00, 10, 11, 01. -/
def quadPair (n : Nat) : BitVec 2 := if n = 0 then 0 else if n = 1 then 2 else if n = 2 then 3 else 1

/-- What an output counts: the count, or the quadrant count in mode 4. -/
def Dev.outCount (d : Dev) (ch : Fin 4) : Word := if d.encMode ch = 4 then (d.hub ch).quadCount else (d.hub ch).count

/-- The level of an output's A and B. -/
def Dev.outLevel (d : Dev) (o : EncOut) : BitVec 2 :=
  let c := d.hub o.source
  if o.divider = 1 then
    if d.encMode o.source = 4 then BitVec.ofNat 2 (2 * bit c.cosHigh + bit c.sinHigh) else BitVec.ofNat 2 (2 * bit c.a + bit c.b)
  else quadPair (((d.outCount o.source - o.origin).toInt / o.divider.toNat) % 4).toNat

/-- The outputs of a channel follow it, Z among them; with a source in mode 0 they hold. -/
def Dev.outputs (d : Dev) (ch : Fin 4) : Dev :=
  if d.encMode ch = 0 then d else
  let f := fun (o : EncOut) =>
    if o.enable && o.source == ch then { o with state := d.outLevel o, z := (d.hub ch).z } else o
  d.modPos fun p => { p with out := vall f p.out }

/-! ## A change of a count (R317) -/

/-- A copy moves to an extended position. -/
def EncCopy.moveTo (c : EncCopy) (ext : Nat) (now : DWord) : EncCopy :=
  { c with count := BitVec.ofNat 32 ext, wrap := BitVec.ofNat 8 ((ext + 2 ^ 31) / 2 ^ 32), ts := now, still := false }

/-- An observer update of a furrow die: its lines are predicted again (R261). -/
def Dev.observerRan (d : Dev) (m : Banks) (ch : Fin 4) (k : Fin 8) : Dev := if k = 0 then d else d.repredict m ch k

/-- DIR of a die's copy may have changed: tokens of its ports are discarded, or its rows queue the lines after their marks
(R268, R328). -/
def Dev.turned (d : Dev) (ch : Fin 4) (k : Fin 8) (was : Bool) : Dev :=
  let now := (d.pos.enc[ch].copies[k]).dir
  if now = was then d else if now then d.discardTokens ch k else d.resumeTokens ch

/-- A die's copy moves to a position; on the hub a wrap emits POSITION kind 1, a turn kind 0, and lines, switches,
gears and outputs follow. `edge`: a counted edge; `obs`: the observer's error at it, if it updates. -/
def Dev.moveCopy (d : Dev) (m : Banks) (ch : Fin 4) (k : Fin 8) (ext : Nat) (edge : Bool) (obs : Option (Rat → Rat)) : Dev :=
  let e := d.pos.enc[ch]
  let old := e.copies[k]
  let new := if ext = old.ext then old else old.moveTo ext d.sys.now
  let new := if edge then { new with event := new.event + 1, still := false } else new
  let new := new.turn (if d.encMode ch = 4 then new.quadCount else new.count) e.dirHyst.toNat
  let new := match obs with
    | some f => new.observe e.cfg.omega d.sys.now f
    | none => new
  let d := d.modCopy ch k fun _ => new
  let d := if obs.isSome then d.observerRan m ch k else d
  let d := if k ≠ 0 then d else
    let d := if new.wrap = old.wrap then d else d.posEvent ch 1
    let d := if new.dir = old.dir then d else d.posEvent ch 0
    let d := if edge then d.toggle 0 (0x204 + 8 * ch.val) else d
    (d.gearCrossings ch old.count new.count).outputs ch
  let d := d.turned ch k old.dir
  if new.count = old.count then d else d.crossings m ch k old.count new.count

/-- A counted edge on one die: one count forward or backward. -/
def Dev.countEdge (m : Banks) (ch : Fin 4) (up : Bool) (d : Dev) (k : Fin 8) : Dev :=
  let c := d.pos.enc[ch].copies[k]
  let ext := add40 c.ext (if up then 1 else -1)
  let at' : Rat := (c.pos : Rat) + (if up then 1 else 0)
  d.moveCopy m ch k ext true (some fun xp => at' - xp)

/-- The next `n` free Boolean values are used up. -/
def Dev.useFresh (d : Dev) (n : Nat) : Dev := d.modSys fun x => { x with fresh := x.fresh + n }

/-- A counted edge on every die. `sure`: the edge lies within the specification; otherwise each die counts it or not,
and the hub saw a short pulse (R312, ENC_GLITCH). -/
def Dev.edgeAll (d : Dev) (m : Banks) (ch : Fin 4) (up sure : Bool) : Dev :=
  if sure then d.copyDies.foldl (Dev.countEdge m ch up) d else
  let n := d.sys.fresh
  let ks := d.copyDies.filter fun k => Config.freeBool (n + k.val)
  ((ks.foldl (Dev.countEdge m ch up) d).useFresh 8).detect (idEncSeq ch.val + 3)

/-! ## Edges (R311 to R313) -/

/-- Something received at the balls changes on every die alike. -/
def Dev.allCopies (d : Dev) (ch : Fin 4) (f : EncCopy → EncCopy) : Dev :=
  d.modEnc ch fun e => { e with copies := vall f e.copies }

/-- Levels of the receivers A and B, on every die. -/
def Dev.setLevels (d : Dev) (ch : Fin 4) (a b : Bool) : Dev := d.allCopies ch fun c => { c with a, b }

/-- The place of a pair in the forward sequence 00, 10, 11, 01. -/
def quadIndex (a b : Bool) : Nat := if a then (if b then 2 else 1) else (if b then 3 else 0)

/-- An illegal double change: ENC_SEQ and POS_CH_SEQERR. -/
def Dev.seqError (d : Dev) (ch : Fin 4) : Dev :=
  (d.modEnc ch fun e => { e with seqErr := satInc e.seqErr }).detect (idEncSeq ch.val)

/-- QUADRATURE_EDGE: the receivers show a new pair. -/
def Dev.quadEdge (d : Dev) (m : Banks) (ch : Fin 4) (a b close : Bool) : Dev :=
  if !d.counting then d else
  let c := d.hub ch
  let step := (quadIndex a b + 4 - quadIndex c.a c.b) % 4
  let d := d.setLevels ch a b
  if d.encMode ch ≠ 1 then d.outputs ch
  else if step = 0 then d
  else if step = 2 then (d.seqError ch).outputs ch
  else ((d.normal (idEncSeq ch.val)).edgeAll m ch (step == 1) (!close)).outputs ch

/-- QUADRATURE_EDGE. -/
def execQuadratureEdge (ch : Fin 4) (a b : Bool) (close : Bool) (s : State) : Out :=
  onDev (fun s => s.dev.quadEdge s.banks ch a b close) s

/-- A counted edge of mode 2 whose direction each die may take as it likes, and which each die counts unless it came too
close to the one before (R312). -/
def Dev.edgeUnstable (d : Dev) (m : Banks) (ch : Fin 4) (sure : Bool) : Dev :=
  let n := d.sys.fresh
  let ks := d.copyDies.filter fun k => sure || Config.freeBool (n + 8 + k.val)
  let d := (ks.foldl (fun d k => Dev.countEdge m ch (Config.freeBool (n + k.val)) d k) d).useFresh 16
  if sure then d else d.detect (idEncSeq ch.val + 3)

/-- STEP_DIR_EDGE: new levels of A and B; a rising edge of A counts by the level of B. With B unstable each die counts
the edge once, in a direction of its own; an edge too close to the one before may not be counted (R312). -/
def Dev.stepEdge (d : Dev) (m : Banks) (ch : Fin 4) (a b unstable close : Bool) : Dev :=
  if !d.counting || d.encMode ch ≠ 2 then d else
  let rises := a && !(d.hub ch).a
  let d := d.setLevels ch a b
  (if !rises then d else if unstable then d.edgeUnstable m ch (!close) else d.edgeAll m ch b (!close)).outputs ch

/-- STEP_DIR_EDGE. -/
def execStepDirEdge (ch : Fin 4) (levels : Levels) (flaws : StepFlaws) (s : State) : Out :=
  onDev (fun s => s.dev.stepEdge s.banks ch levels.a levels.b flaws.unstable flaws.close) s

/-- UP_DOWN_EDGE: new levels of A and B; a rising edge of A counts up, one of B down, also both at once (R312). -/
def Dev.upDownEdge (d : Dev) (m : Banks) (ch : Fin 4) (a b close : Bool) : Dev :=
  if !d.counting || d.encMode ch ≠ 3 then d else
  let c := d.hub ch
  let d := d.setLevels ch a b
  let d := if a && !c.a then d.edgeAll m ch true (!close) else d
  (if b && !c.b then d.edgeAll m ch false (!close) else d).outputs ch

/-- UP_DOWN_EDGE. -/
def execUpDownEdge (ch : Fin 4) (levels : Levels) (close : Bool) (s : State) : Out :=
  onDev (fun s => s.dev.upDownEdge s.banks ch levels.a levels.b close) s

/-- INDEX_EDGE: a new level of Z; its rising edge latches the count (R313, R323, R371). -/
def Dev.indexEdge (d : Dev) (ch : Fin 4) (z : Bool) : Dev :=
  if !d.counting then d else
  let rises := z && !(d.hub ch).z
  let d := (d.allCopies ch fun c => { c with z }).outputs ch
  if !rises || d.encMode ch = 0 then d else
  ((d.allCopies ch fun c => { c with index := c.count, indexSeen := true }).posEvent ch 2 |>.toggle 0 (0x205 + 8 * ch.val)).indexHoming ch

/-- INDEX_EDGE. -/
def execIndexEdge (z : ZLevel) (s : State) : Out := onDev (fun s => s.dev.indexEdge z.ch z.z) s

/-! ## Sin/cos (R314 to R316) -/

/-- The quadrant of two comparator levels. -/
def quadrantOf (cosHigh sinHigh : Bool) : Nat := if sinHigh then (if cosHigh then 0 else 1) else (if cosHigh then 3 else 2)

/-- A count of mode 4 as an extended position. -/
def EncCopy.fineExt (c : EncCopy) (i : Int) : Nat := ((i + c.base) % (2 ^ 40 : Int)).toNat

/-- A quadrant change on one die. -/
def Dev.quadrantStep (m : Banks) (ch : Fin 4) (q : Nat) (up : Bool) (d : Dev) (k : Fin 8) : Dev :=
  let c := d.pos.enc[ch].copies[k]
  let i := d.pos.enc[ch].cfg.interp.toNat
  let old := c.quadrant.toNat
  let period := if up && q = 0 then c.period + 1 else if !up && q = 3 then c.period - 1 else c.period
  let count := if up then period * i + (q * i / 4 : Nat) else c.period * i + (old * i / 4 : Nat) - 1
  let ext := c.fineExt count
  (d.modCopy ch k fun c => { c with
    period, quadrant := BitVec.ofNat 2 q, quadCount := if up then c.quadCount + 1 else c.quadCount - 1 }).moveCopy
    m ch k ext true none

/-- SINCOS_QUADRANT_CHANGE: the comparators show a new pair, which mode 4 decodes. -/
def Dev.quadrantChange (d : Dev) (m : Banks) (ch : Fin 4) (cosHigh sinHigh : Bool) : Dev :=
  if !d.counting then d else
  let q := quadrantOf cosHigh sinHigh
  let step := (q + 4 - (d.hub ch).quadrant.toNat) % 4
  let d := d.allCopies ch fun c => { c with cosHigh, sinHigh }
  if d.encMode ch ≠ 4 || step = 0 then d
  else if step = 2 then ((d.allCopies ch fun c => { c with quadrant := BitVec.ofNat 2 q }).seqError ch).outputs ch
  else (d.copyDies.foldl (Dev.quadrantStep m ch q (step == 1)) (d.normal (idEncSeq ch.val))).outputs ch

/-- SINCOS_QUADRANT_CHANGE. -/
def execSincosQuadrantChange (ch : Fin 4) (cosHigh sinHigh : Bool) (s : State) : Out :=
  onDev (fun s => s.dev.quadrantChange s.banks ch cosHigh sinHigh) s

/-- An angle in turns, clamped to the nearer edge of a quadrant. -/
def clampQuadrant (q : Nat) (x : Rat) : Rat :=
  let lo : Rat := q / 4
  let y := x - lo - (x - lo).floor
  if y ≤ 1 / 4 then lo + y else if y ≤ 5 / 8 then lo + 1 / 4 else lo

/-- A sample inside the window sets a die's count and updates its observer (R315, R320). -/
def Dev.useSample (m : Banks) (ch : Fin 4) (theta : Rat) (d : Dev) (k : Fin 8) : Dev :=
  let c := d.pos.enc[ch].copies[k]
  let i := d.pos.enc[ch].cfg.interp.toNat
  let y : Rat := c.period * i + clampQuadrant c.quadrant.toNat theta * i
  d.moveCopy m ch k (c.fineExt y.floor) false (some fun xp => y + c.base - xp)

/-- The hub's amplitude window: SINCOS_AMP after more than WinN samples outside, cleared after WinN inside (R316). -/
def Dev.amplitude (d : Dev) (ch : Fin 4) (out : Bool) : Dev :=
  let n := d.pos.enc[ch].cfg.winN.toNat
  let c := d.hub ch
  if out then
    if n < c.outside && !c.sincosAmp then
      let d := d.modEnc ch fun e => { e with
        copies := vall (fun (c : EncCopy) => { c with sincosAmp := true, unreferenced := true }) e.copies }
      (d.detect (idSincosAmp ch.val)).posEvent ch 3
    else d
  else if n ≤ c.inside && c.sincosAmp then
    (d.modEnc ch fun e => { e with copies := vall (fun (c : EncCopy) => { c with sincosAmp := false }) e.copies }).causeGone
      (idSincosAmp ch.val)
  else d

/-- A comparison fails: the first failure is recorded, POS_DIVERGE raised (R36, R327). -/
def Dev.diverge (d : Dev) (ch : Fin 4) (f : Fin 7) (kind : Nat) (number hub die : Word) : Dev :=
  let d := if d.pos.divValid then d else d.modPos fun p => { p with
    divChannel := BitVec.ofNat 2 ch.val, divDie := BitVec.ofNat 3 (f.val + 1), divKind := BitVec.ofNat 2 kind, divValid := true
    divEvent := number, divHub := hub, divDieCount := die }
  d.detect (idDiverge ch.val)

/-- Tolerance of a fine count (R324). -/
def EncCfg.fineTol (g : EncCfg) : Nat := max 2 (g.interp.toNat / 256)

/-- Two counts agree within a tolerance. -/
def agree (tol : Nat) (a b : Word) : Bool := decide ((a - b).toInt.natAbs ≤ tol)

/-- The fine counts of a snapshot are compared, where hub and die have recorded them for the same number and generation
(R324). -/
def Dev.compareFine (d : Dev) (f : Fin 7) (ch : Fin 4) : Dev :=
  let e := d.pos.enc[ch]
  match (e.copies[copyOf f]).fine, (e.copies[0]).fine with
  | some (n, g, u), some (n', g', v) =>
    if e.cfg.mode = 4 && n = n' && g = g' && !agree e.cfg.fineTol u v then d.diverge ch f 3 n v u else d
  | _, _ => d

/-- M as POS_CH_AMP shows it: without its fraction, and 4,095 where it does not fit 12 bits (R316 says neither: DESIGN
CHOICE, log 71). -/
def ampOf (sq : Nat) : BitVec 12 := BitVec.ofNat 12 (min 4095 (sq / 16384))

/-- SINCOS_SAMPLE. -/
def Dev.sincosSample (d : Dev) (m : Banks) (ch : Fin 4) (s c : BitVec 14) : Dev :=
  if !d.counting || d.encMode ch ≠ 4 then d else
  let g := d.pos.enc[ch].cfg
  let sq := s.toInt.natAbs ^ 2 + c.toInt.natAbs ^ 2
  let out := decide (sq < g.winLo.toNat * 16384 ∨ g.winHi.toNat * 16384 < sq)
  let d := d.modEnc ch fun e => { e with copies := vall (fun (x : EncCopy) => { x with
    m := ampOf sq
    outside := if out then min 256 (x.outside + 1) else 0
    inside := if out then 0 else min 256 (x.inside + 1) }) e.copies }
  let d := if out then d else d.copyDies.foldl (Dev.useSample m ch (turnsOf s.toInt c.toInt)) d
  let d := d.modEnc ch fun e => { e with copies := vall (fun (x : EncCopy) =>
    if x.fineDue then { x with fineDue := false, fine := some (d.pos.snapNumber, x.gen, x.count) } else x) e.copies }
  let d := ((fins 7).filter fun f => (d.pos.enc[ch].copies[copyOf f]).fineOwed).foldl (fun d f =>
    (d.modCopy ch (copyOf f) fun c => { c with fineOwed := false }).compareFine f ch) d
  d.amplitude ch out

/-- SINCOS_SAMPLE. -/
def execSincosSample (ch : Fin 4) (sin cos : BitVec 14) (s : State) : Out :=
  onDev (fun s => s.dev.sincosSample s.banks ch sin cos) s

/-! ## Ticks (R320, R321) -/

/-- A digital channel of a die that is there. -/
def Dev.observed (d : Dev) (die : Fin 8) (ch : Fin 4) : Bool :=
  d.counting && d.copyDies.contains die && 1 ≤ d.encMode ch && d.encMode ch ≤ 3

/-- OBSERVER_UPDATE: the 2 µs tick. A furrow die latches its timebase; in mode 4 the observer takes nothing from it
(R262, R320). -/
def Dev.observerTick (d : Dev) (m : Banks) (die : Fin 8) (ch : Fin 4) : Dev :=
  let d := match furrowOf die with
    | some f => if d.counting && d.hasDie f.val then d.latchTimebase f else d
    | none => d
  if d.observed die ch then
    (d.modCopy ch die fun c => c.observe d.pos.enc[ch].cfg.omega d.sys.now c.tickErr).observerRan m ch die
  else d

/-- OBSERVER_UPDATE. -/
def execObserverUpdate (die : Fin 8) (ch : Fin 4) (s : State) : Out :=
  onDev (fun s => s.dev.observerTick s.banks die ch) s

/-- OBSERVER_STILL. -/
def Dev.observerStill (d : Dev) (m : Banks) (die : Fin 8) (ch : Fin 4) : Dev :=
  if d.observed die ch then
    (d.modCopy ch die fun c => { c with
      x := max (c.pos : Rat) (min (c.pos + 1 : Rat) c.x), v := 0, acc := 0, t := d.sys.now, still := true }).observerRan
      m ch die
  else d

/-- OBSERVER_STILL. -/
def execObserverStill (die : Fin 8) (ch : Fin 4) (s : State) : Out :=
  onDev (fun s => s.dev.observerStill s.banks die ch) s

/-! ## Agreement between dies (R34 to R36, R97, R324, R327) -/

/-- SNAPSHOT_STROBE: every enabled channel is latched on every die, with the Guard flags the row names. -/
def Dev.strobe (d : Dev) (guards : List (Fin 8 × Fin 4)) : Dev :=
  if !d.counting then d else
  let n := d.pos.snapNext
  let d := d.modPos fun p => { p with snapNumber := n, snapNext := n + 1 }
  (fins 4).foldl (fun d ch =>
    if d.encMode ch = 0 then d else
    d.copyDies.foldl (fun d k => (d.tellHub k (.snapshot ch)).modCopy ch k fun c => { c with
      latch := some (n, c.gen, if d.encMode ch = 4 then c.quadCount else c.count, guards.contains (k, ch))
      fineDue := d.encMode ch == 4, fineOwed := false, fine := none }) d) d

/-- SNAPSHOT_STROBE. -/
def execSnapshotStrobe (guards : List (Fin 8 × Fin 4)) (s : State) : Out := onDev (fun s => s.dev.strobe guards) s

/-- A copy is brought to the hub's: the counts it has made since a common instant are kept. -/
def EncCopy.sync (c hub : EncCopy) (ahead : Int) : EncCopy :=
  let ext := add40 hub.ext ahead
  { c with
    count := BitVec.ofNat 32 ext, wrap := BitVec.ofNat 8 ((ext + 2 ^ 31) / 2 ^ 32), event := hub.event, quadCount := hub.quadCount
    period := hub.period, quadrant := hub.quadrant, base := hub.base, dir := hub.dir, dirExt := hub.dirExt, gen := hub.gen
    x := hub.x + ahead, v := hub.v, acc := hub.acc, t := hub.t, unreferenced := hub.unreferenced, syncing := false }

/-- A die's copy is brought to the hub's; its rows go by the DIR it takes over. -/
def Dev.syncCopy (d : Dev) (ch : Fin 4) (f : Fin 7) (ahead : Int) : Dev :=
  let was := (d.pos.enc[ch].copies[copyOf f]).dir
  (d.modCopy ch (copyOf f) fun c => { c.sync (d.hub ch) ahead with latch := none, fineOwed := false }).turned ch (copyOf f) was

/-- SNAPSHOT_REPORT: a die's snapshot, once it has left the die, meets the hub's of the same number and generation. A copy
still being brought into agreement takes the hub's count when neither carries Guard (R97 step 2). Fine counts not yet
recorded are compared when they are. -/
def Dev.report (d : Dev) (f : Fin 7) (ch : Fin 4) : Dev :=
  let e := d.pos.enc[ch]
  let c := e.copies[copyOf f]
  let h := e.copies[0]
  if !d.counting || !d.hasDie f.val || d.dies[f].ctrlWaitUp.contains (.snapshot ch) then d else
  match c.latch, h.latch with
  | some (n, g, x, ga), some (n', g', y, gb) =>
    let d := d.modCopy ch (copyOf f) fun c => { c with latch := none }
    if n ≠ n' then d
    else if c.syncing then
      if ga || gb then d
      else d.syncCopy ch f (if e.cfg.mode = 4 then 0 else ((c.count - x) - (h.count - y)).toInt)
    else if g ≠ g' then d
    else if !agree (if ga || gb then 1 else 0) x y then d.diverge ch f 0 n y x
    else if c.fineDue then d.modCopy ch (copyOf f) fun c => { c with fineOwed := true }
    else d.compareFine f ch
  | _, _ => d

/-- SNAPSHOT_REPORT. -/
def execSnapshotReport (die : Fin 7) (ch : Fin 4) (s : State) : Out :=
  onDev (fun s => (s.dev.report die ch).dieReady die) s

/-- A snapshot that a die owes: the channel, its number, and the hub's count for it. -/
def Dev.snapshotDue (d : Dev) (f : Fin 7) (ch : Fin 4) : Option (Fin 4 × Word × Word) :=
  (d.pos.enc[ch].copies[copyOf f]).latch.map fun x => (ch, x.1, match (d.hub ch).latch with
    | some y => y.2.2.1
    | none => (d.hub ch).count)

/-- SNAPSHOT_LATE: the channels whose snapshot from the die is outstanding. -/
def Dev.snapshotLate (d : Dev) (f : Fin 7) : Dev :=
  if !d.counting || !d.hasDie f.val then d else
  ((fins 4).filterMap (d.snapshotDue f)).foldl (fun d x =>
    (d.modCopy x.1 (copyOf f) fun c => { c with latch := none }).diverge x.1 f 1 x.2.1 x.2.2 0) d

/-- SNAPSHOT_LATE. -/
def execSnapshotLate (die : Fin 7) (s : State) : Out := onDev (fun s => s.dev.snapshotLate die) s

/-- FRW_RESYNC_TIMEOUT: FRW_RESYNC while a copy of the die is not yet in agreement. A reset that waits for it ends
first, so the die is contained again. -/
def Dev.resyncTimeout (d : Dev) (f : Fin 7) : Dev :=
  if d.hasDie f.val && d.dieSyncing f then (d.dieDone f).detect (idDie f.val oResync) else d

/-- FRW_RESYNC_TIMEOUT. -/
def execFrwResyncTimeout (die : Fin 7) (s : State) : Out := onDev (fun s => s.dev.resyncTimeout die) s

/-- RESYNC_NO_EDGE: the die takes the hub's present count (R97 step 3). -/
def Dev.resyncNoEdge (d : Dev) (f : Fin 7) (ch : Fin 4) : Dev :=
  if d.hasDie f.val && d.pos.enc[ch].copies[copyOf f].syncing then
    d.syncCopy ch f 0
  else d

/-- RESYNC_NO_EDGE. -/
def execResyncNoEdge (die : Fin 7) (ch : Fin 4) (s : State) : Out :=
  onDev (fun s => (s.dev.resyncNoEdge die ch).dieReady die) s

/-- SWITCH_RECORD_REPORT: the oldest record of a swath's switch that has left the die, against the hub's of the same switch,
once the hub has made it (R35, R324). -/
def Dev.switchRecord (d : Dev) (f : Fin 7) (s : Fin 16) : Dev :=
  let w := d.swaths[s]
  let left := (w.gens[copyOf f]).records.length - d.dies[f].ctrlWaitUp.count (.switchRecord s)
  match (w.gens[copyOf f]).records with
  | [] => d
  | (tag, u, _) :: rest =>
    match (w.gens[0]).records.find? fun (x : Nat × Word × Word) => x.1 == tag with
    | none => d
    | some (_, v, snap) =>
      if !d.hasDie f.val || left = 0 then d else
      let d := d.modSwath s fun w => { w with gens := vmod w.gens (copyOf f) fun g => { g with records := rest } }
      let c := d.pos.enc[w.channel].cfg
      if agree (if c.mode = 4 then c.fineTol else 0) u v then d else d.diverge w.channel f 2 snap v u

/-- SWITCH_RECORD_REPORT. -/
def execSwitchRecordReport (die : Fin 7) (swath : Fin 16) (s : State) : Out :=
  onDev (fun s => s.dev.switchRecord die swath) s

/-! ## Configuration and preset (R168, R169, R325, R326) -/

/-- The channel of a command. -/
def Ctx.needEnc (c : Ctx) : Chk (Fin 4) := if h : pU c.ps 0 1 < 4 then .ok ⟨pU c.ps 0 1, h⟩ else throw (stBadParam, 24)

/-- ENC_CONFIG (Table 6.20): a new Mode or Interp waits for ENC_MODE_CHANGE and the reply with it (R184, R326); every other
field applies at once. -/
def encConfigCmd (c : Ctx) : Chk (Dev × Finish) := do
  let ps := c.ps
  let ch ← c.needEnc
  needRange ps 1 1 0 4
  needRange ps 2 1 0 1
  needRange ps 3 1 1 255
  needRange ps 4 2 1 4096
  needRange ps 6 2 50 5000
  needRange ps 8 2 1 4095
  needRange ps 10 2 2 4095
  needP (pU ps 8 2 < pU ps 10 2) 10
  needZero ps 12 4
  needFree (!c.d.encInUse ch)
  let e := c.d.pos.enc[ch]
  let g : EncCfg := {
    mode := BitVec.ofNat 3 (pU ps 1 1), term := pU ps 2 1 == 1, winN := BitVec.ofNat 8 (pU ps 3 1)
    interp := BitVec.ofNat 13 (pU ps 4 2), bandwidth := BitVec.ofNat 13 (pU ps 6 2), winLo := BitVec.ofNat 12 (pU ps 8 2)
    winHi := BitVec.ofNat 12 (pU ps 10 2) }
  let wait := e.nextCfg.isSome || g.mode != e.cfg.mode || g.interp != e.cfg.interp
  return (c.d.modEnc ch fun e => { e with
    cfg := { g with mode := e.cfg.mode, interp := e.cfg.interp }
    nextCfg := if wait then some g else none }, if wait then .park (.encMode ch) else .ok [])

/-- ENC_CONFIG's row of Table 6.2. -/
def specEncConfig : CmdSpec :=
  { opcode := 0x70, variant := 0, modes := setO, role := atLeast rService, len := lenIs 16 }

/-- ENC_CONFIG. -/
def execEncConfig (p : Packet) (s : State) : Out := onDev (cmdDev specEncConfig encConfigCmd p) s

/-- A copy at a change of Mode or Interp: count, WRAP_SEQ, fraction and observer start from 0 (R326). The levels received
stay, and the index with its flag until the mode changes (R313); the quadrant is that of the comparators (R314). While the
mode stays, DIR stays, counted from where its count stood, and so does the amplitude window. The time of the last count
change stands. -/
def EncCopy.zeroed (c : EncCopy) (now : DWord) (sameMode mode4 syncing : Bool) : EncCopy :=
  { index := c.index, a := c.a, b := c.b, z := c.z, cosHigh := c.cosHigh, sinHigh := c.sinHigh
    quadrant := BitVec.ofNat 2 (quadrantOf c.cosHigh c.sinHigh), gen := c.gen, m := c.m, ts := c.ts, t := now, syncing
    indexSeen := sameMode && c.indexSeen, sincosAmp := sameMode && c.sincosAmp
    outside := if sameMode then c.outside else 0, inside := if sameMode then c.inside else 0
    dir := sameMode && c.dir, quadCount := if sameMode then c.quadCount else 0
    dirExt := if !sameMode then 0 else if mode4 then c.dirExt else c.dirExt - c.count }

/-- A preset that every die has applied and acknowledged is done: its command is answered. Presets of a channel are done in
their order. -/
def Dev.presetDone (d : Dev) (ch : Fin 4) : Nat → Dev
  | 0 => d
  | n + 1 =>
    match d.pos.enc[ch].presets with
    | x :: rest =>
      if x.apply.isEmpty && x.ack.isEmpty then
        let d := d.modEnc ch fun e => { e with presets := rest }
        let d := if x.silent then d else
          match d.ses.work.find? fun (w : WorkEntry) => w.park == some (.preset ch) with
          | some w => d.answer w.packet stOk noField []
          | none => d
        d.presetDone ch n
      else d
    | [] => d

/-- A copy adds a preset offset and counts one generation (R325). -/
def EncCopy.preset (c : EncCopy) (mode4 : Bool) (off : Nat) : EncCopy :=
  let i := toSigned 40 off
  let ext := add40 c.ext i
  { c with
    count := BitVec.ofNat 32 ext, wrap := BitVec.ofNat 8 ((ext + 2 ^ 31) / 2 ^ 32)
    x := c.x + i, gen := c.gen + 1, unreferenced := false
    dirExt := if mode4 then c.dirExt else c.dirExt + BitVec.ofInt 32 i
    base := if mode4 then c.base + i else c.base }

/-- A preset reaches the dies it is still on its way to. -/
def Dev.presetLand (d : Dev) (ch : Fin 4) (x : Preset) : Dev :=
  x.apply.foldl (fun d f => d.modCopy ch (copyOf f) fun c => c.preset (d.pos.enc[ch].cfg.mode == 4) x.offset.toNat) d

/-- Every preset on its way is applied on every die, before the channel's mode changes (log 22). -/
def Dev.presetsEnd (d : Dev) (ch : Fin 4) : Dev :=
  let xs := d.pos.enc[ch].presets
  let d := (xs.foldl (fun d x => d.presetLand ch x) d).modEnc ch fun e =>
    { e with presets := e.presets.map fun x => { x with apply := [], ack := [] } }
  let gone := fun (m : CtrlMsg) => m == .preset ch || m == .presetAck ch
  { d with dies := vall (fun (x : Die) => { x with
    ctrlWait := x.ctrlWait.filter fun m => !gone m, ctrlWaitUp := x.ctrlWaitUp.filter fun m => !gone m }) d.dies }.presetDone
    ch xs.length

/-- The presets on their way to a die whose link is lost: it is waited for no longer. -/
def Dev.presetLost (d : Dev) (ch : Fin 4) (f : Fin 7) : Dev :=
  (d.modEnc ch fun e => { e with presets := e.presets.map fun x =>
    { x with apply := x.apply.filter (· != f), ack := x.ack.filter (· != f) } }).presetDone ch d.pos.enc[ch].presets.length

/-- ENC_MODE_CHANGE: the new Mode and Interp are in force on every die, and the commands that wait for them are answered. -/
def Dev.encModeChange (d : Dev) (ch : Fin 4) : Dev :=
  match d.pos.enc[ch].nextCfg with
  | none => d
  | some g =>
    if !d.counting then d else
    let d := d.presetsEnd ch
    let was := d.pos.enc[ch].copies
    let same := g.mode == d.pos.enc[ch].cfg.mode
    let zero := fun (i : Nat) (c : EncCopy) => c.zeroed d.sys.now same (g.mode == 4) (g.mode != 0 && 1 ≤ i && d.hasDie (i - 1))
    let d := d.modEnc ch fun e => { e with
      cfg := { e.cfg with mode := g.mode, interp := g.interp }, nextCfg := none, copies := vallIdx zero e.copies }
    let d := if (d.hub ch).dir = (was[(0 : Fin 8)]).dir then d else d.posEvent ch 0
    let d := ((if same then d else d.causeGone (idSincosAmp ch.val)).normal (idEncSeq ch.val)).outputs ch
    let d := (fins 8).foldl (fun d k => d.turned ch k (was[k]).dir) d
    (d.ses.work.filter fun (w : WorkEntry) => w.park == some (.encMode ch)).foldl
      (fun d w => d.answer w.packet stOk noField []) d

/-- ENC_MODE_CHANGE. -/
def execEncModeChange (ch : Fin 4) (s : State) : Out := onDev (fun s => s.dev.encModeChange ch) s

/-- ENC_READ (Table 6.21). -/
def encReadCmd (c : Ctx) : Chk (Dev × Finish) := do
  let ch ← c.needEnc
  let x := c.d.hub ch
  return (c.d, .ok (
    le4 x.count.toNat ++ leBytes 1 x.wrap.toNat
    ++ leBytes 1 (fld 0 1 (bit x.dir) + fld 1 1 (bit x.indexSeen) + fld 2 1 (bit x.unreferenced) + fld 3 1 (bit x.sincosAmp))
    ++ [0, 0] ++ le4 (satInt32 (roundAway x.v)).toNat ++ le4 (satInt32 (roundAway x.acc)).toNat ++ leBytes 8 x.ts.toNat))

/-- ENC_READ's row of Table 6.2. -/
def specEncRead : CmdSpec := { opcode := 0x71, variant := 0, modes := setA, role := atLeast rObserver, len := lenIs 1 }

/-- ENC_READ. -/
def execEncRead (p : Packet) (s : State) : Out := onDev (cmdDev specEncRead encReadCmd p) s

/-- ENCOUT_CONFIG (R169, R323). -/
def encoutConfigCmd (c : Ctx) : Chk (Dev × Finish) := do
  let ps := c.ps
  if h : pU ps 0 1 < 4 then
    let o : Fin 4 := ⟨pU ps 0 1, h⟩
    if h' : pU ps 1 1 < 4 then
      let ch : Fin 4 := ⟨pU ps 1 1, h'⟩
      needRange ps 2 2 1 256
      needRange ps 4 1 0 1
      needZero ps 5 3
      let new : EncOut := { c.d.pos.out[o] with
        source := ch, enable := pU ps 4 1 == 1, divider := BitVec.ofNat 9 (pU ps 2 2), origin := c.d.outCount ch }
      return ((c.d.modPos fun p => { p with out := vmod p.out o fun _ => new }).outputs ch, .ok [])
    else throw (stBadParam, 25)
  else throw (stBadParam, 24)

/-- ENCOUT_CONFIG's row of Table 6.2. -/
def specEncoutConfig : CmdSpec :=
  { opcode := 0x72, variant := 0, modes := setO, role := atLeast rService, len := lenIs 8 }

/-- ENCOUT_CONFIG. -/
def execEncoutConfig (p : Packet) (s : State) : Out := onDev (cmdDev specEncoutConfig encoutConfigCmd p) s

/-- The runs of the swaths on a channel, patterns alone, find their count moved by an offset (R201). -/
def Dev.shiftRuns (d : Dev) (ch : Fin 4) (off : Nat) : Dev :=
  ((fins 16).filter fun s => d.swaths[s].channel == ch).foldl (fun d s => d.modSwath s fun w =>
    { w with gens := vmod w.gens 0 fun g => { g with pos := g.pos + toSigned 40 off } }) d

/-- ENC_PRESET (R169, R325): answered once every die has applied the offset. -/
def encPresetCmd (c : Ctx) : Chk (Dev × Finish) := do
  let ps := c.ps
  let ch ← c.needEnc
  needZero ps 2 2
  let e := c.d.pos.enc[ch]
  needFree (!c.d.encInUse ch)
  let want := extPos (BitVec.ofNat 8 (pU ps 1 1)) (BitVec.ofNat 32 (pU ps 4 4))
  let off := (want + 2 ^ 40 - (c.d.hub ch).ext) % 2 ^ 40
  let dies := (fins 7).filter fun f => c.d.hasDie f.val
  let d := (c.d.modCopy ch 0 fun x => x.preset (e.cfg.mode == 4) off).outputs ch
  let d := dies.foldl (fun d f => d.modDie f fun x => x.sendCtrl false (.preset ch)) (d.shiftRuns ch off)
  if dies.isEmpty then return (d, .ok []) else
  return (d.modEnc ch fun e => { e with presets := e.presets ++ [{ offset := BitVec.ofNat 40 off, apply := dies }] }, .park (.preset ch))

/-- ENC_PRESET's row of Table 6.2. -/
def specEncPreset : CmdSpec :=
  { opcode := 0x73, variant := 0, modes := setO, role := atLeast rOperator, len := lenIs 8 }

/-- ENC_PRESET. -/
def execEncPreset (p : Packet) (s : State) : Out := onDev (cmdDev specEncPreset encPresetCmd p) s

/-- The oldest preset that `p` picks changes. -/
def modPreset (p : Preset → Bool) (f : Preset → Preset) : List Preset → List Preset
  | [] => []
  | x :: xs => if p x then f x :: xs else x :: modPreset p f xs

/-- PRESET_OFFSET: a die applies the oldest offset that has reached it, and acknowledges it; with the last acknowledgement
the command is answered (R325). -/
def Dev.presetApply (d : Dev) (ch : Fin 4) (f : Fin 7) : Dev :=
  let due := d.pos.enc[ch].presets.filter fun (x : Preset) => x.apply.contains f
  match due with
  | [] => d
  | x :: _ =>
    if due.length ≤ d.dies[f].ctrlWait.count (.preset ch) then d else
    let d := d.modCopy ch (copyOf f) fun c => c.preset (d.pos.enc[ch].cfg.mode == 4) x.offset.toNat
    let r := d.sendUp f (.presetAck ch)
    (r.1.modEnc ch fun e => { e with presets := modPreset (fun x => x.apply.contains f) (fun x =>
      { x with apply := x.apply.filter (· != f), ack := if r.2 then x.ack else x.ack ++ [f] }) e.presets }).presetDone
      ch d.pos.enc[ch].presets.length

/-- A die's acknowledgement of a preset, which waited for a credit, reaches the hub. -/
def Dev.presetAcked (d : Dev) (ch : Fin 4) (f : Fin 7) : Dev :=
  (d.modEnc ch fun e => { e with presets := modPreset (fun x => x.ack.contains f) (fun x =>
    { x with ack := x.ack.filter (· != f) }) e.presets }).presetDone ch d.pos.enc[ch].presets.length

/-- PRESET_OFFSET. -/
def execPresetOffset (ch : Fin 4) (die : Fin 7) (s : State) : Out := onDev (fun s => s.dev.presetApply ch die) s

/-- A channel's Busy bit: a preset, a configuration change or a posted write is on its way to the dies. -/
def Dev.encBusy (d : Dev) (ch : Fin 4) : Bool :=
  let e := d.pos.enc[ch]
  !e.presets.isEmpty || e.nextCfg.isSome || d.mr.posted.any fun (p : Posted) => p.block == .position && p.address == 0x902C + 0x40 * ch.val

end Sys2Proof.Machine
end

