-- ==== Sys2Proof/Machine/RegMap.lean ====
section
/-! DEFINITION. The register map: which offsets hold a register, its defined, writable and privileged bits, and the
block a posted write goes to (R422, R429, R431, R433, R437, R438 and the register tables of every chapter). -/

namespace Sys2Proof.Machine

/-- A register. A privileged register's writable fields are all marked PV; `block` is that of a WP register. -/
structure Reg where
  used : Nat
  rw : Nat := 0
  pv : Bool := false
  block : Option Block := none
  deriving DecidableEq, Repr

/-- Bits `hi` down to `lo`. -/
def ones (hi lo : Nat) : Nat := 2 ^ (hi + 1) - 2 ^ lo

/-- All 32 bits. -/
abbrev allBits : Nat := 0xFFFFFFFF

/-- A register that only reads. -/
def roReg (used : Nat) : Option Reg := some { used }

/-- A register whose defined bits are all writable and posted. -/
def wpReg (b : Block) (used : Nat) : Option Reg := some { used, rw := used, block := some b }

/-- SYS_ (Tables 1.5, 2.6, 4.3, 4.4, 19.4a). -/
def sysReg (o : Nat) : Option Reg :=
  match o with
  | 0x00 => roReg (ones 15 0)
  | 0x04 | 0x08 | 0x0C | 0x18 | 0x1C | 0x2C => roReg allBits
  | 0x10 => roReg (ones 3 0 + ones 11 8 + ones 16 16)
  | 0x14 => roReg (ones 6 0 + ones 23 8)
  | 0x20 => roReg (ones 18 0 + ones 24 24)
  | 0x24 => roReg (ones 3 0 + ones 8 8)
  | 0x28 => roReg (ones 18 0)
  | 0x30 | 0x34 | 0x38 | 0x3C | 0x40 | 0x44 | 0x48 | 0x4C => roReg allBits
  | _ => none

/-- MEM_ and EVENT_ (Tables 18.3, 18.4). -/
def memReg (o : Nat) : Option Reg :=
  if o = 0x1000 then roReg (ones 6 0 + ones 11 8)
  else if o = 0x1004 then roReg (ones 4 0)
  else if 0x1008 ≤ o && o ≤ 0x101C then roReg allBits
  else if 0x1100 ≤ o && o < 0x1140 then roReg allBits
  else if 0x1140 ≤ o && o < 0x1180 then some { used := allBits, rw := allBits }
  else if o = 0x1180 then roReg (ones 15 0)
  else none

/-- SES_, CMD_ and the queue pairs (Tables 5.19 to 5.22, 19.5). -/
def sesReg (o : Nat) : Option Reg :=
  if o = 0x2000 then some { used := ones 11 0, rw := ones 11 0, pv := true }
  else if o = 0x2004 then roReg (ones 15 0)
  else if 0x2008 ≤ o && o ≤ 0x201C then roReg allBits
  else if o = 0x3000 then roReg (ones 6 0 + ones 9 8)
  else if o = 0x3004 then roReg (ones 13 0)
  else if o = 0x3008 then roReg allBits
  else if o = 0x300C then roReg (ones 6 0)
  else if 0x4000 ≤ o && o < 0x6000 then
    match o % 0x20 with
    | 0x00 | 0x08 => some { used := ones 31 6, rw := ones 31 6 }
    | 0x04 | 0x0C => some { used := allBits, rw := allBits }
    | 0x10 => some { used := ones 6 0 + ones 8 8 + ones 24 16, rw := ones 6 0 + ones 8 8 + ones 24 16 }
    | 0x14 => roReg (ones 15 0)
    | _ => none
  else none

/-- SWA_ and JOB_ (Tables 8.1, 19.6). -/
def swaReg (o : Nat) : Option Reg :=
  if 0x6000 ≤ o && o < 0x6400 then
    match o % 0x40 with
    | 0x00 => roReg (ones 5 0 + ones 15 8)
    | 0x04 | 0x08 | 0x0C | 0x10 | 0x14 | 0x18 => roReg allBits
    | _ => none
  else match o with
    | 0x6400 => roReg (ones 8 0 + ones 24 16)
    | 0x6404 => roReg allBits
    | 0x6408 => roReg (ones 7 0)
    | _ => none

/-- PCI_, ETH_ and TMX_ (Tables 19.7 to 19.9). -/
def hostReg (o : Nat) : Option Reg :=
  match o with
  | 0x7000 => roReg (ones 9 0 + ones 14 12)
  | 0x7004 => roReg (ones 0 0 + ones 15 8)
  | 0x7008 | 0x700C => roReg allBits
  | 0x7010 => roReg (ones 1 0)
  | 0x7100 => some { used := allBits, rw := allBits, pv := true, block := some .ethernet }
  | 0x7104 => some { used := ones 5 0 + ones 9 8, rw := ones 5 0 + ones 8 8, pv := true, block := some .ethernet }
  | 0x7108 => roReg allBits
  | 0x710C => roReg (ones 15 0)
  | 0x7110 => roReg (ones 0 0)
  | 0x7114 | 0x7118 => roReg allBits
  | 0x711C => some { used := ones 11 0 + ones 31 15, rw := ones 11 0 + ones 31 16, pv := true, block := some .ethernet }
  | _ => if 0x7200 ≤ o && o < 0x7220 then roReg (ones 14 0) else if o = 0x7220 then roReg (ones 1 0) else none

/-- DMA_ (Tables 9.5, 9.6). -/
def dmaReg (o : Nat) : Option Reg :=
  if 0x8000 ≤ o && o < 0x8400 then
    match o % 0x20 with
    | 0x00 => roReg (ones 6 0 + ones 16 8)
    | 0x04 | 0x08 | 0x0C | 0x14 => roReg allBits
    | 0x10 => roReg (ones 7 0 + ones 16 8)
    | 0x18 => roReg (ones 9 0)
    | _ => none
  else match o with
    | 0x8400 => roReg (ones 9 0 + ones 13 12)
    | 0x8404 => roReg (ones 8 0 + ones 23 16)
    | 0x8408 | 0x840C => roReg allBits
    | _ => none

/-- One channel's registers at offsets 0x04 to 0x24, on the hub and, without Busy, on a die (Table 13.4, R332). -/
def encReg (o : Nat) (busy : Bool) : Option Reg :=
  match o with
  | 0x08 => roReg (ones (if busy then 13 else 12) 0)
  | 0x04 | 0x0C | 0x10 | 0x14 | 0x18 | 0x1C | 0x20 => roReg allBits
  | 0x24 => roReg (ones 11 0 + ones 31 16)
  | _ => none

/-- POS_ (Tables 13.4 to 13.6). -/
def posReg (o : Nat) : Option Reg :=
  if 0x9000 ≤ o && o < 0x9100 then
    match o % 0x40 with
    | 0x00 => roReg (ones 3 0 + ones 28 8)
    | 0x28 => roReg allBits
    | 0x2C => wpReg .position (ones 7 0)
    | 0x30 => roReg (ones 11 0 + ones 27 16)
    | 0x34 => roReg (ones 12 0)
    | _ => encReg (o % 0x40) true
  else if 0x9100 ≤ o && o < 0x9140 then (if o % 0x10 = 0 then roReg (ones 2 0 + ones 24 16) else none)
  else match o with
    | 0x9140 => roReg (ones 7 0)
    | 0x9144 | 0x9148 | 0x914C | 0x9150 => roReg allBits
    | _ => none

/-- TAX_ and BUS_ (Tables 14.3, 14.4). -/
def taxReg (o : Nat) : Option Reg :=
  if 0xA000 ≤ o && o < 0xA200 then
    match o % 0x80 with
    | 0x00 => roReg (ones 6 0)
    | 0x04 => roReg (ones 0 0)
    | 0x08 | 0x0C | 0x10 | 0x18 | 0x34 | 0x38 | 0x3C => roReg allBits
    | 0x14 => roReg (ones 15 0)
    | 0x1C | 0x20 | 0x24 | 0x28 | 0x2C => wpReg .motion allBits
    | 0x30 => wpReg .motion (ones 7 0)
    | k => if 0x40 ≤ k then roReg allBits else none
  else match o with
    | 0xA200 => roReg (ones 15 0)
    | 0xA204 | 0xA208 => roReg (ones 11 0 + ones 27 16)
    | 0xA20C => wpReg .motion (ones 11 0 + ones 23 16)
    | 0xA210 | 0xA214 => wpReg .motion allBits
    | 0xA218 => roReg allBits
    | _ => none

/-- AUX_ (Tables 15.2, 15.3). -/
def auxReg (o : Nat) : Option Reg :=
  if 0xB000 ≤ o && o < 0xB200 then
    match o % 0x40 with
    | 0x00 => roReg (ones 6 0 + ones 11 8)
    | 0x04 | 0x08 | 0x1C | 0x24 | 0x30 => roReg allBits
    | 0x0C => roReg (ones 11 0)
    | 0x10 => roReg (ones 0 0)
    | 0x14 => wpReg .motion (ones 23 0)
    | 0x18 => wpReg .motion allBits
    | 0x20 => roReg (ones 23 0)
    | 0x28 => roReg (ones 27 0)
    | 0x2C => roReg (ones 9 0)
    | _ => none
  else match o with
    | 0xB200 => wpReg .motion (ones 16 0)
    | 0xB204 => wpReg .motion (ones 15 0)
    | 0xB208 | 0xB20C => roReg allBits
    | _ => none

/-- FLT_ (R391, Tables 16.5, 16.9 to 16.11). -/
def fltReg (d : Dev) (o : Nat) : Option Reg :=
  if 0xC000 ≤ o && o < 0xD000 then
    roReg (if d.sourceInUse ((o - 0xC000) / 4) then ones 12 0 + ones 24 16 else 0)
  else if 0xD000 ≤ o && o < 0xE000 then roReg (if d.sourceInUse ((o - 0xD000) / 4) then allBits else 0)
  else if o = 0xE000 then some { used := ones 2 0, rw := ones 2 0, pv := true }
  else if o = 0xE004 then
    some { used := ones 4 0 + ones 14 8 + ones 22 16, rw := ones 4 0 + ones 14 8 + ones 22 16, pv := true }
  else if o = 0xE008 then some { used := allBits, rw := allBits, pv := true }
  else if o = 0xE00C then roReg allBits
  else if o = 0xE010 then roReg (ones 6 0)
  else if 0xE020 ≤ o && o < 0xE060 then roReg allBits
  else if (0xE100 ≤ o && o < 0xE1A0) || (0xE200 ≤ o && o < 0xE2A0) then
    match o % 0x100 with
    | 0x00 => roReg (ones 27 0)
    | 0x10 => roReg (ones 23 0)
    | 0x18 | 0x1C => roReg 0
    | _ => roReg allBits
  else none

/-- OTP_ (Table 17.12). OTP_CMD is posted and tracked by OTP_STAT.Busy. -/
def otpReg (o : Nat) : Option Reg :=
  match o with
  | 0xF000 => wpReg .otp (ones 12 0)
  | 0xF004 => roReg (ones 6 0 + ones 27 8)
  | 0xF008 | 0xF00C => roReg allBits
  | 0xF010 => some { used := ones 8 0, rw := ones 8 0, pv := true, block := some .otpLock }
  | 0xF014 => roReg (ones 5 0 + ones 10 8 + ones 16 16)
  | 0xF018 => roReg (ones 8 0)
  | 0xF01C => roReg (ones 11 0 + ones 31 16)
  | _ => none

/-- The offset lies in the registers of one axis: TAX_ of an axis, or AUX_ of an axis. What BUS_, AUX_VBUS and the switch
registers hold belongs to no axis and is on every variant (R4). -/
def axisBlock (o : Nat) : Bool := (0xA000 ≤ o && o < 0xA200) || (0xB000 ≤ o && o < 0xB200)

/-- The variant lacks the axis whose registers an offset lies in (Table 0.2). -/
def Dev.axisAbsent (d : Dev) (o : Nat) : Bool := axisBlock o && !(if o < 0xB000 then d.hasTax else d.hasAux)

/-- A hub register (Table 19.3). A direct access to a register of an axis the variant lacks is treated as one to an
unassigned offset: it reads 0, and a write is dropped and counted in MEM_WRDROP (DESIGN CHOICE, log 54: R6 gives a status
and a direct access has none; R12 and R438 speak of dies and ports). -/
def hubReg (d : Dev) (o : Nat) : Option Reg :=
  match o / 0x1000 with
  | 0x0 => sysReg o
  | 0x1 => memReg o
  | 0x2 | 0x3 | 0x4 | 0x5 => sesReg o
  | 0x6 => swaReg o
  | 0x7 => hostReg o
  | 0x8 => dmaReg o
  | 0x9 => posReg o
  | 0xA => if d.axisAbsent o then none else taxReg o
  | 0xB => if d.axisAbsent o then none else auxReg o
  | 0xC | 0xD | 0xE => fltReg d o
  | 0xF => otpReg o
  | _ => none

/-- PRT_ of a port (Table 10.8). -/
def prtReg (f : Fin 7) (k : Nat) : Option Reg :=
  match k with
  | 0x00 => wpReg (.die f) (ones 3 0)
  | 0x04 => roReg (ones 22 0)
  | 0x08 => roReg (ones 25 0)
  | 0x10 => roReg (ones 3 0)
  | 0x0C | 0x14 | 0x18 | 0x1C | 0x20 | 0x24 | 0x28 | 0x2C => roReg allBits
  | _ => none

/-- PLS_ of a port (Table 11.5). -/
def plsReg (f : Fin 7) (k : Nat) : Option Reg :=
  match k with
  | 0x00 => roReg (ones 24 0)
  | 0x04 => roReg (ones 13 0)
  | 0x08 => wpReg (.die f) (ones 25 0 + ones 31 31)
  | 0x0C | 0x10 | 0x1C | 0x20 | 0x24 => roReg allBits
  | 0x14 => roReg (ones 9 0)
  | 0x18 => roReg (ones 23 0)
  | 0x28 => roReg (ones 15 0)
  | _ => if 0x40 ≤ k && k ≤ 0x80 then wpReg (.die f) (ones 15 0) else none

/-- SNS_ of a port (Table 12.9). -/
def snsReg (k : Nat) : Option Reg :=
  match k with
  | 0x08 => roReg (ones 3 0 + ones 29 16)
  | 0x20 => roReg (ones 3 0)
  | 0x00 | 0x04 | 0x0C | 0x10 | 0x14 | 0x18 | 0x1C | 0x24 => roReg allBits
  | _ => none

/-- A register of furrow die f (Table 19.4). -/
def dieReg (d : Dev) (f : Fin 7) (o : Nat) : Option Reg :=
  let port := fun (r : Option Reg) => if d.hasPort (16 * f.val + o / 0x100 % 16) then r else none
  match o / 0x1000 with
  | 0x00 => match o with
    | 0x00 => roReg (ones 2 0 + ones 31 16)
    | 0x04 => roReg (ones 3 0)
    | 0x08 | 0x0C | 0x28 | 0x40 | 0x44 | 0x64 | 0x68 | 0x6C => roReg allBits
    | 0x20 => roReg (ones 18 0 + ones 24 24)
    | 0x24 => roReg (ones 15 0)
    | 0x48 => some { used := ones 16 0 + ones 30 24, rw := ones 16 0 + ones 30 24, pv := true, block := some (.die f) }
    | 0x60 => roReg (ones 4 0)
    | _ => none
  | 0x10 => port (prtReg f (o % 0x100))
  | 0x20 => port (plsReg f (o % 0x100))
  | 0x30 => port (snsReg (o % 0x100))
  | 0x40 => if o < 0x40100 then encReg (o % 0x40) false else none
  | _ => none

/-- Registers and their bit aliases lie at these offsets of a die; the rest are memory windows (R419, R422, R433). -/
inductive Place where
  | register (a : Nat)
  | bitAlias (a bit : Nat)
  | window (a : Nat)
  deriving DecidableEq, Repr

/-- What kind of place a BAR0 offset is. A bit alias names its register's offset and the bit (R433). -/
def placeOf (a : Nat) : Place :=
  let o := a % 2 ^ 24
  if o < 0x100000 then .register a
  else if 0xE00000 ≤ o then
    let i := (o - 0xE00000) / 4
    .bitAlias (a / 2 ^ 24 * 2 ^ 24 + i / 32 * 4) (i % 32)
  else .window a

/-- The register at a BAR0 offset, if the variant has one there (R12, R422, R436 to R438). -/
def Dev.reg? (d : Dev) (a : Nat) : Option Reg :=
  if a % 4 ≠ 0 then none
  else if a / 2 ^ 24 = 0 then hubReg d (a % 2 ^ 24)
  else if h : a / 2 ^ 24 - 1 < 7 then
    if d.hasDie (a / 2 ^ 24 - 1) then dieReg d ⟨a / 2 ^ 24 - 1, h⟩ (a % 2 ^ 24) else none
  else none

/-- The block that a posted write to a memory window goes to: the die, when it is not the hub (R301, R431). -/
def windowBlock (a : Nat) : Option Block :=
  if h : 1 ≤ a / 2 ^ 24 ∧ a / 2 ^ 24 < 8 then some (.die ⟨a / 2 ^ 24 - 1, by omega⟩) else none

/-- OTP_STAT.Busy: a request is queued, or a posted write of OTP_CMD has its read to come (R395, R431). -/
def Dev.otpBusy (d : Dev) : Bool :=
  !d.otp.queue.isEmpty || d.mr.posted.any fun (p : Posted) => p.block == .otp

/-- A block's BUSY bit (Table 18.3). The Position bit is the OR of POS_CH_STAT.Busy; no bit tracks OTP_LOCK; a die whose
Tine link is not up shows none (R445). -/
def Dev.blockBusy (d : Dev) (b : Block) : Bool :=
  match b with
  | .otpLock => false
  | .otp => d.otpBusy
  | .position => (fins 4).any d.encBusy
  | .die f => d.dies[f].tine == 2 && d.mr.posted.any fun (p : Posted) => p.block == b
  | _ => d.mr.posted.any fun (p : Posted) => p.block == b

end Sys2Proof.Machine
end

