-- ==== Sys2Proof/Machine/RegRead.lean ====
section
/-! DEFINITION. What each register reads: every field as it stands at the moment of the read (R422 to R424, R429). -/

namespace Sys2Proof.Machine

/-- Bits set where a predicate holds of their number. -/
def bitsOf (n : Nat) (p : Nat → Bool) : Nat := (List.range n).foldl (fun w i => w + fld i 1 (bit (p i))) 0

/-- The low and high words of a 64-bit value. -/
def loW (v : Nat) : Nat := v % 2 ^ 32
def hiW (v : Nat) : Nat := v / 2 ^ 32 % 2 ^ 32

/-- Die d (0 hub, 1 to 7) is present. -/
def Dev.dieHere (d : Dev) (k : Nat) : Bool := k == 0 || d.hasDie (k - 1)

/-- The hottest die, the lowest number first among equals (Table 19.4a). -/
def Dev.hottest (d : Dev) : Nat × Int :=
  (List.range 8).foldl (fun (best : Nat × Int) k =>
    let t := (Config.dieTemp k d.sys.now).toInt
    if d.dieHere k && decide (best.2 < t) then (k, t) else best) (0, (Config.dieTemp 0 d.sys.now).toInt)

/-- The lowest pace, and its die: the lowest number among equals (R24). -/
def Dev.lowestPace (d : Dev) : Nat × Nat :=
  (List.range 8).foldl (fun (best : Nat × Nat) k =>
    let v := (d.sys.pace.toList.getD k 0).toNat
    if d.dieHere k && decide (v < best.2) then (k, v) else best) (0, d.sys.pace[0].toNat)

/-- SYS_. -/
def Dev.sysVal (d : Dev) (o : Nat) : Nat :=
  let x := d.sys
  match o with
  | 0x00 => 8
  | 0x04 => loW d.otp.deviceId.toNat
  | 0x08 => hiW d.otp.deviceId.toNat
  | 0x0C => Config.romBuild.toNat + fld 16 16 x.patchLevel.toNat
  | 0x10 => d.mode.toNat + fld 8 4 x.bootStep.toNat + fld 16 1 (bit x.changing)
  | 0x14 => x.lastStart.toNat + fld 2 1 (bit x.shadowReread) + fld 3 1 (bit x.tineRetrained) + fld 4 1 (bit x.coldScan)
      + fld 5 2 x.refFail.toNat + fld 8 4 x.bootFail.toNat + fld 12 4 x.wakeSource.toNat + fld 16 8 x.cpRestarts
  | 0x18 => loW x.now.toNat
  | 0x1C => hiW x.now.toNat
  | 0x20 => fld 0 16 d.lowestPace.2 + fld 16 3 d.lowestPace.1 + fld 24 1 (bit x.paceLow)
  | 0x24 => bit x.mgmtSec + fld 1 2 x.hostIf.toNat + fld 3 1 (bit x.packageP65) + fld 8 1 (bit x.supplyOrder)
  | 0x28 => sfld 0 16 d.hottest.2 + fld 16 3 d.hottest.1
  | 0x2C => x.cache0.toNat + fld 16 16 x.cache1.toNat
  | _ =>
    if 0x30 ≤ o && o < 0x40 then bitsOf 32 fun i => d.hasPort (32 * ((o - 0x30) / 4) + i)
    else if 0x40 ≤ o && o < 0x50 then bitsOf 32 fun i =>
      match d.ports.toList[32 * ((o - 0x40) / 4) + i]? with
      | some p => p.headValid
      | none => false
    else 0

/-- MEM_ERRINFO of a die. -/
def MemRegs.errInfo (m : MemRegs) (k : Nat) : Nat :=
  (m.errBank.toList.getD k 0).toNat + fld 4 1 (bit (m.errValid.toList.getD k false))

/-- A class is pending (R425). -/
def Events.pendingClass (e : Events) (c : Nat) : Bool := e.seq.toList.getD c 0 != e.ack.toList.getD c 0

/-- MEM_ and EVENT_. -/
def Dev.memVal (d : Dev) (o : Nat) : Nat :=
  let m := d.mr
  match o with
  | 0x1000 => bitsOf 7 (fun f => if h : f < 7 then d.blockBusy (.die ⟨f, h⟩) else false)
      + fld 8 1 (bit (d.blockBusy .motion)) + fld 9 1 (bit d.otpBusy) + fld 10 1 (bit (d.blockBusy .position))
      + fld 11 1 (bit (d.blockBusy .ethernet))
  | 0x1004 => m.errInfo 0
  | 0x1008 => m.errAddr[0].toNat
  | 0x100C => m.ce[0]
  | 0x1010 => m.vote[0]
  | 0x1014 => m.pvDrop
  | 0x1018 => m.wrDrop
  | 0x101C => m.wpDrop
  | 0x1180 => bitsOf 16 d.ev.pendingClass
  | _ =>
    if o < 0x1140 then (d.ev.seq.toList.getD ((o - 0x1100) / 4) 0).toNat
    else (d.ev.ack.toList.getD ((o - 0x1140) / 4) 0).toNat

/-- A queue pair holds a provisional ID (Table 5.20). -/
def Dev.qpProvisional (d : Dev) (q : Fin 256) : Bool := d.ses.prov.any fun (x : Provisional) => x.via == .pcie q

/-- SES_, CMD_ and the queue pairs. -/
def Dev.sesVal (d : Dev) (o : Nat) : Nat :=
  let x := d.ses
  match o with
  | 0x2000 => x.sesIdle
  | 0x2004 => fld 0 8 x.openS.length + fld 8 8 x.prov.length
  | 0x2008 => x.dropCrc
  | 0x200C => x.dropLen
  | 0x2010 => x.dropMac
  | 0x2014 => x.dropNet
  | 0x2018 => x.dropSpi
  | 0x201C => x.dropDoorbell
  | 0x3000 => fld 0 7 x.work.length + fld 8 1 (bit d.intakeOpen)
  | 0x3004 => if d.intakeOpen then min (Config.wdogLeft d.sys.now).toNat 10000 else 0
  | 0x3008 => x.executed
  | 0x300C => fld 0 7 (x.work.filter fun (e : WorkEntry) => e.park.isSome).length
  | _ =>
    if o < 0x4000 then 0 else
    let q := Fin.ofNat 256 ((o - 0x4000) / 0x20)
    let y := x.qp[q]
    match o % 0x20 with
    | 0x00 => loW y.sqBase.toNat
    | 0x04 => hiW y.sqBase.toNat
    | 0x08 => loW y.cqBase.toNat
    | 0x0C => hiW y.cqBase.toNat
    | 0x10 => y.entries.toNat + fld 8 1 (bit y.enable) + fld 16 9 y.vector.toNat
    | 0x14 => fld 0 8 (d.qpSession q).toNat + fld 8 7 y.sqHead + fld 15 1 (bit (d.qpProvisional q))
    | _ => 0

/-- SWA_ and JOB_. -/
def Dev.swaVal (d : Dev) (o : Nat) : Nat :=
  match o with
  | 0x6400 => (match d.activeJob with | some j => fld 0 8 j + fld 8 1 1 | none => 0)
      + (match d.armed with | some a => fld 16 8 a.job + fld 24 1 1 | none => 0)
  | 0x6404 => match d.armed with | some a => a.boundary.toNat | none => 0
  | 0x6408 => match d.armed with | some a => a.wrap.toNat | none => 0
  | _ =>
    if 0x6400 ≤ o then 0 else
    let s := Fin.ofNat 16 ((o - 0x6000) / 0x40)
    let w := d.swaths[s]
    let switchPending := match d.armed with
      | some a => a.toSwitch.contains s
      | none => false
    match o % 0x40 with
    | 0x00 => w.state.toNat + fld 2 1 (bit w.reference) + fld 3 1 (bit switchPending) + fld 4 2 w.channel.val
        + fld 8 8 w.job
    | 0x04 => fld 0 32 w.firePoint
    | 0x08 => w.gens[0].swCount.toNat
    | 0x0C => fld 0 32 w.gearNum
    | 0x10 => fld 0 32 w.gearDen
    | 0x14 => w.barOffset.toNat
    | 0x18 => fld 0 32 (d.rateInForce s)
    | _ => 0

/-- PCIe is strapped off: Speed and Width read 0 (R442). -/
def Dev.pcieOff (d : Dev) : Bool := !d.linkOn (.pcie 0)

/-- The MAC address octets (Table 17.8), octet 0 in bits 7:0. -/
def Eth.macWord (e : Eth) (k : Nat) : Nat := e.mac.toNat / 2 ^ (32 * k) % 2 ^ 32

/-- PCI_, ETH_ and TMX_. -/
def Dev.hostVal (d : Dev) (o : Nat) : Nat :=
  let p := d.pci
  let e := d.eth
  match o with
  | 0x7000 => (if d.pcieOff then 0 else p.speed.toNat + fld 4 6 p.width.toNat) + fld 12 2 p.power.toNat
      + fld 14 1 (bit p.perst)
  | 0x7004 => match d.ses.gate with | some s => 1 + fld 8 8 s.toNat | none => 0
  | 0x7008 => fld 0 16 p.uncorrectable + fld 16 16 p.correctable
  | 0x700C => fld 0 16 p.perstFalls + fld 16 16 p.flrs
  | 0x7010 => bit p.msixEnable + fld 1 1 (bit p.functionMask)
  | 0x7100 => e.ip.toNat
  | 0x7104 => e.prefixLen.toNat + fld 8 1 (bit e.valid) + fld 9 1 (bit e.fromOtp)
  | 0x7108 => e.macWord 0
  | 0x710C => fld 0 16 (e.macWord 1)
  | 0x7110 => bit (e.link && d.linkOn (.udp 0 0))
  | 0x7114 => e.rx
  | 0x7118 => e.tx
  | 0x711C => e.phy.toNat + fld 5 5 e.reg.toNat + fld 10 1 (bit e.write) + fld 15 1 (bit e.pendingMdio)
      + fld 16 16 e.data.toNat
  | 0x7220 => bit d.tmxLive + fld 1 1 (bit d.otp.debugOpen)
  | _ =>
    let n := Fin.ofNat 8 ((o - 0x7200) / 4)
    d.tmx.signal[n].toNat + fld 12 3 d.tmx.die[n].toNat

/-- DMA_. -/
def Dev.dmaVal (d : Dev) (o : Nat) : Nat :=
  match o with
  | 0x8400 => fld 0 10 (512 - d.dmaSlots) + fld 12 2 d.discipline
  | 0x8404 => fld 0 9 (256 - d.dmaTags false) + fld 16 8 (128 - d.dmaTags true)
  | 0x8408 => d.dma.drop
  | 0x840C => d.dma.ecc
  | _ =>
    let x := d.dma.ch[Fin.ofNat 32 ((o - 0x8000) / 0x20)]
    match o % 0x20 with
    | 0x00 => x.stateSeen.toNat + fld 2 3 x.retries + fld 5 2 x.errorCode.toNat + fld 8 9 x.entries
    | 0x04 => x.done.toNat
    | 0x08 => x.fenced.toNat
    | 0x0C => x.errIdx.toNat
    | 0x10 => bit x.swathFeed + fld 1 3 x.retryMax.toNat + fld 4 4 x.swath.val + fld 8 9 x.vector.toNat
    | 0x14 => x.next.toNat
    | 0x18 => fld 0 10 x.slots
    | _ => 0

/-- A die's copy of a channel at offsets 0x04 to 0x24 (Table 13.4, R332). -/
def EncCopy.val (c : EncCopy) (o : Nat) : Nat :=
  match o with
  | 0x04 => c.count.toNat
  | 0x08 => c.wrap.toNat + fld 8 1 (bit c.dir) + fld 9 1 (bit c.indexSeen) + fld 10 1 (bit c.unreferenced)
      + fld 11 1 (bit c.sincosAmp) + fld 12 1 (bit c.still)
  | 0x0C => (satInt32 (roundAway c.v)).toNat
  | 0x10 => (satInt32 (roundAway c.acc)).toNat
  | 0x14 => c.event.toNat
  | 0x18 => c.index.toNat
  | 0x1C => loW c.ts.toNat
  | 0x20 => hiW c.ts.toNat
  | 0x24 => c.m.toNat + fld 16 8 (min c.outside 255) + fld 24 8 c.gen.toNat
  | _ => 0

/-- POS_. -/
def Dev.posVal (d : Dev) (o : Nat) : Nat :=
  let p := d.pos
  match o with
  | 0x9140 => p.divChannel.toNat + fld 2 3 p.divDie.toNat + fld 5 2 p.divKind.toNat + fld 7 1 (bit p.divValid)
  | 0x9144 => p.divEvent.toNat
  | 0x9148 => p.divHub.toNat
  | 0x914C => p.divDieCount.toNat
  | 0x9150 => p.wrDrop
  | _ =>
    if 0x9100 ≤ o then
      let x := p.out[Fin.ofNat 4 ((o - 0x9100) / 0x10)]
      x.source.val + fld 2 1 (bit x.enable) + fld 16 9 x.divider.toNat
    else
      let ch := Fin.ofNat 4 ((o - 0x9000) / 0x40)
      let e := p.enc[ch]
      match o % 0x40 with
      | 0x00 => e.cfg.mode.toNat + fld 3 1 (bit e.cfg.term) + fld 8 8 e.cfg.winN.toNat + fld 16 13 e.cfg.interp.toNat
      | 0x08 => (d.hub ch).val 0x08 + fld 13 1 (bit (d.encBusy ch))
      | 0x28 => e.seqErr
      | 0x2C => e.dirHyst.toNat
      | 0x30 => e.cfg.winLo.toNat + fld 16 12 e.cfg.winHi.toNat
      | 0x34 => e.cfg.bandwidth.toNat
      | k => (d.hub ch).val k

/-- TAX_ and BUS_. -/
def Dev.taxVal (d : Dev) (o : Nat) : Nat :=
  let b := d.mot.bus
  match o with
  | 0xA200 => b.code.toNat + fld 12 2 b.state.toNat + fld 14 1 (bit b.ovWarnActive) + fld 15 1 (bit b.regenLimit)
  | 0xA204 => b.brkOff.toNat + fld 16 12 b.brkOn.toNat
  | 0xA208 => b.ovWarn.toNat + fld 16 12 b.ovTrip.toNat
  | 0xA20C => b.brkIMin.toNat + fld 16 8 b.riseCodes.toNat
  | 0xA210 => b.scale.toNat
  | 0xA214 => b.pscale.toNat
  | 0xA218 => b.taxWrDrop
  | _ =>
    let n := Fin.ofNat 4 ((o - 0xA000) / 0x80)
    let t := d.mot.tax[n]
    match o % 0x80 with
    | 0x00 => t.state.toNat + fld 3 1 (bit t.capActive) + fld 4 1 (bit t.dutyClamp) + fld 5 1 (bit b.regenLimit)
        + fld 6 1 (bit (d.contained (.transport n)))
    | 0x04 => t.enable.val.toNat
    | 0x08 => (rpmWord t.speed).toNat
    | 0x0C => (rpmWord t.capped).toNat
    | 0x10 => mA16 t.iq + fld 16 16 (mA16 t.id)
    | 0x14 => ((t.angle * 65536).floor % 65536).toNat
    | 0x18 => match t.cap with
        | some c => (roundAway (100 * c)).toNat % 2 ^ 32
        | none => 0xFFFFFFFF
    | 0x1C => t.rs.toNat + fld 16 16 t.ls.toNat
    | 0x20 => t.psi.toNat + fld 16 16 t.imax.toNat
    | 0x24 => t.shunt.toNat + fld 16 16 t.ascRpm.toNat
    | 0x28 => t.ifCurrent.toNat + fld 16 16 t.ifRamp.toNat
    | 0x2C => t.encRev.toNat
    | 0x30 => t.residualPct.toNat
    | 0x34 => t.skips
    | 0x38 => t.late
    | 0x3C => t.recatches
    | k =>
      let i := (k - 0x40) / 4
      (t.advance.toList.getD (2 * i) 0).toNat + fld 16 16 (t.advance.toList.getD (2 * i + 1) 0).toNat

/-- AUX_. -/
def Dev.auxVal (d : Dev) (o : Nat) : Nat :=
  let m := d.mot
  match o with
  | 0xB200 => m.vbusMv.toNat + fld 16 1 (bit m.vbusSrc)
  | 0xB204 => m.swPol.toNat
  | 0xB208 => bitsOf 16 (fun i => (m.switches.toList.getD i {}).raw)
      + fld 16 16 (bitsOf 16 fun i => (m.switches.toList.getD i {}).active)
  | 0xB20C => m.auxWrDrop
  | _ =>
    let a := m.aux[Fin.ofNat 8 ((o - 0xB000) / 0x40)]
    match o % 0x40 with
    | 0x00 => a.state.toNat + fld 3 1 (bit a.posValid) + fld 4 1 (bit a.accelOverridden)
        + fld 5 1 (bit a.followOn.isSome) + fld 6 1 (bit a.idle)
        + fld 8 4 (match a.homing with | some h => h.step | none => 0)
    | 0x04 => a.pos.toNat
    | 0x08 => a.speedWord.toNat
    | 0x0C => fld 0 12 a.load
    | 0x10 => a.enable.val.toNat
    | 0x14 => a.lmUh.toNat + fld 16 8 a.corrPct.toNat
    | 0x18 => a.iscale.toNat
    | 0x1C => match a.move with | some x => x.target.toNat | none => 0
    | 0x20 => a.idlePct.toNat + fld 8 8 a.pwmKhz.toNat + fld 16 8 a.stallDeg.toNat
    | 0x24 => a.rmOhm.toNat + fld 16 16 a.ke.toNat
    | 0x28 => a.irunMa.toNat + fld 16 12 a.idleDelay.toNat
    | 0x2C => a.stepsPerRev.toNat
    | 0x30 => a.stalls
    | _ => 0

/-- FLT_SRC of a source (Table 16.9). -/
def Dev.srcWord (d : Dev) (id : Nat) : Nat :=
  if !d.sourceInUse id then 0 else
  let x := d.src id
  x.cls.val.toNat + fld 3 3 (lowestClass id) + fld 6 1 x.force.val.toNat + fld 7 1 (bit (hasUnit id))
    + fld 8 1 (bit x.active) + fld 9 1 (bit x.latched) + fld 10 1 (bit x.forced) + fld 11 1 (bit (d.srcContained id))
    + fld 12 1 (bit x.wire) + fld 16 6 (sourceBlock id) + fld 22 3 (sourceDie id)

/-- The 160 bytes of a fault record (Table 16.5). -/
def FaultRecord.bytes (r : FaultRecord) : List Byte :=
  leBytes 2 r.source.toNat ++ leBytes 1 r.cls.toNat
    ++ leBytes 1 (bit r.forced + 2 * bit r.escalated + 4 * bit r.complete + 8 * bit r.valid)
    ++ leBytes 4 r.merged ++ leBytes 8 r.ts.toNat ++ leBytes 2 r.escSource.toNat ++ leBytes 1 r.escClass.toNat ++ [0]
    ++ leBytes 4 r.doneDelta ++ List.replicate 8 0 ++ leBytes 128 r.mergeMap.toNat

/-- The ESTOP pair's broken-wire state (R388): both legs at one level. -/
def Faults.estopWire (x : Faults) : Bool :=
  match x.estop with
  | some (p, n) => p == n
  | none => false

/-- FAULT_OUT_P + 2 × FAULT_OUT_N at the balls: as driven, or one of the other three states while FAULT_OUT_RB's cause is
present (Tables 16.2, 16.11). -/
def Dev.faultBalls (d : Dev) : Nat :=
  let drive := if d.flt.asserted then 2 else 1
  if (d.src 0x015).cause then (drive + 1 + (Config.faultBalls d.sys.now).val) % 4 else drive

/-- FLT_OUT (Table 16.11). -/
def Dev.fltOut (d : Dev) : Nat :=
  let x := d.flt
  let e := x.estop.getD (false, false)
  bit x.asserted + fld 1 2 d.faultBalls + fld 3 1 (bit e.1) + fld 4 1 (bit e.2)
    + fld 5 1 (bit (d.src 0x00E).active) + fld 6 1 (bit x.estopWire)

/-- FLT_. -/
def Dev.fltVal (d : Dev) (o : Nat) : Nat :=
  let x := d.flt
  match o with
  | 0xE000 => x.outClass.val.toNat
  | 0xE004 => x.gateDual.val.toNat + fld 4 1 x.gateHigh.val.toNat + fld 8 7 x.gateFilter.val.toNat
      + fld 16 7 x.estopFilter.val.toNat
  | 0xE008 => x.gpioEnable.val.toNat + fld 16 16 x.gpioHigh.val.toNat
  | 0xE00C => x.wrDrop
  | 0xE010 => d.fltOut
  | _ =>
    if o < 0xD000 then d.srcWord ((o - 0xC000) / 4)
    else if o < 0xE000 then (if d.sourceInUse ((o - 0xD000) / 4) then (d.src ((o - 0xD000) / 4)).count else 0)
    else if o < 0xE060 then
      let w := d.blockstat ((o - 0xE020) / 8)
      if o % 8 = 0 then loW w else hiW w
    else
      let r := if o < 0xE200 then x.firstRec else x.latestRec
      pU r.bytes (o % 0x100) 4

/-- OTP_. -/
def Dev.otpVal (d : Dev) (o : Nat) : Nat :=
  let x := d.otp
  match o with
  | 0xF000 => x.cmdRow.toNat
  | 0xF004 => bit d.otpBusy + fld 1 1 (bit x.statMarginal) + fld 2 1 (bit x.statRedirected)
      + fld 3 1 (bit x.statReadLocked) + fld 4 3 x.queue.length + fld 8 8 x.lastStatus.toNat + fld 16 12 x.lastRow.toNat
  | 0xF008 => x.dlo.toNat
  | 0xF00C => x.dhi.toNat
  | 0xF010 => x.lock.val.toNat
  | 0xF014 => x.integ.toNat + fld 8 3 x.sealedR.toNat + fld 16 1 (bit x.debugOpen)
  | 0xF018 => x.feat.val.toNat
  | 0xF01C => x.marRow.toNat + fld 16 16 x.marCount
  | _ => 0

/-- A hub register. -/
def Dev.hubVal (d : Dev) (o : Nat) : Nat :=
  match o / 0x1000 with
  | 0x0 => d.sysVal o
  | 0x1 => d.memVal o
  | 0x2 | 0x3 | 0x4 | 0x5 => d.sesVal o
  | 0x6 => d.swaVal o
  | 0x7 => d.hostVal o
  | 0x8 => d.dmaVal o
  | 0x9 => d.posVal o
  | 0xA => d.taxVal o
  | 0xB => d.auxVal o
  | 0xC | 0xD | 0xE => d.fltVal o
  | 0xF => d.otpVal o
  | _ => 0

/-- PRT_. PRT_CFG.Blocks keeps its value while a geometry leaves the port not configured (DESIGN CHOICE, log 78). -/
def Dev.prtVal (d : Dev) (gp : Fin 112) (k : Nat) : Nat :=
  let p := d.ports[gp]
  match k with
  | 0x00 => bit p.rows2 + fld 1 1 (bit p.staggered) + fld 2 2 p.banks.toNat
  | 0x04 => p.blocks.toNat + fld 8 1 (bit p.group) + fld 9 2 p.phases.toNat + fld 11 6 p.addrM1.toNat
      + fld 17 6 p.rotStep.toNat
  | 0x08 => p.stagger.toNat + fld 16 10 p.slotGap.toNat
  | 0x0C => fld 0 32 p.tmin
  | 0x10 => fld 0 3 (d.portState gp) + fld 3 1 (bit (d.reversed gp))
  | 0x14 => p.rowA.last.toNat
  | 0x18 => p.rowB.last.toNat
  | 0x1C => p.underruns
  | 0x20 => p.drops
  | 0x24 => fld 0 16 (min p.consecDrops 0xFFFF) + fld 16 16 (min p.consecUnderruns 0xFFFF)
  | 0x28 => p.wrDrop
  | 0x2C => p.lost
  | _ => 0

/-- PLS_. -/
def Dev.plsVal (d : Dev) (gp : Fin 112) (k : Nat) : Nat :=
  let p := d.ports[gp]
  let h := p.heat
  match k with
  | 0x00 => sfld 0 16 h.temp + fld 16 4 h.band.toNat + fld 20 1 (bit h.belowWarm) + fld 21 1 (bit h.hot)
      + fld 22 1 (bit h.crit) + fld 23 1 (bit h.sensorFault) + fld 24 1 (bit !p.on)
  | 0x04 => h.code.toNat
  | 0x08 => h.hotRatePct.toNat + fld 8 10 h.kwPeriodUs.toNat + fld 18 8 h.spitPeriodMs.toNat + fld 31 1 (bit h.tsnValid)
  | 0x0C => sfld 0 16 h.warm + sfld 16 16 h.hotTh
  | 0x10 => sfld 0 16 h.critTh + sfld 16 16 h.bandBase
  | 0x14 => fld 0 8 h.hyst + fld 8 2 h.hotAction.toNat
  | 0x18 => bit h.keepWarm + fld 1 3 h.spitPattern.toNat + fld 4 10 h.keepWarmNs.toNat + fld 14 10 h.headlandMinUs.toNat
  | 0x1C => h.hotBlank
  | 0x20 => h.spits
  | 0x24 => h.critLine.toNat
  | 0x28 => h.critSlotsA.toNat + fld 8 8 h.critSlotsB.toNat
  | _ => (h.tsnTab.toList.getD ((k - 0x40) / 4) 0).toNat

/-- SNS_. The counts are over the map bytes of the configured nozzles (R309). -/
def Dev.snsVal (d : Dev) (m : Banks) (gp : Fin 112) (k : Nat) : Nat :=
  let p := d.ports[gp]
  let c := p.scan
  let count := fun (q : Nat → Bool) => ((m.bytes (mapAddr gp.val 0) p.nozzles).filter fun b => q b.toNat).length
  let cls := fun (a b : Nat) =>
    fld 0 16 (count fun v => getF 2 3 v == a) + fld 16 16 (count fun v => getF 2 3 v == b)
  match k with
  | 0x00 => c.bandShort.toNat + fld 16 16 c.bandLow.toNat
  | 0x04 => c.bandHigh.toNat + fld 16 16 c.bandOpen.toNat
  | 0x08 => c.state.toNat + fld 2 1 (bit c.aborted) + fld 3 1 (bit c.testMode) + fld 16 14 c.next
  | 0x0C => fld 0 16 c.measured + fld 16 16 c.newMasked
  | 0x10 => cls 0 1
  | 0x14 => cls 2 3
  | 0x18 => cls 4 5
  | 0x1C => fld 0 16 (count (getB 7)) + fld 16 16 (count (getB 0))
  | 0x20 => p.calSel.val + fld 2 2 p.waveSel.val
  | 0x24 => c.aborts
  | _ => 0

/-- A register of a furrow die. -/
def Dev.dieVal (d : Dev) (m : Banks) (f : Fin 7) (o : Nat) : Nat :=
  let k := f.val + 1
  let x := d.dies[f]
  let gp := Fin.ofNat 112 (16 * f.val + o / 0x100 % 16)
  match o / 0x1000 with
  | 0x00 => match o with
    | 0x00 => f.val + fld 16 16 (bitsOf 16 fun p => d.hasPort (16 * f.val + p))
    | 0x04 => x.tine.toNat + fld 2 1 (bit (d.contained (.die f))) + fld 3 1 (bit x.resetting)
    | 0x08 => loW d.sys.now.toNat
    | 0x0C => hiW d.sys.now.toNat
    | 0x20 => (d.sys.pace.toList.getD k 0).toNat
    | 0x24 => (Config.dieTemp k d.sys.now).toNat
    | 0x28 => fld 0 16 x.retrains + fld 16 16 x.codeErrors
    | 0x40 => loW (d.blockstat k)
    | 0x44 => hiW (d.blockstat k)
    | 0x48 => d.flt.dualRail[f].toNat + fld 16 1 (bit d.flt.activeHigh[f]) + fld 24 7 d.flt.filter[f].toNat
    | 0x60 => d.mr.errInfo k
    | 0x64 => (d.mr.errAddr.toList.getD k 0).toNat
    | 0x68 => d.mr.vote.toList.getD k 0
    | 0x6C => d.mr.ce.toList.getD k 0
    | _ => 0
  | 0x10 => d.prtVal gp (o % 0x100)
  | 0x20 => d.plsVal gp (o % 0x100)
  | 0x30 => d.snsVal m gp (o % 0x100)
  | _ => (d.pos.enc[Fin.ofNat 4 ((o - 0x40000) / 0x40)].copies[copyOf f]).val (o % 0x40)

/-- What a register holds, privileged fields included; 0 where the variant has none. -/
def Dev.regVal (d : Dev) (m : Banks) (a : Nat) : Nat :=
  match d.reg? a with
  | none => 0
  | some _ =>
    if a / 2 ^ 24 = 0 then d.hubVal (a % 2 ^ 24) else d.dieVal m (Fin.ofNat 7 (a / 2 ^ 24 - 1)) (a % 2 ^ 24)

/-! ## Latches (R319, R423, R439, R441) -/

/-- The registers that a read of a register latches, by how far above it they lie. -/
def latchedBy (a : Nat) : List Nat :=
  let o := a % 2 ^ 24
  if a / 2 ^ 24 = 0 then
    if o = 0x04 || o = 0x18 || o = 0xF008 || o = 0xE108 || o = 0xE208 || (0xE020 ≤ o && o < 0xE060 && o % 8 == 0) then [4]
    else if o = 0x6400 then [4, 8]
    else if 0x9000 ≤ o && o < 0x9100 && o % 0x40 == 4 then [4, 8, 0xC, 0x18, 0x1C]
    else []
  else if o = 0x08 || o = 0x40 then [4]
  else if 0x40000 ≤ o && o < 0x40100 && o % 0x40 == 4 then [4, 8, 0xC, 0x18, 0x1C]
  else []

/-- The register is latched by a read of another. -/
def latchedReg (a : Nat) : Bool :=
  [4, 8, 0xC, 0x18, 0x1C].any fun k => decide (k ≤ a) && (latchedBy (a - k)).contains k

/-- The bits of a latched register that read live: POS_CH_STAT.Busy (R319). -/
def liveBits (a : Nat) : Nat := if a / 2 ^ 24 = 0 && 0x9000 ≤ a && a < 0x9100 && a % 0x40 == 8 then 0x2000 else 0

/-- The reset value of a latched register: Unreferenced of POS_CH_STAT and FRW_POS_STAT is 1, the rest 0 (Table 13.4). -/
def latchReset (a : Nat) : Nat := if latchedBy (a - 4) != [4] && (latchedBy (a - 4)).contains 4 && a % 0x40 == 8 then 0x400 else 0

/-- What a master's latch holds; the reset value before it has read the lower register (log 4). -/
def MemRegs.latch (m : MemRegs) (w : Master) (a : Nat) : Nat :=
  match m.latches.find? fun (x : Master × Nat × Word) => x.1 == w && x.2.1 == a with
  | some x => x.2.2.toNat
  | none => latchReset a

/-- A master's latch takes a value. -/
def MemRegs.setLatch (m : MemRegs) (w : Master) (a v : Nat) : MemRegs :=
  { m with latches :=
      (m.latches.filter fun (x : Master × Nat × Word) => !(x.1 == w && x.2.1 == a)) ++ [(w, a, BitVec.ofNat 32 v)] }

/-- The register is on a die whose Tine link is not up. The hub answers FRW_STAT itself: it knows the link's state, and
Tine and Resetting could not be read otherwise (R445; DEDUCED, log 61). -/
def Dev.outOfReach (d : Dev) (a : Nat) : Bool :=
  if h : 1 ≤ a / 2 ^ 24 ∧ a / 2 ^ 24 < 8 then a % 2 ^ 24 != 4 && d.dies[a / 2 ^ 24 - 1].tine != 2 else false

/-- The value the hub last received from a die's register; 0 before it has received one (log 61). -/
def MemRegs.last (m : MemRegs) (a : Nat) : Nat :=
  match m.received.find? fun (x : Nat × Word) => x.1 == a with
  | some x => x.2.toNat
  | none => 0

/-- The hub has received the value of a die's register. -/
def MemRegs.receive (m : MemRegs) (a v : Nat) : MemRegs :=
  { m with received := (a, BitVec.ofNat 32 v) :: m.received.filter fun (x : Nat × Word) => x.1 != a }

/-- A register as the hub can show it: of a die whose link is not up, what it last received (R445). -/
def Dev.regShown (d : Dev) (m : Banks) (a : Nat) : Nat := if d.outOfReach a then d.mr.last a else d.regVal m a

/-- A register as a master sees it: a latched register from its latch, privileged fields 0 for an unprivileged
master (R429). -/
def Dev.regSeen (d : Dev) (m : Banks) (w : Master) (privileged : Bool) (a : Nat) : Nat :=
  let v := d.regShown m a
  let v := if latchedReg a then Nat.lor (Nat.land v (liveBits a)) (Nat.land (d.mr.latch w a) (allBits - liveBits a)) else v
  match d.reg? a with
  | some r => if r.pv && !privileged then Nat.land v (r.used - r.rw) else v
  | none => 0

/-- The latches a read of a register sets, and what the hub receives of a die's registers with it (R423, R445). -/
def Dev.takeLatches (d : Dev) (m : Banks) (w : Master) (a : Nat) : Dev :=
  if (d.reg? a).isNone then d else
  let d' := (latchedBy a).foldl (fun d' k => d'.modMr fun x => x.setLatch w (a + k) (d.regShown m (a + k))) d
  if a / 2 ^ 24 = 0 || latchedReg a then d'
  else (0 :: latchedBy a).foldl (fun d' k => d'.modMr fun x => x.receive (a + k) (d.regShown m (a + k))) d'

end Sys2Proof.Machine
end

