-- ==== Sys2Proof/Machine/RegWrite.lean ====
section
/-! DEFINITION. What a write to a register does: the setters of the writable registers, posted writes and their
effects (R123, R136, R389, R399, R422 to R432, R443, and the register tables). -/

namespace Sys2Proof.Machine

/-- MEM_PVDROP. -/
def Dev.memPvDrop (d : Dev) : Dev := d.modMr fun x => { x with pvDrop := satInc x.pvDrop }

/-- MEM_WPDROP. -/
def Dev.memWpDrop (d : Dev) : Dev := d.modMr fun x => { x with wpDrop := satInc x.wpDrop }

/-- FLT_WRDROP. -/
def Dev.fltWrDrop (d : Dev) : Dev := d.modFlt fun x => { x with wrDrop := satInc x.wrDrop }

/-- TAX_WRDROP. -/
def Dev.taxWrDrop (d : Dev) : Dev := d.modBus fun b => { b with taxWrDrop := satInc b.taxWrDrop }

/-- AUX_WRDROP. -/
def Dev.auxWrDrop (d : Dev) : Dev := d.modMot fun m => { m with auxWrDrop := satInc m.auxWrDrop }

/-! ## Queue pairs and sessions -/

/-- A queue pair's registers change. -/
def Dev.modQp (d : Dev) (q : Fin 256) (f : QueuePair → QueuePair) : Dev :=
  d.modSes fun t => { t with qp := vmod t.qp q f }

/-- A base register of a queue pair: dropped while Enable is 1 (R123, R136). -/
def Dev.setQpBase (d : Dev) (q : Fin 256) (o v : Nat) : Dev :=
  if d.ses.qp[q].enable then d.dropDoorbell
  else d.modQp q fun y =>
    match o with
    | 0x00 => { y with sqBase := BitVec.ofNat 64 (hiW y.sqBase.toNat * 2 ^ 32 + v / 64 * 64) }
    | 0x04 => { y with sqBase := BitVec.ofNat 64 (v * 2 ^ 32 + loW y.sqBase.toNat) }
    | 0x08 => { y with cqBase := BitVec.ofNat 64 (hiW y.cqBase.toNat * 2 ^ 32 + v / 64 * 64) }
    | _ => { y with cqBase := BitVec.ofNat 64 (v * 2 ^ 32 + loW y.cqBase.toNat) }

/-- The rings of a queue pair start over when it is enabled: R123 and Tables 5.19 and 5.20 name no other moment at which
the indices and the Phase bit return to 0 and 1, nor what becomes of slots not yet passed (DESIGN CHOICE, log 66). -/
def QueuePair.restart (y : QueuePair) : QueuePair :=
  { y with sqHead := 0, sqTail := 0, cqHead := 0, cqTail := 0, phase := true, cqOut := [] }

/-- SES_QP_CTL (R123, Table 5.19). -/
def Dev.setQpCtl (d : Dev) (q : Fin 256) (v : Nat) : Dev :=
  let x := d.ses.qp[q]
  let e := getF 0 7 v
  let entries := if 2 ≤ e ∧ e ≤ 65 then e else 17
  let on := getB 8 v
  if x.enable && on && entries ≠ x.entries.toNat then d.dropDoorbell else
  let d := if x.enable && !on then d.closeAll (fun w => w == .pcie q) 4 else d
  d.modQp q fun y =>
    let y := if on && !y.enable then y.restart else y
    { y with entries := BitVec.ofNat 7 entries, enable := on, vector := BitVec.ofNat 9 (getF 16 9 v) }

/-- SES_IDLE (Table 5.21). -/
def Dev.setIdle (d : Dev) (v : Nat) : Dev := d.modSes fun t => { t with sesIdle := max 1 (min 3600 (getF 0 12 v)) }

/-- EVENT_ACK of a class (R425). -/
def Dev.setAck (d : Dev) (c : Fin 16) (v : Word) : Dev :=
  if after v d.ev.seq[c] then d.memWrDrop else
  let d := d.modEv fun e => { e with ack := e.ack.set c v }
  if d.ev.seq[c] ≠ v && d.ses.openS.any (fun (x : Session) => x.subs.getLsbD c.val && viaPcie x.via) then
    d.raise (256 + c.val)
  else d

/-! ## The fault collector -/

/-- A filter time as stored (Tables 16.10, 16.12). -/
def filterOf (v : Nat) : BitVec 7 := BitVec.ofNat 7 (min 100 (getF 0 7 v))

/-- FLT_CTL (Table 16.10). -/
def Dev.setFltCtl (d : Dev) (v : Nat) : Dev :=
  let c := getF 0 3 v
  d.modFlt fun x => { x with outClass := Tv.mk3 (if 3 ≤ c ∧ c ≤ 5 then BitVec.ofNat 3 c else 4) }

/-- FLT_INCFG: the mode bit of an enabled axis, and polarity and filter of the gate pairs while any axis is enabled,
keep their values; a write that would change one is counted (R389). -/
def Dev.setIncfg (d : Dev) (v : Nat) : Dev :=
  let x := d.flt
  let on := fun (n : Nat) => if h : n < 4 then d.mot.tax[n].on else false
  let anyOn : Bool := (List.range 4).any on
  let old := x.gateDual.val.toNat
  let dual := bitsOf 4 fun n => if on n then getB n old else getB n v
  let high := if anyOn then x.gateHigh.val else BitVec.ofNat 1 (getF 4 1 v)
  let flt := if anyOn then x.gateFilter.val else filterOf (v / 2 ^ 8)
  let kept : Bool := dual != getF 0 4 v || high.toNat != getF 4 1 v || flt != filterOf (v / 2 ^ 8)
  let d := d.modFlt fun x =>
    { x with
      gateDual := Tv.mk3 (BitVec.ofNat 4 dual), gateHigh := Tv.mk3 high, gateFilter := Tv.mk3 flt
      estopFilter := Tv.mk3 (filterOf (v / 2 ^ 16)) }
  if kept then d.fltWrDrop else d

/-- ID of a GPIO fault input's source. -/
def idGpio (g : Nat) : Nat := 0x088 + g

/-- FLT_GPIO: polarity changes only where Enable is clear; an input no longer selected shows no cause (R389). -/
def Dev.setGpio (d : Dev) (v : Nat) : Dev :=
  let x := d.flt
  let on := x.gpioEnable.val.toNat
  let high := bitsOf 16 fun g => if getB g on then x.gpioHigh.val.getLsbD g else getB (16 + g) v
  let left := (List.range 16).filter fun g => getB g on && !getB g v
  let d := d.modFlt fun x =>
    { x with gpioEnable := Tv.mk3 (BitVec.ofNat 16 (getF 0 16 v)), gpioHigh := Tv.mk3 (BitVec.ofNat 16 high) }
  let d := left.foldl (fun d g => d.causeGone (idGpio g)) d
  if high != getF 16 16 v then d.fltWrDrop else d

/-- FRW_FLTCFG of a die: bit p keeps its value while port p is enabled, polarity and filter while any port of the die
is (R389, R391). -/
def Dev.setFltcfg (d : Dev) (f : Fin 7) (v : Nat) : Dev :=
  let on := fun (p : Nat) => match d.ports.toList[16 * f.val + p]? with
    | some x => x.on
    | none => false
  let anyOn : Bool := (List.range 16).any on
  let old := d.flt.dualRail[f].toNat
  let dual := bitsOf 16 fun p => if on p then getB p old else getB p v
  let high := if anyOn then d.flt.activeHigh[f] else getB 16 v
  let flt := if anyOn then d.flt.filter[f] else filterOf (v / 2 ^ 24)
  let kept : Bool := dual != getF 0 16 v || high != getB 16 v || flt != filterOf (v / 2 ^ 24)
  let d := d.modFlt fun x =>
    { x with
      dualRail := x.dualRail.set f (BitVec.ofNat 16 dual), activeHigh := x.activeHigh.set f high
      filter := x.filter.set f flt }
  if kept then d.fltWrDrop else d

/-! ## Motors -/

/-- A field of an axis register, by offset in the axis's block (Table 14.3). -/
def Tax.setReg (t : Tax) (k v : Nat) : Tax :=
  let lo := BitVec.ofNat 16 (getF 0 16 v)
  let hi := BitVec.ofNat 16 (getF 16 16 v)
  match k with
  | 0x1C => { t with rs := lo, ls := hi }
  | 0x20 => { t with psi := lo, imax := BitVec.ofNat 16 (min 32767 (getF 16 16 v)) }
  | 0x24 => { t with shunt := lo, ascRpm := hi }
  | 0x28 => { t with ifCurrent := lo, ifRamp := if hi = 0 then 1 else hi }
  | 0x2C => { t with encRev := BitVec.ofNat 32 v }
  | 0x30 =>
    let p := getF 0 8 v
    { t with residualPct := BitVec.ofNat 8 (if 5 ≤ p ∧ p ≤ 100 then p else 25) }
  | _ => t

/-- A field of a bus register (Table 14.4). -/
def Bus.setReg (b : Bus) (o v : Nat) : Bus :=
  match o with
  | 0xA20C =>
    let r := getF 16 8 v
    { b with brkIMin := BitVec.ofNat 12 (getF 0 12 v), riseCodes := BitVec.ofNat 8 (if r = 0 then 1 else r) }
  | 0xA210 => { b with scale := BitVec.ofNat 32 v }
  | 0xA214 => { b with pscale := BitVec.ofNat 32 v }
  | _ => b

/-- A TAX_ or BUS_ register takes a value while every transport axis is disabled (R337, R354). -/
def Dev.setTaxReg (d : Dev) (o v : Nat) : Dev :=
  if (fins 4).any fun n => d.mot.tax[n].on then d.taxWrDrop
  else if o < 0xA200 then d.modTax (Fin.ofNat 4 ((o - 0xA000) / 0x80)) fun t => t.setReg (o % 0x80) v
  else d.modBus fun b => b.setReg o v

/-- An AUX_ register takes a value: an axis's while it is disabled, AUX_VBUS while all are, AUX_SWPOL while none is
homing (R375). -/
def Dev.setAuxReg (d : Dev) (o v : Nat) : Dev :=
  if o = 0xB200 then
    if (fins 8).any fun n => d.mot.aux[n].on then d.auxWrDrop
    else d.modMot fun m => { m with vbusMv := BitVec.ofNat 16 (getF 0 16 v), vbusSrc := getB 16 v }
  else if o = 0xB204 then
    if (fins 8).any fun n => d.mot.aux[n].homing.isSome then d.auxWrDrop
    else d.modMot fun m => { m with swPol := BitVec.ofNat 16 (getF 0 16 v) }
  else
    let n := Fin.ofNat 8 ((o - 0xB000) / 0x40)
    if d.mot.aux[n].on then d.auxWrDrop
    else d.modAux n fun a =>
      if o % 0x40 = 0x14 then
        { a with lmUh := BitVec.ofNat 16 (getF 0 16 v), corrPct := BitVec.ofNat 8 (min 200 (getF 16 8 v)) }
      else { a with iscale := BitVec.ofNat 32 v }

/-! ## Position, Ethernet, OTP -/

/-- POS_CH_OPT takes a value, or drops it while the channel is a master (R331). -/
def Dev.setOpt (d : Dev) (ch : Fin 4) (v : Nat) : Dev :=
  if d.encInUse ch then d.modPos fun x => { x with wrDrop := satInc x.wrDrop }
  else d.modEnc ch fun e => { e with dirHyst := BitVec.ofNat 8 (max 1 (getF 0 8 v)) }

/-- An ETH_ register takes a value; ETH_MDIO with Start begins an access (R443), but with the MAC strapped off, when
ETH_MDC is held low (Table 2.5). -/
def Dev.setEth (d : Dev) (o v : Nat) : Dev :=
  match o with
  | 0x7100 => d.modEth fun e => { e with ip := BitVec.ofNat 32 v }
  | 0x7104 =>
    let n := getF 0 6 v
    d.modEth fun e => { e with prefixLen := BitVec.ofNat 6 (if 1 ≤ n ∧ n ≤ 30 then n else 24), valid := getB 8 v }
  | _ =>
    let start := getB 11 v && d.linkOn (.udp 0 0)
    let d := d.modEth fun e =>
      { e with
        phy := BitVec.ofNat 5 (getF 0 5 v), reg := BitVec.ofNat 5 (getF 5 5 v), write := getB 10 v
        data := BitVec.ofNat 16 (getF 16 16 v), pendingMdio := start }
    if start then d.emit (.mdio d.eth.write d.eth.phy d.eth.reg d.eth.data) else d

/-- OTP_LOCK: bits are set, never cleared (R399). -/
def Dev.setLock (d : Dev) (v : Nat) : Dev :=
  d.modOtp fun x => { x with lock := Tv.mk3 (x.lock.val ||| BitVec.ofNat 9 (getF 0 9 v)) }

/-! ## Posted writes -/

/-- A register write takes effect. `a` names a register with writable fields, `v` is the written word. -/
def Dev.store (d : Dev) (m : Banks) (a v : Nat) : Dev :=
  let o := a % 2 ^ 24
  if h : 1 ≤ a / 2 ^ 24 ∧ a / 2 ^ 24 < 8 then
    let f : Fin 7 := ⟨a / 2 ^ 24 - 1, by omega⟩
    let gp := Fin.ofNat 112 (16 * f.val + o / 0x100 % 16)
    if o = 0x48 then d.setFltcfg f v
    else if o / 0x1000 = 0x10 then d.setGeom m gp v
    else if o % 0x100 = 0x08 then d.setHeatctl gp v
    else d.setTsntab gp (Fin.ofNat 17 ((o % 0x100 - 0x40) / 4)) v
  else
    match o / 0x1000 with
    | 0x1 => d.setAck (Fin.ofNat 16 ((o - 0x1140) / 4)) (BitVec.ofNat 32 v)
    | 0x2 => d.setIdle v
    | 0x4 | 0x5 =>
      let q := Fin.ofNat 256 ((o - 0x4000) / 0x20)
      if o % 0x20 = 0x10 then d.setQpCtl q v else d.setQpBase q (o % 0x20) v
    | 0x7 => d.setEth o v
    | 0x9 => d.setOpt (Fin.ofNat 4 ((o - 0x9000) / 0x40)) v
    | 0xA => d.setTaxReg o v
    | 0xB => d.setAuxReg o v
    | 0xE => if o = 0xE000 then d.setFltCtl v else if o = 0xE004 then d.setIncfg v else d.setGpio v
    | _ => d.setLock v

/-- A posted write is accepted: its BUSY bit is set until it takes effect (R431). -/
def Dev.post (d : Dev) (x : Posted) : Dev :=
  let d := d.modMr fun r => { r with posted := r.posted ++ [x] }
  match x.block with
  | .die f => d.modDie f fun y => y.sendCtrl false .access
  | _ => d

/-- The message of a write to a die that takes effect waits for a credit no longer. -/
def Dev.accessLeft (d : Dev) (b : Block) : Dev :=
  match b with
  | .die f => d.modDie f fun y => { y with ctrlWait := y.ctrlWait.erase .access }
  | _ => d

/-- A posted write may write its register (R429, R430). -/
def Posted.mayWrite (x : Posted) (d : Dev) : Bool := !(d.reg? x.address).any (fun r => r.pv) || x.privilegedAt d

/-- A posted write takes effect. -/
def Posted.effect (x : Posted) (rows : OtpRows) (d : Dev) (m : Banks) : Dev × Banks :=
  match placeOf x.address with
  | .register a =>
    match x.words with
    | (v, _) :: _ =>
      if (d.reg? a).any fun r => r.rw == 0 then (d, m)
      else if x.block = .otp then (d.otpCmd rows (x.privilegedAt d) v.toNat, m)
      else if x.mayWrite d then (d.store m a v.toNat, m)
      else (d.memPvDrop, m)
    | [] => (d, m)
  | _ => windowStore (d, m) x.address x.words

/-- The first posted write that meets a condition takes effect, and its bit clears. -/
def postedFirst (rows : OtpRows) (p : Posted → Bool) (d : Dev) (m : Banks) : Dev × Banks :=
  match d.mr.posted.find? p with
  | none => (d, m)
  | some x => x.effect rows ((d.modMr fun r => { r with posted := r.posted.erase x }).accessLeft x.block) m

/-- The oldest write posted to a block has not left the hub: its message waits for a CTRL credit (R29). -/
def Dev.accessWaits (d : Dev) (b : Block) : Bool :=
  match b with
  | .die f => decide ((d.mr.posted.filter fun (x : Posted) => x.block == b).length ≤ d.dies[f].ctrlWait.count .access)
  | _ => false

/-- The posted write of a block takes effect (R431). -/
def blockEffect (rows : OtpRows) (b : Block) (d : Dev) (m : Banks) : Dev × Banks :=
  if d.accessWaits b then (d, m) else postedFirst rows (fun x => x.block == b) d m

/-- Up to `n` posted writes that meet a condition take effect, in the order they were accepted. -/
def postedAll (rows : OtpRows) (p : Posted → Bool) : Nat → Dev → Banks → Dev × Banks
  | 0, d, m => (d, m)
  | n + 1, d, m => let r := postedFirst rows p d m; postedAll rows p n r.1 r.2

/-- Every posted write that meets a condition takes effect. -/
def settle (rows : OtpRows) (p : Posted → Bool) (d : Dev) (m : Banks) : Dev × Banks :=
  postedAll rows p d.mr.posted.length d m

/-- The blocks a hub register belongs to (Table 18.3). -/
def hubBlocks (r : Nat) : List Block :=
  if 0xA000 ≤ r && r < 0xC000 then [.motion]
  else if 0x9000 ≤ r && r < 0x9100 then [.position]
  else if 0x7100 ≤ r && r < 0x7200 then [.ethernet]
  else if 0xF000 ≤ r && r < 0x10000 then [.otp, .otpLock]
  else []

/-- The blocks an offset belongs to. -/
def blocksOf (a : Nat) : List Block :=
  match windowBlock a, placeOf a with
  | some b, _ => [b]
  | none, .register r => hubBlocks r
  | none, .bitAlias r _ => hubBlocks r
  | none, .window _ => []

/-- A read of a block is ordered behind its master's posted writes to it (R432). -/
def settleReads (rows : OtpRows) (w : Master) (a : Nat) (d : Dev) (m : Banks) : Dev × Banks :=
  settle rows (fun x => x.master == w && (blocksOf a).contains x.block) d m

/-- A command waits until no write to the block of an offset is pending (R148). -/
def settleBlock (rows : OtpRows) (a : Nat) (d : Dev) (m : Banks) : Dev × Banks :=
  settle rows (fun x => (blocksOf a).contains x.block) d m

/-! ## One write -/

/-- A privileged register takes no write of this master. A posted write of PF0 is judged when it takes effect (R429,
R430). -/
def Reg.bars (r : Reg) (w : Master) (privileged : Bool) : Bool :=
  r.pv && !privileged && !(w == .pf0 && r.block.isSome)

/-- A write of a command to a posted block finds no write pending there, since it has waited for it, and takes effect
before the command is answered (R148, R184). A direct one is pending from its acceptance on (R431). -/
def accept (rows : OtpRows) (wait : Bool) (x : Posted) (d : Dev) (m : Banks) : Dev × Banks :=
  if wait then x.effect rows d m else (d.post x, m)

/-- The block through which a write to a register goes: also of a read-only register of another die, of a timed island
or of OTP, which the write leaves as it is (R431). -/
def Reg.blockAt (r : Reg) (a : Nat) : Option Block :=
  if r.block.isSome || r.rw != 0 then r.block else (blocksOf a).find? (· != .position)

/-- A write of a whole word to a register (R422, R424, R429, R431). `wait`: a command, which waits for the block's
BUSY bit itself (R148). A direct write to a die whose BUSY bit shows none takes its place behind the writes before it. -/
def regWrite (rows : OtpRows) (w : Master) (privileged wait : Bool) (d : Dev) (m : Banks) (a v : Nat) : Dev × Banks :=
  match d.reg? a with
  | none => (d.memWrDrop, m)
  | some r =>
    if r.bars w privileged then (d.memPvDrop, m)
    else match r.blockAt a with
      | none => if r.rw = 0 then (d, m) else (d.store m a v, m)
      | some b =>
        if !wait && d.blockBusy b then (d.memWpDrop, m) else
        let x := if wait then settleBlock rows a d m else (d, m)
        if a = 0x711C && x.1.eth.pendingMdio then (x.1.memWrDrop, x.2)
        else if r.rw = 0 && b = .otp then x
        else
          accept rows wait { block := b, master := w, privileged, address := a, words := [(BitVec.ofNat 32 v, 0xF)] }
            x.1 x.2

/-- The hub receives the value of a die's register that it reads to modify it (R445). -/
def Dev.heardReg (d : Dev) (m : Banks) (a : Nat) : Dev :=
  if a / 2 ^ 24 = 0 || (d.reg? a).isNone then d else d.modMr fun x => x.receive a (d.regShown m a)

/-- A write to one bit: a read-modify-write of the whole register, of a value no write to it is pending behind
(R432, R433). -/
def bitWrite (rows : OtpRows) (w : Master) (privileged wait : Bool) (d : Dev) (m : Banks) (a bit v : Nat) : Dev × Banks :=
  match d.reg? a with
  | none => (d.memWrDrop, m)
  | some r =>
    if r.bars w privileged then (d.memPvDrop, m)
    else if !wait && (r.blockAt a).any d.blockBusy then (d.memWpDrop, m)
    else if !getB bit r.rw then (d, m)
    else
      let x := if wait then settleBlock rows a d m else settleReads rows w a d m
      let old := x.1.regShown x.2 a
      regWrite rows w privileged wait (x.1.heardReg x.2 a) x.2 a (Nat.lor (Nat.land old (allBits - 2 ^ bit)) (fld bit 1 v))

/-- A write to a memory window: at once on the hub, posted to a furrow die (R301, R420, R431). -/
def windowPost (rows : OtpRows) (w : Master) (privileged wait : Bool) (d : Dev) (m : Banks) (a : Nat) (ws : List (Word × BitVec 4)) :
    Dev × Banks :=
  if a % 4 ≠ 0 then (d.memWrDrop, m) else
  match windowBlock a with
  | none => windowStore (d, m) a ws
  | some b =>
    if !d.dieHere (a / 2 ^ 24) then windowStore (d, m) a ws
    else if d.blockBusy b && !wait then (d.memWpDrop, m)
    else
      let x := if wait then settleBlock rows a d m else (d, m)
      accept rows wait { block := b, master := w, privileged, address := a, words := ws } x.1 x.2

/-- A word written to a BAR0 offset. -/
def busWrite (rows : OtpRows) (w : Master) (privileged wait : Bool) (d : Dev) (m : Banks) (a v : Nat) (be : BitVec 4) :
    Dev × Banks :=
  match placeOf a with
  | .window _ => windowPost rows w privileged wait d m a [(BitVec.ofNat 32 v, be)]
  | .register a' => if be ≠ 0xF || a % 4 ≠ 0 then (d.memWrDrop, m) else regWrite rows w privileged wait d m a' v
  | .bitAlias a' b =>
    if be ≠ 0xF || a % 4 ≠ 0 then (d.memWrDrop, m) else bitWrite rows w privileged wait d m a' b v

/-- A word read from a BAR0 offset (R419, R423, R432, R433). -/
def busRead (rows : OtpRows) (w : Master) (privileged : Bool) (d : Dev) (m : Banks) (a : Nat) : Dev × Banks × Nat :=
  if a % 4 ≠ 0 then (d, m, 0) else
  let x := settleReads rows w a d m
  let d := x.1
  let m := x.2
  match placeOf a with
  | .window _ =>
    let r := windowRead d m a
    (r.1, m, r.2)
  | .register a' => (d.takeLatches m w a', m, d.regSeen m w privileged a')
  | .bitAlias a' b => (d.takeLatches m w a', m, getF b 1 (d.regSeen m w privileged a'))

end Sys2Proof.Machine
end

