-- ==== Sys2Proof/Machine/Access.lean ====
section
/-! DEFINITION. The register and memory commands, direct accesses of PF0, PF1 and SPI, posted-write effects and
MSI-X unmasking (R131, R147 to R150, R419 to R433, R435, R443, R447). -/

namespace Sys2Proof.Machine

/-! ## Addresses in commands -/

/-- Highest BAR0 offset a command names. -/
abbrev barTop : Nat := 0x07FFFFFC

/-- The local port whose block or window holds an offset of a furrow die (Table 19.4). -/
def localPort (o : Nat) : Option Nat :=
  if 0x10000 ≤ o && o < 0x40000 then (if o % 0x10000 < 0x1000 then some (o % 0x1000 / 0x100) else none)
  else if 0x100000 ≤ o && o < 0xB00000 then some ((o - 0x100000) / 0xA0000)
  else if 0xB00000 ≤ o && o < 0xBC0000 then some (o % 0x40000 / 0x4000)
  else if 0xBC0000 ≤ o && o < 0xC40000 then some ((o - 0xBC0000) / 0x8000)
  else if 0xC40000 ≤ o && o < 0xC40800 then some ((o - 0xC40000) / 0x80)
  else if 0xC80000 ≤ o && o < 0xC80800 then some ((o - 0xC80000) / 0x80)
  else if 0xC90000 ≤ o && o < 0xC98000 then some ((o - 0xC90000) / 0x800)
  else none

/-- The address lies in an absent die, a disabled port or an absent axis's block (R6, R147). -/
def Dev.absentAt (d : Dev) (a : Nat) : Bool :=
  let k := a / 2 ^ 24
  let o := match placeOf a with
    | .bitAlias r _ => r % 2 ^ 24
    | _ => a % 2 ^ 24
  if k = 0 then d.axisAbsent o
  else !d.hasDie (k - 1) || (match localPort o with
    | some p => !d.hasPort (16 * (k - 1) + p)
    | none => false)

/-- The register an address reaches, itself or through a bit alias. -/
def Dev.regAt (d : Dev) (a : Nat) : Option Reg :=
  match placeOf a with
  | .register r => d.reg? r
  | .bitAlias r _ => d.reg? r
  | .window _ => none

/-- The address names a register with a PV field (R147). -/
def Dev.pvAt (d : Dev) (a : Nat) : Bool := (d.regAt a).any fun r => r.pv

/-- A value sets no reserved bit of the register it is written to (R148, R422). -/
def Dev.noReserved (d : Dev) (a v : Nat) : Bool :=
  match placeOf a with
  | .register r => match d.reg? r with
    | some x => Nat.land v (allBits - x.used) == 0
    | none => true
  | _ => true

/-- A word of a command's address: within range, aligned, present. -/
def needAddr (d : Dev) (a param : Nat) : Chk Unit := do
  needP (a ≤ barTop && a % 4 == 0) param
  needP (!d.absentAt a) param

/-- The command processor acts as a privileged master for SERVICE and VENDOR (R147). -/
def Ctx.privileged (c : Ctx) : Bool := decide (rService ≤ c.x.role)

/-! ## READ_WORDS -/

/-- Words at ascending addresses, as a master reads them. -/
def busReads (rows : OtpRows) (w : Master) (privileged : Bool) : Nat → Dev → Banks → Nat → Dev × Banks × List Byte
  | 0, d, m, _ => (d, m, [])
  | n + 1, d, m, a =>
    let r := busRead rows w privileged d m a
    let q := busReads rows w privileged n r.1 r.2.1 (a + 4)
    (q.1, q.2.1, le4 r.2.2 ++ q.2.2)

/-- READ_WORDS (Table 6.6, R147). -/
def readWordsCmd (c : Ctx) : Chk (Dev × Banks × Finish) := do
  let a := pU c.ps 0 4
  let n := pU c.ps 4 2
  needP (a ≤ barTop && a % 4 == 0) 0
  needP (!(List.range n).any fun i => decide (a + 4 * i ≤ barTop) && c.d.absentAt (a + 4 * i)) 0
  needRange c.ps 4 2 1 1015
  needZero c.ps 6 2
  need (a + 4 * (n - 1) ≤ barTop) stLengthExceeds 28
  c.needRoom (4 * n) 28
  let r := busReads c.s.rows .cp c.privileged n c.d c.s.mem a
  return (r.1, r.2.1, .ok r.2.2)

/-- READ_WORDS's row of Table 6.2. -/
def specReadWords : CmdSpec := { opcode := 0x20, variant := 0, modes := setA, role := atLeast rObserver, len := lenIs 8 }

/-- READ_WORDS. -/
def execReadWords (p : Packet) (s : State) : Out := onMem (cmdMem specReadWords readWordsCmd p) s

/-! ## WRITE_PAIRS -/

/-- The pairs from a parameter offset on: offset, address and value of each. -/
def pairsAt (ps : List Byte) (off : Nat) : Nat → List (Nat × Nat × Nat)
  | 0 => []
  | n + 1 => (off, pU ps off 4, pU ps (off + 4) 4) :: pairsAt ps (off + 8) n

/-- Where a command whose session is not privileged names a privileged register first (R147). Each word comes with the
parameter offset of its address. -/
def pvNamed (d : Dev) (x : Session) (ws : List (Nat × Nat)) : Option Nat :=
  if rService ≤ x.role then none else (ws.find? fun w => d.pvAt w.2).map fun w => 24 + w.1

/-- Every pair names a present place and sets no reserved bit (R148). -/
def needPairs (c : Ctx) : List (Nat × Nat × Nat) → Chk Unit
  | [] => .ok ()
  | (off, a, v) :: ps => do
    needAddr c.d a off
    needP (c.d.noReserved a v) (off + 4)
    needPairs c ps

/-- A write to OTP_CMD has to wait: requests occupy the controller (R148, R395). -/
def Dev.otpHolds (d : Dev) (a : Nat) : Bool :=
  !d.otp.queue.isEmpty && (match placeOf a with
    | .register r => r == 0xF000
    | .bitAlias r _ => r == 0xF000
    | .window _ => false)

/-- Words written one after the other; each write waits for its block's BUSY bit (R148). -/
def busWrites (rows : OtpRows) (privileged : Bool) : Dev × Banks → List (Nat × Nat) → Dev × Banks
  | x, [] => x
  | x, (a, v) :: ps => busWrites rows privileged (busWrite rows .cp privileged true x.1 x.2 a v 0xF) ps

/-- A writing command and its reply, sent after its last write was accepted (R148). One that names OTP_CMD while requests
occupy the controller waits for them before its first write, so that no other command sees a part of it (R185). -/
def writeWords (rows : OtpRows) (privileged : Bool) (d : Dev) (m : Banks) (ws : List (Nat × Nat)) : Dev × Banks × Finish :=
  if ws.any fun w => d.otpHolds w.1 then (d, m, .park (.writes ws privileged))
  else
    let r := busWrites rows privileged (d, m) ws
    (r.1, r.2, .ok [])

/-- WRITE_PAIRS (R148). -/
def writePairsCmd (c : Ctx) : Chk (Dev × Banks × Finish) := do
  let ps := pairsAt c.ps 4 (pU c.ps 0 2)
  needRange c.ps 0 2 1 507
  needZero c.ps 2 2
  needPairs c ps
  return writeWords c.s.rows c.privileged c.d c.s.mem (ps.map fun x => x.2)

/-- WRITE_PAIRS's row of Table 6.2. -/
def specWritePairs : CmdSpec :=
  { opcode := 0x21, variant := 0, modes := setO, role := atLeast rOperator
    named := fun s x ps => pvNamed s.dev x
      ((pairsAt ps 4 (min (pU ps 0 2) ((ps.length - 4) / 8))).map fun w => (w.1, w.2.1))
    len := fun ps => decide (4 ≤ ps.length) && ps.length == 4 + 8 * pU ps 0 2 }

/-- WRITE_PAIRS. -/
def execWritePairs (p : Packet) (s : State) : Out := onMem (cmdMem specWritePairs writePairsCmd p) s

/-! ## MODIFY_WORD -/

/-- A word as a read-modify-write finds it: the register itself, not a latch, and of a die out of reach what the hub
last received (R445). -/
def busOld (d : Dev) (m : Banks) (a : Nat) : Dev × Nat :=
  match placeOf a with
  | .register r => (d.heardReg m r, d.regShown m r)
  | .bitAlias r b => (d.heardReg m r, getF b 1 (d.regShown m r))
  | .window _ => windowRead d m a

/-- The read-modify-write of MODIFY_WORD, and its reply (R149). -/
def modifyRun (rows : OtpRows) (privileged : Bool) (ps : List Byte) (d : Dev) (m : Banks) : Dev × Banks × List Byte :=
  let a := pU ps 0 4
  let x := settleBlock rows a d m
  let old := busOld x.1 x.2 a
  let new := Nat.lor (Nat.land old.2 (allBits - pU ps 8 4)) (pU ps 4 4)
  let y := busWrite rows .cp privileged true old.1 x.2 a new 0xF
  (y.1, y.2, le4 old.2 ++ le4 new)

/-- MODIFY_WORD (R149). -/
def modifyWordCmd (c : Ctx) : Chk (Dev × Banks × Finish) := do
  let a := pU c.ps 0 4
  needAddr c.d a 0
  needP (c.d.noReserved a (pU c.ps 4 4)) 4
  c.needRoom 8 noField
  if c.d.otpHolds a then return (c.d, c.s.mem, .park (.modify c.privileged))
  else
    let r := modifyRun c.s.rows c.privileged c.ps c.d c.s.mem
    return (r.1, r.2.1, .ok r.2.2)

/-- MODIFY_WORD's row of Table 6.2. -/
def specModifyWord : CmdSpec :=
  { opcode := 0x22, variant := 0, modes := setO, role := atLeast rOperator, len := lenIs 12
    named := fun s x ps => pvNamed s.dev x [(0, pU ps 0 4)] }

/-- MODIFY_WORD. -/
def execModifyWord (p : Packet) (s : State) : Out := onMem (cmdMem specModifyWord modifyWordCmd p) s

/-! ## WRITE_BLOCK -/

/-- The words of a WRITE_BLOCK: parameter offset, address and value. -/
def blockWords (ps : List Byte) (a off : Nat) : Nat → List (Nat × Nat × Nat)
  | 0 => []
  | n + 1 => (off, a, pU ps off 4) :: blockWords ps (a + 4) (off + 4) n

/-- No word sets a reserved bit; the first that does is at fault. -/
def needWords (d : Dev) : List (Nat × Nat × Nat) → Chk Unit
  | [] => .ok ()
  | (off, a, v) :: ps => do
    needP (d.noReserved a v) off
    needWords d ps

/-- A word falls in the line-buffer window of a port in use (R150). -/
def Dev.lineBusy (d : Dev) (a : Nat) : Bool :=
  match d.win? a with
  | some w => w.kind == .line && d.portInUse w.gp
  | none => false

/-- WRITE_BLOCK (R150). -/
def writeBlockCmd (c : Ctx) : Chk (Dev × Banks × Finish) := do
  let a := pU c.ps 0 4
  let n := pU c.ps 4 2
  let ws := blockWords c.ps a 8 n
  let inBar := ws.filter fun x => decide (x.2.1 ≤ barTop)
  needP (a ≤ barTop && a % 4 == 0) 0
  needP (!inBar.any fun x => c.d.absentAt x.2.1) 0
  needRange c.ps 4 2 1 1013
  needZero c.ps 6 2
  needWords c.d inBar
  need (a + 4 * (n - 1) ≤ barTop) stLengthExceeds 28
  needFree (!ws.any fun x => c.d.lineBusy x.2.1)
  return writeWords c.s.rows c.privileged c.d c.s.mem (ws.map fun x => x.2)

/-- WRITE_BLOCK's row of Table 6.2. -/
def specWriteBlock : CmdSpec :=
  { opcode := 0x23, variant := 0, modes := setO, role := atLeast rOperator
    named := fun s x ps => pvNamed s.dev x
      (((blockWords ps (pU ps 0 4) 8 (min (pU ps 4 2) ((ps.length - 8) / 4))).filter fun w => decide (w.2.1 ≤ barTop)).map
        fun w => (0, w.2.1))
    len := fun ps => decide (8 ≤ ps.length) && ps.length == 8 + 4 * pU ps 4 2 }

/-- WRITE_BLOCK. -/
def execWriteBlock (p : Packet) (s : State) : Out := onMem (cmdMem specWriteBlock writeBlockCmd p) s

/-! ## Commands that waited for the OTP controller -/

/-- A command parked on OTP_CMD goes on; it waits again when the controller is busy again. -/
def resumeOne (rows : OtpRows) (x : Dev × Banks) (e : WorkEntry) : Dev × Banks :=
  match e.park with
  | some (.writes rest privileged) =>
    let r := writeWords rows privileged x.1 x.2 rest
    (r.1.finish e.packet r.2.2, r.2.1)
  | some (.modify privileged) =>
    if x.1.otpHolds (pU (pktParams e.packet) 0 4) then x
    else
      let r := modifyRun rows privileged (pktParams e.packet) x.1 x.2
      (r.1.answer e.packet stOk noField r.2.2, r.2.1)
  | _ => x

/-- An OTP request has ended: once none is left, the commands that waited to write OTP_CMD go on, in work-queue order. -/
def otpIdle (x : Dev × OtpRows) (m : Banks) : Dev × Banks × OtpRows :=
  if !x.1.otp.queue.isEmpty then (x.1, m, x.2)
  else
    let r := x.1.ses.work.foldl (resumeOne x.2) (x.1, m)
    (r.1, r.2, x.2)

/-- OTP_PROGRAM_EXECUTE. -/
def execOtpProgramExecute (burns : List Burn) (second : Burn) (s : State) : Out :=
  onAll (fun s => otpIdle (otpSettle (otpProgramExecute burns second s)) s.mem) s

/-- OTP_FINALISE_EXECUTE. -/
def execOtpFinaliseExecute (burns : List Burn) (s : State) : Out :=
  onAll (fun s => otpIdle (otpSettle (otpFinaliseExecute burns s)) s.mem) s

/-! ## Direct accesses -/

/-- An access of a master reaches the fabric, and whether it is privileged there (R131, R429, R430). One that finds
the part asleep wakes it and is lost (R100). A part held at the memory test answers reads only (Table 4.6). -/
def Dev.reach (d : Dev) (w : Master) (write : Bool) : Dev × Option Bool :=
  if write && d.sys.bootFail = 4 then (d, none) else
  match w with
  | .cp => (d, if d.intakeOpen && d.mode ≠ mFallow then some true else none)
  | .pf0 =>
    if !d.pcieUp then (d, none) else if d.mode = mFallow then (d.wakeFrom 2 true, none) else (d, some d.ses.gate.isSome)
  | .pf1 => if !d.pcieUp then (d, none) else if d.mode = mFallow then (d.wakeFrom 2 true, none) else (d, some false)
  | .spi =>
    if d.sys.held then (d, none)
    else if d.mode = mFallow then (d.wakeFrom 4 true, none)
    else if d.otp.integ.getLsbD 3 && (write || !d.sys.mgmtSec) then (d, none)
    else (d, some d.sys.mgmtSec)

/-- A direct write of a word to a register or bit alias. -/
def directReg (w : Master) (a v : Nat) (be : BitVec 4) (s : State) : Dev :=
  let r := s.dev.reach w true
  match r.2 with
  | none => r.1
  | some priv =>
    if barTop + 3 < a then r.1 else
    match placeOf a with
    | .window _ => r.1
    | _ => (busWrite s.rows w priv false r.1 s.mem a v be).1

/-- A direct write of words to a memory window. One aimed at a register offset in this form is dropped and counted
(R422). -/
def directWin (w : Master) (a : Nat) (ws : List (Word × BitVec 4)) (s : State) : Dev × Banks :=
  let r := s.dev.reach w true
  match r.2 with
  | none => (r.1, s.mem)
  | some priv =>
    if barTop + 3 < a then (r.1, s.mem)
    else if !isWindow a then (r.1.memWrDrop, s.mem)
    else windowPost s.rows w priv false r.1 s.mem a ws

/-- What a direct read returns is emitted. -/
def Dev.readOut (d : Dev) (w : Master) (v : Nat) : Dev :=
  d.emit (if w = .spi then Emission.spiOut (0xA5 :: le4 v) else Emission.value (BitVec.ofNat 32 v))

/-- A direct read of a word. A part held at the memory test answers register reads only (Table 4.6). -/
def directRead (w : Master) (a : Nat) (s : State) : Dev × Banks :=
  let r := s.dev.reach w false
  match r.2 with
  | none => (r.1, s.mem)
  | some priv =>
    if barTop < a then (r.1.readOut w 0, s.mem)
    else if r.1.sys.bootFail = 4 && isWindow a then (r.1, s.mem)
    else
      let x := busRead s.rows w priv r.1 s.mem a
      (x.1.readOut w x.2.2, x.2.1)

/-- A direct read of registers that is not one aligned word with all byte enables reads 0 and latches nothing (R422). -/
def directZero (w : Master) (s : State) : Dev × Banks :=
  let r := s.dev.reach w false
  (if r.2.isSome then r.1.readOut w 0 else r.1, s.mem)

/-- A direct read of words at ascending addresses of BAR0. -/
def directReads (w : Master) : Nat → Nat → State → Dev × Banks
  | 0, _, s => (s.dev, s.mem)
  | n + 1, a, s =>
    let r := directRead w a s
    directReads w n (a + 4) { s with dev := r.1, mem := r.2 }

/-! ## BAR2 of PF1 (R125, R446, R447) -/

/-- Messages held by pending bits go out while nothing masks them (R447). -/
def Dev.sendPending (d : Dev) : Dev :=
  if d.pci.msixEnable && !d.pci.functionMask then
    let vs := (List.range 512).filter fun v => d.pci.vecPending.getLsbD v && !d.pci.vecMask.getLsbD v
    let d := vs.foldl Dev.sendMsix d
    d.modPci fun p => { p with vecPending := p.vecPending &&& p.vecMask }
  else d

/-- A word of a vector's table entry: message address, data, and the mask bit of Vector Control (R446; the layout is that
of the PCI Express capability R446 names; PRESUMED, log 5). -/
def Pci.entryWord (p : Pci) (v : Fin 512) (k : Nat) : Nat :=
  match k with
  | 0 => p.msixAddr[v].toNat % 2 ^ 32
  | 1 => p.msixAddr[v].toNat / 2 ^ 32
  | 2 => p.msixData[v].toNat
  | _ => bit (p.vecMask.getLsbD v.val)

/-- A word of a vector's table entry is written. Bits 1:0 of the address are 0 (PRESUMED, log 5). -/
def Pci.setEntry (p : Pci) (v : Fin 512) (k w : Nat) : Pci :=
  match k with
  | 0 => { p with msixAddr := p.msixAddr.set v (BitVec.ofNat 64 (p.msixAddr[v].toNat / 2 ^ 32 * 2 ^ 32 + w / 4 * 4)) }
  | 1 => { p with msixAddr := p.msixAddr.set v (BitVec.ofNat 64 (w * 2 ^ 32 + p.msixAddr[v].toNat % 2 ^ 32)) }
  | 2 => { p with msixData := p.msixData.set v (BitVec.ofNat 32 w) }
  | _ =>
    let one := BitVec.ofNat 512 (2 ^ v.val)
    { p with vecMask := if getB 0 w then p.vecMask ||| one else p.vecMask &&& ~~~one }

/-- A word of BAR2 as a read returns it: the value last accepted for a doorbell, the MSI-X table, the pending bits; 0 at a
reserved offset (Table 19.13). -/
def Dev.bar2Val (d : Dev) (o : Nat) : Nat :=
  if o < 0x800 then
    let y := d.ses.qp[Fin.ofNat 256 (o / 8)]
    if o % 8 = 0 then y.sqTail.toNat else y.cqHead.toNat
  else if 0x1000 ≤ o && o < 0x3000 then d.pci.entryWord (Fin.ofNat 512 ((o - 0x1000) / 16)) (o % 16 / 4)
  else if 0x3000 ≤ o && o < 0x3040 then d.pci.vecPending.toNat / 2 ^ (8 * (o - 0x3000)) % 2 ^ 32
  else 0

/-- A word of BAR2, which PF1 alone has, of 16 KiB, is read: in any form the value of the aligned word it lies in. -/
def Dev.bar2Read (d : Dev) (w : Master) (o : Nat) : Dev :=
  if w ≠ .pf1 || 0x4000 ≤ o then d else
  let r := d.reach .pf1 false
  if r.2.isSome then r.1.readOut w (r.1.bar2Val (o / 4 * 4)) else r.1

/-- A word of BAR2 is written: a doorbell, an entry of the MSI-X table, where byte enables select bytes; the pending bits
take no write. A reserved offset, and a doorbell not written as one aligned word, drop it into SES_DROP_DOORBELL
(R125, R446; for the form a DESIGN CHOICE, log 5). -/
def Dev.bar2Write (d : Dev) (w : Master) (o : Nat) (v : Word) (be : BitVec 4) : Dev :=
  if w ≠ .pf1 || 0x4000 ≤ o then d
  else if o < 0x800 && be = 0xF && o % 4 = 0 then
    if o % 8 = 0 then d.sqTail (Fin.ofNat 256 (o / 8)) v else d.cqHead (Fin.ofNat 256 (o / 8)) v
  else
  let r := d.reach .pf1 true
  if r.2.isNone then r.1
  else if 0x1000 ≤ o && o < 0x3000 then
    let e := Fin.ofNat 512 ((o - 0x1000) / 16)
    let k := o % 16 / 4
    let mask := beMask be
    let new := Nat.lor (Nat.land (r.1.pci.entryWord e k) (allBits - mask)) (Nat.land v.toNat mask)
    (r.1.modPci fun p => p.setEntry e k new).sendPending
  else if 0x3000 ≤ o && o < 0x3040 then r.1
  else r.1.dropDoorbell

/-- REGISTER_WRITE. -/
def execRegisterWrite (m : Master) (address : BarAddr) (value : Word) (be : BitVec 4) (s : State) : Out :=
  onDev (fun s => if address.bar2 then s.dev.bar2Write m address.offset.toNat value be
    else directReg m address.offset.toNat value.toNat be s) s

/-- BIT_ALIAS_WRITE. -/
def execBitAliasWrite (m : Master) (address value : Word) (s : State) : Out :=
  onDev (fun s => match placeOf address.toNat with
    | .bitAlias _ _ => directReg m address.toNat value.toNat 0xF s
    | _ => s.dev) s

/-- The offset lies in a SET or CLEAR alias, of a die present or absent (Tables 18.2, 19.4). -/
def isAlias (a : Nat) : Bool :=
  if a / 2 ^ 24 = 0 then 0x500000 ≤ a && a < 0xD00000 else 0xB40000 ≤ a % 2 ^ 24 && a % 2 ^ 24 < 0xBC0000

/-- ALIAS_WRITE: to a SET or CLEAR alias. -/
def execAliasWrite (m : Master) (address value : Word) (be : BitVec 4) (s : State) : Out :=
  onMem (fun s => if isAlias address.toNat then directWin m address.toNat [(value, be)] s else (s.dev, s.mem)) s

/-- MEMORY_WINDOW_WRITE. -/
def execMemoryWindowWrite (m : Master) (address : Word) (words : List (Word × BitVec 4)) (s : State) : Out :=
  onMem (directWin m address.toNat words) s

/-- A direct read in any form. -/
def busReadCmd (m : Master) (r : BusRead) (s : State) : Dev × Banks :=
  let a := r.address.offset.toNat
  if r.address.bar2 then (s.dev.bar2Read m a, s.mem)
  else if isWindow a then directReads m r.words a s
  else if r.be = 0xF && r.words = 1 then directRead m a s
  else directZero m s

/-- LATCHING_REGISTER_READ. -/
def execLatchingRegisterRead (m : Master) (address : BusRead) (s : State) : Out := onMem (busReadCmd m address) s

/-- BAR0 offset of POS_CH_COUNT on the hub, or FRW_POS_ at the same place on a die. -/
def countAddr (die : Fin 8) (ch : Fin 4) : Nat :=
  if die.val = 0 then 0x9004 + 0x40 * ch.val else 2 ^ 24 * die.val + 0x40004 + 0x40 * ch.val

/-- POS_CH_COUNT_READ (R319). -/
def execPosChCountRead (m : Master) (die : Fin 8) (ch : Fin 4) (s : State) : Out :=
  onMem (directRead m (countAddr die ch)) s

/-- SPI_REG_READ (R129, R131). -/
def execSpiRegRead (address : Word) (s : State) : Out := onMem (directRead .spi address.toNat) s

/-- SPI_REG_WRITE: the status byte is shifted out (R129, R131). -/
def spiRegWrite (a v : Nat) (s : State) : Dev × Banks :=
  let quiet : Bool := s.dev.sys.held || s.dev.mode = mFallow || s.dev.sys.bootFail = 4
  let d := if quiet then s.dev else s.dev.emit (.spiOut [s.dev.spiStatusByte])
  let s := { s with dev := d }
  match placeOf a with
  | .window _ => directWin .spi a [(BitVec.ofNat 32 v, 0xF)] s
  | _ => (directReg .spi a v 0xF s, s.mem)

/-- SPI_REG_WRITE. -/
def execSpiRegWrite (address value : Word) (s : State) : Out := onMem (spiRegWrite address.toNat value.toNat) s

/-! ## Registers with rows of their own -/

/-- BAR0 offset of a register block of a port. -/
def portReg (base : Nat) (gp : Fin 112) (k : Nat) : Nat := dieBase (gp.val / 16) + base + 0x100 * (gp.val % 16) + k

/-- SES_QP_CTL_WRITE. -/
def execSesQpCtlWrite (m : Master) (q : Fin 256) (value : Word) (s : State) : Out :=
  onDev (directReg m (0x4010 + 0x20 * q.val) value.toNat 0xF) s

/-- PRT_GEOM_WRITE. -/
def execPrtGeomWrite (m : Master) (gp : Fin 112) (value : Word) (s : State) : Out :=
  onDev (directReg m (portReg 0x10000 gp 0) value.toNat 0xF) s

/-- PLS_HEATCTL_WRITE. -/
def execPlsHeatctlWrite (m : Master) (gp : Fin 112) (value : Word) (s : State) : Out :=
  onDev (directReg m (portReg 0x20000 gp 8) value.toNat 0xF) s

/-- PLS_TSNTAB_WRITE. -/
def execPlsTsntabWrite (m : Master) (gp : Fin 112) (i : Fin 17) (value : Word) (s : State) : Out :=
  onDev (directReg m (portReg 0x20000 gp (0x40 + 4 * i.val)) value.toNat 0xF) s

/-- POS_CH_OPT_WRITE. -/
def execPosChOptWrite (m : Master) (ch : Fin 4) (value : Word) (s : State) : Out :=
  onDev (directReg m (0x902C + 0x40 * ch.val) value.toNat 0xF) s

/-- OTP_CMD_WRITE. -/
def execOtpCmdWrite (m : Master) (value : Word) (s : State) : Out := onDev (directReg m 0xF000 value.toNat 0xF) s

/-- OTP_LOCK_WRITE. -/
def execOtpLockWrite (m : Master) (value : Word) (s : State) : Out := onDev (directReg m 0xF010 value.toNat 0xF) s

/-- ETH_MDIO_ACCESS. -/
def execEthMdioAccess (m : Master) (value : Word) (s : State) : Out := onDev (directReg m 0x711C value.toNat 0xF) s

/-- EVENT_ACK_WRITE. -/
def execEventAckWrite (m : Master) (cls : Fin 16) (value : Word) (s : State) : Out :=
  onDev (directReg m (0x1140 + 4 * cls.val) value.toNat 0xF) s

/-- FLT_GPIO_WRITE. -/
def execFltGpioWrite (m : Master) (value : Word) (s : State) : Out := onDev (directReg m 0xE008 value.toNat 0xF) s

/-- MDIO_ACCESS_END: Pending clears; a read's data is stored (R443). -/
def execMdioAccessEnd (data : BitVec 16) (s : State) : Out :=
  onDev (fun s =>
    if s.dev.eth.pendingMdio then
      s.dev.modEth fun e => { e with pendingMdio := false, data := if e.write then e.data else data }
    else s.dev) s

/-- POSTED_WRITE_EFFECT. -/
def execPostedWriteEffect (block : Block) (s : State) : Out :=
  onMem (fun s => blockEffect s.rows block s.dev s.mem) s

/-- MSIX_UNMASK: a vector's mask bit clears; Enable and Function Mask take the given values (R447, log 5). -/
def Dev.msixUnmask (d : Dev) (v : Fin 512) (enable functionMask : Bool) : Dev :=
  let r := d.reach .pf1 true
  if r.2.isNone then r.1 else
  (r.1.modPci fun p => { p with
    msixEnable := enable, functionMask, vecMask := p.vecMask &&& ~~~(BitVec.ofNat 512 (2 ^ v.val)) }).sendPending

/-- MSIX_UNMASK. -/
def execMsixUnmask (v : Fin 512) (enable functionMask : Bool) (s : State) : Out :=
  onDev (fun s => s.dev.msixUnmask v enable functionMask) s

end Sys2Proof.Machine
end

