-- ==== Sys2Proof/Machine/Health.lean ====
section
/-! DEFINITION. Background pieces, element scans, nozzle maps, calibration sets and patterns (R162 to R167, R269,
R287 to R306). -/

namespace Sys2Proof.Machine

/-! ## Keep-warm and spitting (R287 to R289) -/

/-- Nozzles a piece may fire: every one whose map CLASS is neither 3 nor 4. -/
def Banks.healthy (m : Banks) (gp n : Nat) : List Nat :=
  let map := m.map gp n
  (List.range n).filter fun i => let c := getF 2 3 (map.getD i 0).toNat; c != 3 && c != 4

/-- A background piece of a port is in progress, or a sequence of a line is: no piece starts while a row is in the
sequence of a line, be it one without dots inside a window (DESIGN CHOICE, log 75). -/
def Dev.pieceBusy (d : Dev) (gp : Fin 112) : Bool := d.ports[gp].firing || d.pieceOn gp

/-- A port may run background pieces: enabled, none in progress, nothing that stops its lines. -/
def Dev.pieceFree (d : Dev) (gp : Fin 112) : Bool := !d.mute gp && !d.pieceBusy gp && !(d.sys.changing)

/-- So many 10 ns ticks have gone by since a piece last started. -/
def Dev.periodOver (d : Dev) (last : Option DWord) (ticks : Nat) : Bool :=
  match last with
  | some t => decide (ticks ≤ (d.sys.now - t).toNat)
  | none => true

/-- A keep-warm piece is due (R288, R290). -/
def Dev.keepWarmDue (d : Dev) (gp : Fin 112) : Bool :=
  let p := d.ports[gp]
  p.on && p.heat.keepWarm && (d.mode = mReady || d.mode = mPrint || d.mode = mService) && !p.heat.hot && p.heat.belowWarm
    && d.periodOver p.heat.kwLast (100 * p.heat.kwPeriodUs.toNat)

/-- Slot width of a keep-warm piece (R288). -/
def Port.keepWarmSlot (p : Port) : Nat := max (p.heat.keepWarmNs.toNat + max p.slotGap.toNat 2) (p.nRows * p.tx)

/-- The on-phases of a row's nozzles in a background piece: `k` for each nozzle named by `on` that is healthy. -/
def Banks.pieceRow (m : Banks) (gp : Nat) (p : Port) (row : RowId) (k : Nat) (on : Nat → Bool) : List Nat :=
  let healthy := m.healthy gp p.nozzles
  (List.range p.nr).map fun j => if on j && healthy.contains (rowIndex row * p.nr + j) then k else 0

/-- A background piece starts on the 250 ps grid: it runs for `lines` lines of `ns` each. -/
def Dev.startPiece (d : Dev) (gp : Fin 112) (spit : Bool) (slotNs ns lines : Nat) : Dev :=
  let t0 := d.fireGrid gp
  d.modPort gp fun p => { p.endPiece with
    piece := some { spit, start := t0, pattern := p.heat.spitPattern, lineAt := t0, slotNs, lineNs := ns
                    stop := t0 + ((lines * ns : Nat) : Rat) } }

/-- Lines of a burst (Table 11.4). -/
def spitLines (pat : Nat) : Nat :=
  match pat with
  | 0 => 0
  | 6 => 2
  | 7 => 4
  | _ => 1

/-- Level of a pattern's nozzles. -/
def spitLevel (pat : Nat) : Nat := if pat = 1 then 1 else 3

/-- Row position j spits in burst w. -/
def spitOn (pat w j : Nat) : Bool :=
  match pat with
  | 3 => j % 2 == w % 2
  | 4 => j % 4 == w % 4
  | 5 => j % 8 == w % 8
  | _ => true

/-- Lines of the burst that fit the window. -/
def Dev.spitFit (d : Dev) (m : Banks) (gp : Fin 112) (left : Nat) : Nat :=
  match d.windowLeft m gp with
  | none => 0
  | some none => left
  | some (some ns) => min left (ns / ((max d.ports[gp].tmin 1 : Nat) : Rat)).floor.toNat

/-- A spit burst is due: a new one, at most one a window and one a period, or the lines left of one that did not fit
(R281, R289). -/
def Dev.spitDue (d : Dev) (gp : Fin 112) : Bool :=
  let p := d.ports[gp]
  p.on && p.heat.spitPattern != 0 && !p.blanking && (d.mode = mPrint || d.mode = mService)
    && (p.heat.spitLeft != 0
      || ((d.alwaysOpen gp || !p.heat.spitDone) && d.periodOver p.heat.spitLast (100000 * p.heat.spitPeriodMs.toNat)))

/-- KEEP_WARM_PIECE: one phase of single pulses on both rows, when R288 asks for it, no spit burst is due before it and a
window holds it (R287, R288). A burst that is due and does not fit the window, or has lines left for the next one, holds back
the pieces that come after it in R287's order (DESIGN CHOICE, log 75). -/
def Dev.keepWarmPiece (d : Dev) (m : Banks) (gp : Fin 112) : Dev :=
  let d := d.closeWindow m gp
  let p := d.ports[gp]
  let slot := p.keepWarmSlot
  if d.pieceFree gp && d.keepWarmDue gp && !d.spitDue gp && d.fits m gp (p.slotsPerPhase * slot) then
    let t0 := d.fireGrid gp
    let d := p.rowIds.foldl (fun d row => d.emit (.keepWarm gp.val row
      (p.slotPlan row t0 0 slot [(0, 0, p.heat.keepWarmNs.toNat)] (m.pieceRow gp.val p row 1 fun _ => true)))) d
    (d.startPiece gp false slot (p.slotsPerPhase * slot) 1).modPort gp fun p =>
      { p with heat := { p.heat with kwLast := some d.sys.now } }
  else d

/-- KEEP_WARM_PIECE. -/
def execKeepWarmPiece (gp : Fin 112) (s : State) : Out := onDev (fun s => s.dev.keepWarmPiece s.banks gp) s

/-- A spit line of a row from t0: a full sequence of Tmin, by the port's band when it starts and the wave set last in
force (R279, R289). -/
def Dev.spitRow (d : Dev) (m : Banks) (gp : Fin 112) (t0 : Rat) (pat : Nat) (row : RowId) : List SlotOut :=
  let p := d.ports[gp]
  let band := p.heat.band.toNat
  let n := phasesOf m gp.val p p.waveSel.val band (spitLevel pat)
  let shapes := (List.range p.phases.toNat).map fun i =>
    let w := m.wave gp.val p.waveSel.val (i + 1) band
    (w.1, w.2.1, w.2.2.1)
  p.slotPlan row t0 0 p.slotNs shapes (m.pieceRow gp.val p row n (spitOn pat p.heat.spitCounter))

/-- The next spit line of the burst in progress starts, and is counted (R289). -/
def Dev.spitLine (d : Dev) (m : Banks) (gp : Fin 112) : Dev :=
  match d.ports[gp].piece with
  | none => d
  | some x =>
    let pat := x.pattern.toNat
    let d := d.ports[gp].rowIds.foldl (fun d row =>
      d.emit (.spit gp.val row (spitLevel pat) (d.spitRow m gp x.lineAt pat row))) d
    d.modPort gp fun p => { p with heat := { p.heat with spits := satInc p.heat.spits, spitLeft := p.heat.spitLeft - 1 } }

/-- A piece whose end has come is over; at the end of a spit line the burst's next line of this window follows. -/
def Dev.runPiece (d : Dev) (m : Banks) (gp : Fin 112) : Dev :=
  match d.ports[gp].piece with
  | none => d
  | some x =>
    let next := x.lineAt + (x.lineNs : Rat)
    if x.stop ≤ d.fireNow gp then d.modPort gp Port.endPiece
    else if x.spit && decide (next ≤ d.fireNow gp) then
      (d.modPort gp fun p => { p with piece := some { x with lineAt := next } }).spitLine m gp
    else d

/-- A correctable error of the PCIe link is counted at the ticks at which one comes: no row reports them, and the ticks are a
free value (Table 19.7; log 79). -/
def Dev.countCorrectable (d : Dev) : Dev :=
  if !d.sys.held && d.linkOn (.pcie 0) && Config.correctableError d.sys.now then
    d.modPci fun x => { x with correctable := satTo 0xFFFF x.correctable }
  else d

/-- A bit of a memory word flips at the ticks at which one does: a free value (R417; log 80). A second flip of the same word
leaves two bits in error. -/
def Dev.upsetBit (d : Dev) : Dev :=
  match Config.upset d.sys.now with
  | none => d
  | some (die, bank, off) =>
    let w := (die.val, bank.toNat, off.toNat / 8 * 8)
    if d.sys.held || (die ≠ 0 && !d.hasDie (die.val - 1)) || bankBytes die.val bank.toNat ≤ off.toNat || d.mr.badWords.contains w then d
    else d.modMr fun x =>
      if x.flipped.contains w then { x with flipped := x.flipped.filter (· != w), badWords := x.badWords ++ [w] }
      else { x with flipped := w :: x.flipped }

/-- Time goes by while no command comes: one tick of the timestamp counter. Background pieces go on or end, a port that is
to be contained once its rows have ended is, and a change of mode that waited for a piece completes. -/
def Dev.idle (d : Dev) (m : Banks) : Dev :=
  ((fins 112).foldl (fun d gp => (d.runPiece (d.sound m) gp).hotBoundary gp) d.tick.countCorrectable.upsetBit).wakeMode

/-- SPIT_BURST: a burst starts, or goes on with the lines left from the last window. Its first line starts now, each
later one at the end of the one before. -/
def Dev.spitBurst (d : Dev) (m : Banks) (gp : Fin 112) : Dev :=
  let d := d.closeWindow m gp
  let p := d.ports[gp]
  if !d.pieceFree gp || !d.spitDue gp then d else
  let pat := p.heat.spitPattern.toNat
  let fresh := p.heat.spitLeft = 0
  let left := if fresh then spitLines pat else p.heat.spitLeft
  let k := d.spitFit m gp left
  if k = 0 then d else
  ((d.startPiece gp true p.slotNs p.tmin k).modPort gp fun p => { p with heat := { p.heat with
    spitLeft := left, spitDone := true
    spitLast := if fresh then some d.sys.now else p.heat.spitLast } }).spitLine m gp

/-- SPIT_BURST. -/
def execSpitBurst (gp : Fin 112) (s : State) : Out := onDev (fun s => s.dev.spitBurst s.banks gp) s

/-! ## SCAN_START -/

/-- The ports a map names. -/
def mapPorts (m : Nat) : List (Fin 112) := (fins 112).filter fun gp => m.testBit gp.val

/-- A scan begins at nozzle 0. While its head is held, the port reads as in test mode (log 19). -/
def Dev.beginScan (d : Dev) (state : BitVec 2) (limit : Nat) (cold : Bool) (gp : Fin 112) : Dev :=
  d.modPort gp fun p => { p with scan := { p.scan with
    state, cold, aborted := false, testMode := state == 1, next := 0, limit, measured := 0, newMasked := 0 } }

/-- A swath prints a pattern, or is to print one. -/
def Dev.patterned (d : Dev) (s : Fin 16) : Bool :=
  d.swaths[s].state == 3 || (match d.swaths[s].pendingRun with
    | some r => r.pattern.isSome
    | none => false)

/-- SCAN_START (R162, R296). -/
def scanStartCmd (state : BitVec 2) (c : Ctx) : Chk (Dev × Finish) := do
  let map := pU c.ps 0 14
  let ports := mapPorts map
  needP (c.d.mapPresent map && ports.all fun gp => c.d.ports[gp].on && !c.d.portEmpty gp) 0
  needZero c.ps 14 2
  needFree (ports.all fun gp => c.d.ports[gp].scan.state == 0 && !c.d.portContained gp
    && (state != 1 || (match c.d.swathOf gp.val with
      | some s => !c.d.patterned s
      | none => true)))
  return (ports.foldl (fun d gp => d.beginScan state d.ports[gp].nozzles false gp) c.d, .queued [])

/-- SCAN_START's rows of Table 6.2. -/
def specScanStart (v : Byte) (m : BitVec 4) : CmdSpec :=
  { opcode := 0x60, variant := v, modes := [m], role := atLeast rOperator, len := lenIs 16 }

/-- SCAN_START variant 0. -/
def execScanStartForeground (p : Packet) (s : State) : Out :=
  onDev (cmdDev (specScanStart 0 mCalibrate) (scanStartCmd 1) p) s

/-- SCAN_START variant 1. -/
def execScanStartBackground (p : Packet) (s : State) : Out :=
  onDev (cmdDev (specScanStart 1 mPrint) (scanStartCmd 2) p) s

/-! ## SCAN_ELEMENT -/

/-- The raw value of a code, in 0.1 Ω (R293). -/
def rawOf (code : Nat) : Nat := if 15292 ≤ code then 0xFFFF else max 1 ((code * 15000 + 16384) / 32768)

/-- The class of a raw value (Table 12.3). -/
def classOf (c : Scan) (r : Nat) : Nat :=
  if r = 0xFFFF || c.bandOpen.toNat ≤ r then 3
  else if c.bandHigh.toNat < r then 1
  else if c.bandLow.toNat ≤ r then 0
  else if c.bandShort.toNat < r then 2
  else 4

/-- The map byte after an element is measured; true when it is newly masked (R299). -/
def scanByte (b cls : Nat) : Nat × Bool :=
  let newly := (cls == 3 || cls == 4) && !getB 0 b && !getB 7 b
  (Nat.lor (Nat.land b 0xE1) (4 * cls + 2 + (if newly then 0x80 else 0)), newly)

/-- BOOT becomes READY: nothing is scanning, ESTOP has a state, and no reaction ends the start in HALTED. FAULT_OUT is
deasserted (R82, R383, R384, R389). -/
def Dev.toReady (d : Dev) : Dev :=
  if d.mode = mBoot && decide (8 ≤ d.sys.bootStep.toNat)
      && !(fins 112).any (fun gp => d.ports[gp].scan.cold && d.ports[gp].scan.state != 0) then
    if !d.halting && d.flt.estop.isSome then (d.modFlt fun x => { x with asserted := false }).enterMode mReady
    else d.modSys fun x => { x with bootStep := 9 }
  else d

/-- A scan has written its last element: HEALTH kind 0 (R297). -/
def Dev.endScan (d : Dev) (gp : Fin 112) : Dev :=
  let c := d.ports[gp].scan
  let d := d.modPort gp fun p => { p with scan := { p.scan with state := 0, testMode := false } }
  (d.event evHealth 0 gp.val (leBytes 2 c.measured ++ leBytes 2 c.newMasked)).toReady

/-- One element is measured and written (R292, R299). -/
def Dev.scanElement (d : Dev) (m : Banks) (gp : Fin 112) (code : Nat) : Dev × Banks :=
  let c := d.ports[gp].scan
  let r := rawOf code
  let b := scanByte ((d.sound m).byte (mapAddr gp.val c.next)).toNat (classOf c r)
  let d := d.emit (.testWord gp.val (BitVec.ofNat 16 (0x8000 + getF 0 14 c.next)))
  let d := d.modDie ⟨gp.val / 16, by omega⟩ Die.sendData
  let x := putRange d m (rawAddr gp.val c.next) (leBytes 2 r)
  let y := putRange x.1 x.2 (mapAddr gp.val c.next) [BitVec.ofNat 8 b.1]
  let d := y.1.modPort gp fun p => { p with scan := { p.scan with
    next := c.next + 1, measured := c.measured + 1, newMasked := if b.2 then c.newMasked + 1 else c.newMasked } }
  (if c.limit ≤ c.next + 1 then d.endScan gp else d, y.2)

/-- An element of a background scan is abandoned: its window has closed, and it is measured again in the next one
(R295). -/
def Dev.scanAbort (d : Dev) (gp : Fin 112) : Dev :=
  let n := d.ports[gp].scan.next
  let d := d.modPort gp fun p => { p with heat := { p.heat with headland := false } }
  (d.emit (.testWord gp.val (BitVec.ofNat 16 (0x8000 + getF 0 14 n)))).modPort gp fun p =>
    { p with scan := { p.scan with aborts := satInc p.scan.aborts } }

/-- An element of a background scan may start: no piece is in progress or due before it, and 12 µs fit the window
(R287, R294, R295). -/
def Dev.elementFree (d : Dev) (m : Banks) (gp : Fin 112) : Bool :=
  d.pieceFree gp && !d.spitDue gp && !d.keepWarmDue gp && d.fits m gp 12000

/-- SCAN_ELEMENT: a scanning port measures its next element; in a background scan inside a window of 12 µs or more. A window
that is always open does not close on it (R286). -/
def Dev.scanStep (d : Dev) (m : Banks) (gp : Fin 112) (code : BitVec 14) (closed : Bool) : Dev × Banks :=
  let d := d.closeWindow m gp
  let c := d.ports[gp].scan
  if c.state = 0 then (d, m)
  else if c.state = 2 && !d.elementFree m gp then (d, m)
  else if c.state = 2 && closed && !d.alwaysOpen gp then (d.scanAbort gp, m)
  else d.scanElement m gp code.toNat

/-- SCAN_ELEMENT. -/
def execScanElement (gp : Fin 112) (code : BitVec 14) (windowClosed : Bool) (s : State) : Out :=
  onMem (fun s => s.dev.scanStep s.mem gp code windowClosed) s

/-! ## MAP_EDIT, MAP_READ, RAW_READ -/

/-- A map byte after an edit (Table 6.18, R302). -/
def mapByte (op value : Nat) (b : Byte) : Byte :=
  BitVec.ofNat 8 (match op with
    | 0 => Nat.lor b.toNat value
    | 1 => Nat.land b.toNat (0xFF - value)
    | _ => Nat.lor (Nat.land b.toNat 0x1E) (Nat.land value 0xE1))

/-- A list of nozzles is edited. -/
def mapEdits (gp op value : Nat) : Dev × Banks → List Nat → Dev × Banks
  | x, [] => x
  | x, n :: ns =>
    mapEdits gp op value (putRange x.1 x.2 (mapAddr gp n) [mapByte op value (x.2.byte (mapAddr gp n))]) ns

/-- The fields both variants of MAP_EDIT share. -/
def Ctx.needMapEdit (c : Ctx) : Chk (Fin 112) := do
  let gp ← c.needPort
  let op := pU c.ps 1 1
  let v := pU c.ps 2 1
  needRange c.ps 1 1 0 2
  needP (if op = 2 then getF 1 4 v == 0 && getF 5 2 v != 3 else Nat.land v 0x7E == 0) 2
  needZero c.ps 3 1
  return gp

/-- MAP_EDIT variant 0: a run of nozzles. -/
def mapEditRunCmd (c : Ctx) : Chk (Dev × Banks × Finish) := do
  let gp ← c.needMapEdit
  let n := pU c.ps 4 2
  let first := pU c.ps 6 2
  needRange c.ps 4 2 1 10240
  needRange c.ps 6 2 0 10239
  need (first + n ≤ c.d.ports[gp].nozzles) stLengthExceeds 28
  let r := mapEdits gp.val (pU c.ps 1 1) (pU c.ps 2 1) (c.d, c.s.mem) ((List.range n).map (first + ·))
  return (r.1, r.2, .ok [])

/-- MAP_EDIT's rows of Table 6.2. -/
def specMapEdit (v : Byte) (len : List Byte → Bool) : CmdSpec :=
  { opcode := 0x61, variant := v, modes := setO, role := atLeast rOperator, len }

/-- MAP_EDIT variant 0. -/
def execMapEditRun (p : Packet) (s : State) : Out := onMem (cmdMem (specMapEdit 0 (lenIs 8)) mapEditRunCmd p) s

/-- Entries of a list lie within a bound; the first that does not is at fault. -/
def needEntries (ps : List Byte) (hi code : Nat) (off : Nat) : Nat → Chk Unit
  | 0 => .ok ()
  | n + 1 => do
    need (decide (pU ps off 2 ≤ hi)) code (24 + off)
    needEntries ps hi code (off + 2) n

/-- MAP_EDIT variant 1: a list of nozzles. -/
def mapEditListCmd (c : Ctx) : Chk (Dev × Banks × Finish) := do
  let gp ← c.needMapEdit
  let n := pU c.ps 4 2
  needRange c.ps 4 2 1 2027
  needEntries c.ps 10239 stBadParam 6 n
  let nozzles := c.d.ports[gp].nozzles
  need (decide (0 < nozzles)) stLengthExceeds 30
  needEntries c.ps (nozzles - 1) stLengthExceeds 6 n
  let list := (List.range n).map fun i => pU c.ps (6 + 2 * i) 2
  let r := mapEdits gp.val (pU c.ps 1 1) (pU c.ps 2 1) (c.d, c.s.mem) list
  return (r.1, r.2, .ok [])

/-- MAP_EDIT variant 1. -/
def execMapEditList (p : Packet) (s : State) : Out :=
  onMem (cmdMem (specMapEdit 1 fun ps => decide (6 ≤ ps.length) && ps.length == 6 + 2 * pU ps 4 2) mapEditListCmd p) s

/-- MAP_READ and RAW_READ: entries of `w` bytes from an address (R164). The data message that brings them up the Tine link
is accounted as sent and returned within the command (DESIGN CHOICE, log 70). -/
def tableReadCmd (w hi : Nat) (addr : Nat → Nat → Nat) (c : Ctx) : Chk (Dev × Finish) := do
  let gp ← c.needPort
  let first := pU c.ps 2 2
  let n := pU c.ps 4 2
  needZero c.ps 1 1
  needRange c.ps 2 2 0 10239
  needRange c.ps 4 2 1 hi
  need (first + n ≤ c.d.ports[gp].nozzles) stLengthExceeds 28
  c.needRoom (w * n) 28
  let r := hostRead c.d c.s.mem (addr gp.val first) (w * n)
  return (r.1, .ok r.2)

/-- MAP_READ's row of Table 6.2. -/
def specMapRead : CmdSpec := { opcode := 0x62, variant := 0, modes := setA, role := atLeast rObserver, len := lenIs 6 }

/-- RAW_READ's row of Table 6.2. -/
def specRawRead : CmdSpec := { opcode := 0x63, variant := 0, modes := setA, role := atLeast rObserver, len := lenIs 6 }

/-- MAP_READ. -/
def execMapRead (p : Packet) (s : State) : Out := onDev (cmdDev specMapRead (tableReadCmd 1 4060 mapAddr) p) s

/-- RAW_READ. -/
def execRawRead (p : Packet) (s : State) : Out := onDev (cmdDev specRawRead (tableReadCmd 2 2030 rawAddr) p) s

/-! ## BAND_SET, CAL_WRITE -/

/-- BAND_SET (R140, R165, R296, R298). -/
def bandSetCmd (c : Ctx) : Chk (Dev × Finish) := do
  let gp ← c.needPort
  needZero c.ps 1 1
  needRange c.ps 2 2 1 7000
  needRange c.ps 4 2 1 7000
  needP (decide (pU c.ps 2 2 < pU c.ps 4 2)) 4
  needRange c.ps 6 2 1 7000
  needP (decide (pU c.ps 4 2 < pU c.ps 6 2)) 6
  needRange c.ps 8 2 1 7000
  needP (decide (pU c.ps 6 2 < pU c.ps 8 2)) 8
  needFree (c.d.ports[gp].scan.state == 0 && !c.d.portInUse gp.val)
  return (c.d.modPort gp fun p => { p with scan := { p.scan with
    bandShort := BitVec.ofNat 16 (pU c.ps 2 2), bandLow := BitVec.ofNat 16 (pU c.ps 4 2)
    bandHigh := BitVec.ofNat 16 (pU c.ps 6 2), bandOpen := BitVec.ofNat 16 (pU c.ps 8 2) } }, .ok [])

/-- BAND_SET's row of Table 6.2. -/
def specBandSet : CmdSpec := { opcode := 0x64, variant := 0, modes := setO, role := atLeast rService, len := lenIs 10 }

/-- BAND_SET. -/
def execBandSet (p : Packet) (s : State) : Out := onDev (cmdDev specBandSet bandSetCmd p) s

/-- A calibration set is selected by an armed or active job (R140). -/
def Dev.calInUse (d : Dev) (gp set : Nat) : Bool :=
  (d.portRuns gp).any fun r => r.pattern.isNone && r.policy.calSet.val == set

/-- CAL_WRITE (Table 6.19, R166): the whole record is written. -/
def calWriteCmd (c : Ctx) : Chk (Dev × Banks × Finish) := do
  let gp ← c.needPort
  let set := pU c.ps 1 1
  needRange c.ps 1 1 0 3
  needRangeI c.ps 2 2 (-1024) 1023
  needRangeI c.ps 4 4 (-49152) 49152
  needRangeI c.ps 8 4 (-49152) 49152
  needP (decide ((pI c.ps 4 4).natAbs + (pI c.ps 8 4).natAbs ≤ 49152)) 8
  needZero c.ps 20 4
  needFree (!c.d.calInUse gp.val set)
  let rec' := (c.ps.drop 2).take 2 ++ [0, 0] ++ (c.ps.drop 4).take 16 ++ List.replicate 12 0
  let r := putRange c.d c.s.mem (calAddr gp.val set) rec'
  return (r.1, r.2, .ok [])

/-- CAL_WRITE's row of Table 6.2. -/
def specCalWrite : CmdSpec := { opcode := 0x65, variant := 0, modes := setO, role := atLeast rOperator, len := lenIs 24 }

/-- CAL_WRITE. -/
def execCalWrite (p : Packet) (s : State) : Out := onMem (cmdMem specCalWrite calWriteCmd p) s

/-! ## PATTERN_PRINT -/

/-- The policy under which pattern lines are handled (R269). -/
def patternPolicy (w : Swath) : JobSwath :=
  { gearNum := w.gearNum, gearDen := w.gearDen, length := 0, firstDesc := 0, descCount := 0, chainEnd := 0
    waveSet := 0, shareSet := 0, calSet := 0, hidePolicy := 0, overspeed := 0, dropLimit := 65535
    windowTolNs := 1000, underrunStop := 0 }

/-- PATTERN_PRINT (R167, R269, R296): the pending ratio and origin are loaded, on every die at once. -/
def patternPrintCmd (c : Ctx) : Chk (Dev × Finish) := do
  needRange c.ps 0 1 0 15
  let s := Fin.ofNat 16 (pU c.ps 0 1)
  let w := c.d.swaths[s]
  needP w.defined 0
  needRange c.ps 1 1 0 3
  needRange c.ps 2 2 1 65535
  needFree (w.state != 3 && w.pendingRun.isNone)
  needFree ((c.d.swathPorts s).all fun gp => c.d.ports[gp].scan.state == 0)
  let now := c.d.pos.enc[w.channel].copies[0]
  let pos32 := BitVec.ofNat 32 (pU c.ps 4 4) + w.barOffset
  need (after pos32 now.count) stTooLate noField
  let pos := add40 now.ext (pos32 - now.count).toNat
  let n := pU c.ps 2 2
  let e := w.epoch + 1
  let run : Run := {
    epoch := e, origin := pos, gearNum := w.gearNum, gearDen := w.gearDen, policy := patternPolicy w
    pattern := some (BitVec.ofNat 2 (pU c.ps 1 1)), lines := if n = 65535 then none else some n }
  return (c.d.modSwath s fun w => { w with
    epoch := e, switch := some { pos, run := some run, tag := e }
    gens := vall (fun (g : LineGen) => { g with armed := true, crossed := false, late := g.behind w.switch }) w.gens }, .ok [])

/-- PATTERN_PRINT's row of Table 6.2. -/
def specPatternPrint : CmdSpec :=
  { opcode := 0x66, variant := 0, modes := [mCalibrate], role := atLeast rOperator, len := lenIs 8 }

/-- PATTERN_PRINT. -/
def execPatternPrint (p : Packet) (s : State) : Out := onDev (cmdDev specPatternPrint patternPrintCmd p) s

end Sys2Proof.Machine
end

