-- ==== Sys2Proof/Machine/Device.lean ====
section
/-! DEFINITION. DEVICE_INFO and DEVICE_STATUS, the fault commands, the detections that come from outside, completion
of reactions, fault inputs, scrubbers, Tine and host links, the test multiplexers and the TAP (R24, R25, R29, R31,
R146, R177, R180, R377 to R389, R412, R413, R417, R418, R427, R428, R444). -/

namespace Sys2Proof.Machine

/-! ## DEVICE_INFO, DEVICE_STATUS -/

/-- Table 6.4, Motion: ASCII M, N or S. -/
def motionLetter (d : Dev) : Nat := if d.hasTax then 0x4D else if d.hasAux then 0x53 else 0x4E

/-- Ports of the variant. -/
def Dev.portsPresent (d : Dev) : Nat := ((List.range 112).filter d.hasPort).length

/-- "CHERVIL ", the name of the mask ROM. -/
def romName : List Byte := [0x43, 0x48, 0x45, 0x52, 0x56, 0x49, 0x4C, 0x20]

/-- The reply of Table 6.4. -/
def Dev.infoReply (d : Dev) : List Byte :=
  leBytes 1 (1 + d.furrowDies) ++ leBytes 1 (motionLetter d) ++ leBytes 1 (d.fusedHz / 1000)
    ++ leBytes 1 (bit d.half + 2 * bit (!getB 8 d.feat)) ++ [0] ++ leBytes 1 (bit d.sys.packageP65)
    ++ leBytes 2 d.portsPresent ++ romName ++ leBytes 2 Config.romBuild.toNat ++ leBytes 2 d.sys.patchLevel.toNat
    ++ leBytes 2 d.sys.cache0.toNat ++ leBytes 2 d.sys.cache1.toNat ++ leBytes 8 d.otp.deviceId.toNat
    ++ le4 (d.sysVal 0x24) ++ le4 0

/-- DEVICE_INFO's row of Table 6.2; it is taken in the pre-session too. -/
def specDeviceInfo : CmdSpec := { opcode := 0x12, variant := 0, modes := setA, role := atLeast rObserver, len := lenIs 0 }

/-- DEVICE_INFO. -/
def execDeviceInfo (p : Packet) (s : State) : Out :=
  onDev (cmdDev specDeviceInfo (fun c => .ok (c.d, .ok c.d.infoReply)) p) s

/-- The reply of Table 6.5. -/
def Dev.statusReply (d : Dev) : List Byte :=
  let r := d.flt.firstRec
  le4 (d.sysVal 0x10) ++ le4 (d.sysVal 0x14) ++ le4 (d.sysVal 0x20) ++ leBytes 8 d.sys.now.toNat
    ++ leBytes 2 r.source.toNat ++ leBytes 1 (if r.source = 0xFFFF then 0 else r.cls.toNat) ++ [0]
    ++ leBytes 2 (sfld 0 16 d.hottest.2) ++ [0, 0]

/-- DEVICE_STATUS's row of Table 6.2. -/
def specDeviceStatus : CmdSpec :=
  { opcode := 0x13, variant := 0, modes := setA, role := atLeast rObserver, len := lenIs 0 }

/-- DEVICE_STATUS. -/
def execDeviceStatus (p : Packet) (s : State) : Out :=
  onDev (cmdDev specDeviceStatus (fun c => .ok (c.d, .ok c.d.statusReply)) p) s

/-! ## FLT_CLASS, FLT_FORCE, FLT_READ -/

/-- Source, at offset 0: an ID in use. -/
def Ctx.needSource (c : Ctx) : Chk Nat := do
  needP (c.d.sourceInUse (pU c.ps 0 2)) 0
  return pU c.ps 0 2

/-- FLT_CLASS (R177, R380). -/
def fltClassCmd (c : Ctx) : Chk (Dev × Finish) := do
  let id ← c.needSource
  let k := pU c.ps 2 1
  needP (decide (k ≤ 5) && decide (lowestClass id ≤ k) && (k != 3 || hasUnit id)) 2
  needZero c.ps 3 1
  return (c.d.modSrc id fun x => { x with cls := Tv.mk3 (BitVec.ofNat 3 k) }, .ok [])

/-- FLT_CLASS's row of Table 6.2. -/
def specFltClass : CmdSpec := { opcode := 0xA0, variant := 0, modes := setA, role := atLeast rService, len := lenIs 4 }

/-- FLT_CLASS. -/
def execFltClass (p : Packet) (s : State) : Out := onDev (cmdDev specFltClass fltClassCmd p) s

/-- A detection of TEMP_CRIT has stopped its port's rows: what waited for them follows. -/
def Dev.afterCrit (d : Dev) (id : Nat) : Dev :=
  if 0x100 ≤ id ∧ id < 0x2C0 ∧ (id - 0x100) % 0x40 < 0x30 ∧ (id - 0x100) % 0x40 % 3 = 1 then
    d.afterStop (Fin.ofNat 112 (16 * ((id - 0x100) / 0x40) + (id - 0x100) % 0x40 / 3))
  else d

/-- The force bit is set: a detection like any other (R387). -/
def Dev.forceOn (d : Dev) (id : Nat) : Dev :=
  (((d.modSrc id fun x => { x with force := Tv.mk3 1 }).detectCore id true 0 none).checkOvf).afterCrit id

/-- The force bit is cleared (R387, R377). -/
def Dev.forceOff (d : Dev) (id : Nat) : Dev :=
  ((d.modSrc id fun x => { x with force := Tv.mk3 0 }).causeLeft id (d.src id).active).checkOvf

/-- FLT_FORCE (R177, R387). -/
def fltForceCmd (c : Ctx) : Chk (Dev × Finish) := do
  let id ← c.needSource
  needRange c.ps 2 1 0 1
  needZero c.ps 3 1
  return (if pU c.ps 2 1 = 1 then c.d.forceOn id else c.d.forceOff id, .ok [])

/-- FLT_FORCE's row of Table 6.2. -/
def specFltForce : CmdSpec := { opcode := 0xA1, variant := 0, modes := setA, role := atLeast rService, len := lenIs 4 }

/-- FLT_FORCE. -/
def execFltForce (p : Packet) (s : State) : Out := onDev (cmdDev specFltForce fltForceCmd p) s

/-- FLT_READ's rows of Table 6.2. -/
def specFltRead (v : Byte) (n : Nat) : CmdSpec :=
  { opcode := 0xA2, variant := v, modes := setA, role := atLeast rObserver, len := lenIs n }

/-- FLT_READ variant 0 (R385). -/
def execFltReadRecords (p : Packet) (s : State) : Out :=
  onDev (cmdDev (specFltRead 0 0) (fun c => .ok (c.d, .ok (c.d.flt.firstRec.bytes ++ c.d.flt.latestRec.bytes))) p) s

/-- The counter of an ID; 0 when the ID names no source. -/
def Dev.fltCount (d : Dev) (id : Nat) : Nat := if d.sourceInUse id then (d.src id).count else 0

/-- FLT_READ variant 1 (R177). -/
def fltCountersCmd (c : Ctx) : Chk (Dev × Finish) := do
  let first := pU c.ps 0 2
  let n := pU c.ps 2 2
  needRange c.ps 0 2 0 0x3FF
  needRange c.ps 2 2 1 1015
  need (first + n ≤ 0x400) stLengthExceeds 26
  c.needRoom (4 * n) 26
  return (c.d, .ok ((List.range n).flatMap fun i => le4 (c.d.fltCount (first + i))))

/-- FLT_READ variant 1. -/
def execFltReadCounters (p : Packet) (s : State) : Out := onDev (cmdDev (specFltRead 1 4) fltCountersCmd p) s

/-! ## Detections and causes from outside -/

/-- A link between hub and die fails: it stays down until it is trained again (R31). -/
def Dev.tineFail (d : Dev) (f : Fin 7) : Dev :=
  (d.modDie f fun x => { x with tine := 3 }).detect (idDie f.val oTineLink)

/-- Offset of FRW_TEST from a die's base. -/
abbrev oTest : Nat := 0x3F

/-- Sources that only FLT_FORCE raises (Tables 16.2, 16.3). -/
def forcedOnly (id : Nat) : Bool :=
  (0x098 ≤ id && id < 0x100) || (0x100 ≤ id && (id - 0x100) % 0x40 == oTest)

/-- A source's fault input is read: of a port, an axis or a GPIO that is enabled. Every other source has none (R389). -/
def Dev.inputRead (d : Dev) (id : Nat) : Bool :=
  (fins 112).all (fun gp => idPortFlt gp.val != id || d.ports[gp].on)
    && (fins 4).all (fun n => idTaxGate n.val != id || d.mot.tax[n].on)
    && (fins 16).all fun g => idGpio g.val != id || d.flt.gpioEnable.val.getLsbD g.val

/-- FAULT_DETECTION: a source's condition is confirmed (R377, R386), not that of an input which is not read. TINE_LINK takes
its link down; PCIE_AER counts an uncorrectable error. -/
def Dev.faultDetection (d : Dev) (id : Nat) : Dev :=
  if d.sys.held || forcedOnly id || !d.sourceInUse id || !d.inputRead id then d
  else if h : 0x100 ≤ id ∧ id < 0x2C0 ∧ (id - 0x100) % 0x40 = oTineLink then d.tineFail ⟨(id - 0x100) / 0x40, by omega⟩
  else
    let d := if id = 0x011 && !d.pcieOff then
        d.modPci fun x => { x with uncorrectable := satTo 0xFFFF x.uncorrectable } else d
    (d.detect id).afterCrit id

/-- FAULT_DETECTION. -/
def execFaultDetection (source : Nat) (s : State) : Out := onDev (fun s => s.dev.faultDetection source) s

/-- Occurrence sources whose cause lasts until a normal occurrence or a reset (R377). -/
def occurrence (id : Nat) : Bool :=
  (0x018 ≤ id && id < 0x048) || (0x048 ≤ id && id < 0x058 && id % 4 == 0) || (0x058 ≤ id && id < 0x068 && id % 4 == 3)
    || (0x068 ≤ id && id < 0x088 && id % 4 == 0) || (0x100 ≤ id && (id - 0x100) % 0x40 < 0x30 && (id - 0x100) % 0x40 % 3 == 2)

/-- FAULT_CAUSE_GONE: a lasting condition ends (R377). -/
def Dev.lastingGone (d : Dev) (id : Nat) : Dev :=
  if d.sys.held || !d.sourceInUse id || occurrence id then d else d.causeGone id

/-- FAULT_CAUSE_GONE. -/
def execFaultCauseGone (source : Nat) (s : State) : Out := onDev (fun s => s.dev.lastingGone source) s

/-! ## Completion of a reaction (R381, R386) -/

/-- The outputs of a CONTAIN reaction have stopped: no contained port fires. -/
def Dev.containDone (d : Dev) : Bool :=
  (fins 112).all fun gp => !(d.portContained gp && (d.ports[gp].rowA.firing || d.ports[gp].rowB.firing))

/-- The outputs of a STOP or KILL reaction have stopped: every row ended, every axis's gates off, as in a coast, or in
active short circuit (R350, R351). -/
def Dev.stopDone (d : Dev) : Bool :=
  d.printIdle && ((fins 112).all fun gp => !d.ports[gp].rowA.firing && !d.ports[gp].rowB.firing)
    && ((fins 4).all fun n => d.mot.tax[n].state == 0 || d.mot.tax[n].state == 4 || d.mot.tax[n].state == 5) && (fins 8).all fun n => !d.mot.aux[n].on

/-- The records are marked Complete. -/
def Dev.recordDone (d : Dev) : Dev :=
  d.modFlt fun x =>
    let f := fun (r : FaultRecord) =>
      { r with complete := true, doneDelta := min 0xFFFFFFFF (d.sys.now - r.ts).toNat }
    { x.modRecords f with reaction := none }

/-- HALTED: HPEN off, commands taken (Table 4.1). A start held at step 1 is over. A second reaction in HALTED leaves the
mode as it is (R384). -/
def Dev.toHalted (d : Dev) : Dev :=
  let d := d.modSys fun x => { x with coldArgs := none }
  let d := (fins 112).foldl (fun d gp => if d.ports[gp].on || d.ports[gp].powered then d.portOff gp else d) d
  let d := d.modSes fun t => { t with running := true }
  if d.mode = mHalted then d else d.enterMode mHalted

/-- REACTION_COMPLETE: takes effect once the outputs of the reaction in progress have stopped. -/
def Dev.reactionComplete (d : Dev) : Dev :=
  match d.flt.reaction with
  | none => d
  | some r =>
    if r.cls ≤ 3 then (if d.containDone then d.recordDone.outAfterContain else d)
    else if d.stopDone then d.recordDone.toHalted
    else d

/-- REACTION_COMPLETE. -/
def execReactionComplete (s : State) : Out := onDev (fun s => s.dev.reactionComplete) s

/-! ## Fault inputs (R388, R389, Table 16.7) -/

/-- A pair or pin: fault, and broken wire. -/
def readInput (dual high p n : Bool) : Bool × Bool :=
  if dual then (!(p && !n), p == n) else (if high then p else !p, false)

/-- A source follows its input. What the fault disables takes its broken-wire state along: the input is read no longer
(R389). -/
def Dev.inputCause (d : Dev) (id : Nat) (r : Bool × Bool) : Dev :=
  let d := d.modSrc id fun x => { x with wire := r.2 && id != 0x00E }
  if r.1 then (if (d.src id).cause then d else d.detect id) else d.causeGone id

/-- FAULT_INPUT_CHANGE: an input that is read has held a new state for its filter time. -/
def Dev.inputChange (d : Dev) (i : FaultInput) (p n : Bool) : Dev :=
  if d.sys.held then d else
  match i with
  | .head gp =>
    let f : Fin 7 := ⟨gp.val / 16, by omega⟩
    if d.hasPort gp.val && d.ports[gp].on then
      d.inputCause (idPortFlt gp.val) (readInput (d.flt.dualRail[f].getLsbD (gp.val % 16)) d.flt.activeHigh[f] p n)
    else d
  | .gate a =>
    if d.hasTax && d.mot.tax[a].on then
      d.inputCause (idTaxGate a.val) (readInput (d.flt.gateDual.val.getLsbD a.val) (d.flt.gateHigh.val == 1) p n)
    else d
  | .gpio g =>
    if d.flt.gpioEnable.val.getLsbD g.val then
      d.inputCause (idGpio g.val) (readInput false (d.flt.gpioHigh.val.getLsbD g.val) p n)
    else d
  | .estop =>
    ((d.modFlt fun x => { x with estop := some (p, n) }).inputCause 0x00E (readInput true false p n)).toReady

/-- FAULT_INPUT_CHANGE. -/
def execFaultInputChange (input : FaultInput) (p n : Bool) (s : State) : Out :=
  onDev (fun s => s.dev.inputChange input p n) s

/-! ## The scrubber of triplicated fields (R427, R428) -/

/-- A field after a scrub: the majority in all three copies, or the reset value for a majority it never takes. -/
def scrubTv {n : Nat} (reset : BitVec n) (ok : BitVec n → Bool) (t : Tv n) : Tv n :=
  Tv.mk3 (if ok t.val then t.val else reset)

/-- Corrections and impossible values of a field. -/
def tvBad {n : Nat} (ok : BitVec n → Bool) (t : Tv n) : Nat × Nat := (bit t.split, bit !(ok t.val))

/-- Sums of pairs. -/
def addPairs (xs : List (Nat × Nat)) : Nat × Nat := xs.foldl (fun a x => (a.1 + x.1, a.2 + x.2)) (0, 0)

/-- Every value is one the field takes. -/
def anyVal {n : Nat} : BitVec n → Bool := fun _ => true

def modeOk : BitVec 4 → Bool := fun v => decide (v.toNat < 8)
def clsOk : BitVec 3 → Bool := fun v => decide (v.toNat ≤ 5)
def outClassOk : BitVec 3 → Bool := fun v => decide (3 ≤ v.toNat ∧ v.toNat ≤ 5)
def filterOk : BitVec 7 → Bool := fun v => decide (v.toNat ≤ 100)

/-- The feature word is one of Table 17.6, or zero. -/
def Dev.featOk (d : Dev) : BitVec 9 → Bool := fun v => featureValid (BitVec.ofNat 64 v.toNat) d.sys.packageP65

/-- What the scrubber finds on the hub. -/
def Dev.hubVotes (d : Dev) : Nat × Nat :=
  addPairs ([tvBad modeOk d.sys.mode, tvBad d.featOk d.otp.feat, tvBad anyVal d.otp.lock, tvBad outClassOk d.flt.outClass,
      tvBad anyVal d.flt.gateDual, tvBad anyVal d.flt.gateHigh, tvBad filterOk d.flt.gateFilter,
      tvBad filterOk d.flt.estopFilter, tvBad anyVal d.flt.gpioEnable, tvBad anyVal d.flt.gpioHigh]
    ++ d.mot.tax.toList.map (fun t => tvBad anyVal t.enable) ++ d.mot.aux.toList.map (fun a => tvBad anyVal a.enable)
    ++ d.flt.src.map (fun x => tvBad clsOk x.cls) ++ d.flt.src.map fun x => tvBad anyVal x.force)

/-- What the scrubber finds on a furrow die: its ports' enables and HPEN states. -/
def Dev.dieVotes (d : Dev) (f : Fin 7) : Nat × Nat :=
  addPairs (((d.ports.toList.drop (16 * f.val)).take 16).flatMap fun p => [tvBad anyVal p.enable, tvBad anyVal p.hpen])

/-- Every field takes its majority. -/
def Dev.scrubbed (d : Dev) : Dev :=
  let src := d.flt.src.mapIdx fun id (x : Source) =>
    { x with cls := scrubTv (defaultClass id) clsOk x.cls, force := scrubTv 0 anyVal x.force }
  let d := { d with ports := vall (fun (p : Port) =>
    { p with enable := scrubTv 0 anyVal p.enable, hpen := scrubTv 0 anyVal p.hpen }) d.ports }
  let d := d.modSys fun x => { x with mode := scrubTv mBoot modeOk x.mode }
  let d := d.modOtp fun x => { x with feat := scrubTv 0 d.featOk x.feat, lock := scrubTv 0 anyVal x.lock }
  let d := d.modMot fun x =>
    { x with
      tax := vall (fun (t : Tax) => { t with enable := scrubTv 0 anyVal t.enable }) x.tax
      aux := vall (fun (a : Aux) => { a with enable := scrubTv 0 anyVal a.enable }) x.aux }
  d.modFlt fun x =>
    { x with
      src
      outClass := scrubTv 4 outClassOk x.outClass, gateDual := scrubTv 0 anyVal x.gateDual
      gateHigh := scrubTv 0 anyVal x.gateHigh, gateFilter := scrubTv 10 filterOk x.gateFilter
      estopFilter := scrubTv 10 filterOk x.estopFilter, gpioEnable := scrubTv 0 anyVal x.gpioEnable
      gpioHigh := scrubTv 0 anyVal x.gpioHigh }

/-- Corrections of a die are counted and raised, impossible values are raised. -/
def Dev.raiseVotes (d : Dev) (die : Fin 8) (v : Nat × Nat) : Dev :=
  let vote := if die = 0 then 0x006 else idDie (die.val - 1) oRegVote
  let ue := if die = 0 then 0x008 else idDie (die.val - 1) oMemUe
  let d := (List.range v.1).foldl (fun d _ =>
    (d.modMr fun x => { x with vote := vmod x.vote die satInc }).detect vote) d
  (List.range v.2).foldl (fun d _ => d.detect ue) d

/-- TV_SCRUB. -/
def Dev.tvScrub (d : Dev) : Dev :=
  if d.sys.held then d else
  let hub := d.hubVotes
  let dies := (fins 7).map fun f => (f, d.dieVotes f)
  dies.foldl (fun d x => d.raiseVotes ⟨x.1.val + 1, by omega⟩ x.2) (d.scrubbed.raiseVotes 0 hub)

/-- TV_SCRUB. -/
def execTvScrub (s : State) : Out := onDev (fun s => s.dev.tvScrub) s

/-! ## The patrol scrubber (R417, R418) -/

/-- A word is found with two bits in error. -/
def Dev.foundBad (d : Dev) (die : Fin 8) (bank : BitVec 4) (off : Nat) : Dev :=
  let w := (die.val, bank.toNat, off)
  (d.modMr fun x => { x with
    badWords := if x.badWords.contains w then x.badWords else x.badWords ++ [w]
    flipped := x.flipped.filter (· != w) }).memUe die bank off

/-- PATROL_SCRUB: a word of a bank is read. A word whose error the part holds is found so, whatever the read itself adds. -/
def Dev.patrol (d : Dev) (die : Fin 8) (bank : BitVec 4) (off : Nat) (r : EccResult) : Dev :=
  if d.sys.held || d.mode = mFallow || !d.dieHere die.val || bankBytes die.val bank.toNat ≤ off || off % 8 ≠ 0 then d
  else if d.mr.badWords.contains (die.val, bank.toNat, off) then d.foundBad die bank off
  else match r with
    | .clean => if d.mr.flipped.contains (die.val, bank.toNat, off) then d.correct (die.val, bank.toNat, off) else d
    | .corrected => d.correct (die.val, bank.toNat, off)
    | .uncorrectable => d.foundBad die bank off

/-- PATROL_SCRUB. -/
def execPatrolScrub (die : Fin 8) (bank : BitVec 4) (offset : Word) (r : EccResult) (s : State) : Out :=
  onDev (fun s => s.dev.patrol die bank offset.toNat r) s

/-! ## Tine links (R29, R31) -/

/-- A receiver has taken a flit: the sender's credit of that channel is free again, and what has waited longest for one
takes it at once (Table 7.1). -/
def Die.credit (x : Die) (toHub data : Bool) : Die :=
  match toHub, data with
  | false, true => { x.flip 5 with dataCredits := min 24 (x.dataCredits + 1) }
  | false, false =>
    if x.ctrlWait.isEmpty then { x.flip 7 with ctrlCredits := min 8 (x.ctrlCredits + 1) }
    else { (x.flip 7).flip 2 with ctrlWait := x.ctrlWait.drop 1 }
  | true, true =>
    if 0 < x.dataWaitUp then { (x.flip 1).flip 4 with dataWaitUp := x.dataWaitUp - 1 }
    else { x.flip 1 with dataCreditsUp := min 24 (x.dataCreditsUp + 1) }
  | true, false =>
    if x.ctrlWaitUp.isEmpty then { x.flip 3 with ctrlCreditsUp := min 8 (x.ctrlCreditsUp + 1) }
    else { (x.flip 3).flip 6 with ctrlWaitUp := x.ctrlWaitUp.drop 1 }

/-- An answer of a die that waited for a CTRL credit leaves for the hub. The reports among the messages have commands of
their own. -/
def Dev.answerUp (d : Dev) (f : Fin 7) : CtrlMsg → Dev
  | .commitAck => d.ackDie f
  | .commitLate ch => d.detect (idDiverge ch.val)
  | .presetAck ch => d.presetAcked ch f
  | .commit | .preset _ | .snapshot _ | .switchRecord _ | .slotFreed _ | .access => d

/-- The link of a present die is up. -/
def Dev.tineUp (d : Dev) (f : Fin 7) : Bool := !d.sys.held && d.hasDie f.val && d.dies[f].tine == 2

/-- TINE_FLIT: a flit is taken, or a bad code group fails the link. -/
def Dev.tineFlit (d : Dev) (f : Fin 7) (toHub data : Bool) (e : TineEvent) : Dev :=
  if !d.tineUp f then d else
  match e with
  | .flit =>
    let next := if toHub && !data then d.dies[f].ctrlWaitUp.head? else none
    next.toList.foldl (fun d m => d.answerUp f m) (d.modDie f fun x => x.credit toHub data)
  | .codeError => (d.modDie f fun x => { x with codeErrors := satTo 0xFFFF x.codeErrors }).tineFail f

/-- TINE_FLIT. -/
def execTineFlit (die : Fin 7) (toHub data : Bool) (e : TineEvent) (s : State) : Out :=
  onDev (fun s => s.dev.tineFlit die toHub data e) s

/-- TINE_ACK_TIMEOUT. -/
def execTineAckTimeout (die : Fin 7) (s : State) : Out :=
  onDev (fun s => if s.dev.tineUp die then s.dev.tineFail die else s.dev) s

/-! ## Links to the outside -/

/-- ETH_LINK, lost link of the management port. -/
abbrev idEthLink : Nat := 0x013

/-- SGMII_LINK_CHANGE: a loss raises ETH_LINK, its cause lasts until the link is back (Table 16.2, R443). -/
def Dev.sgmiiLink (d : Dev) (up : Bool) : Dev :=
  if d.sys.held || !d.linkOn (.udp 0 0) || d.eth.link = up then d else
  let d := d.modEth fun x => { x with link := up }
  if up then d.causeGone idEthLink else d.detect idEthLink

/-- SGMII_LINK_CHANGE. -/
def execSgmiiLinkChange (up : Bool) (s : State) : Out := onDev (fun s => s.dev.sgmiiLink up) s

/-- PCIE_LINK_CHANGE: speed 0 is a link that is down; outstanding host reads then fail (R241). -/
def Dev.pcieLink (d : Dev) (speed : BitVec 4) (width : BitVec 6) : Dev :=
  if !d.pcieUp then d else
  let d := d.modPci fun x => { x with speed, width := if speed = 0 then 0 else width, down := speed == 0 }
  if speed = 0 then d.hostLost else d

/-- PCIE_LINK_CHANGE. -/
def execPcieLinkChange (speed : BitVec 4) (width : BitVec 6) (s : State) : Out :=
  onDev (fun s => s.dev.pcieLink speed width) s

/-! ## Test multiplexers and TAP (R180, R412, R413, R444) -/

/-- TMX_SELECT: refused with ST_MODE once debug has been closed (R413). -/
def tmxSelectCmd (c : Ctx) : Chk (Dev × Finish) := do
  need c.d.otp.debugOpen stMode noField
  if h : pU c.ps 0 1 < 8 then
    let pin : Fin 8 := ⟨pU c.ps 0 1, h⟩
    needP (decide (pU c.ps 1 1 ≤ 7) && c.d.dieHere (pU c.ps 1 1)) 1
    needRange c.ps 2 2 0 4095
    return ({ c.d with tmx := {
      signal := c.d.tmx.signal.set pin (BitVec.ofNat 12 (pU c.ps 2 2))
      die := c.d.tmx.die.set pin (BitVec.ofNat 3 (pU c.ps 1 1))
      vendor := if c.x.role = rVendor then c.d.tmx.vendor ||| BitVec.ofNat 8 (2 ^ pin.val)
        else c.d.tmx.vendor &&& ~~~(BitVec.ofNat 8 (2 ^ pin.val)) } }, .ok [])
  else throw (stBadParam, 24)

/-- TMX_SELECT's row of Table 6.2: VENDOR, or SERVICE with the Debug attribute. -/
def specTmxSelect (d : Dev) : CmdSpec :=
  { opcode := 0xC0, variant := 0, modes := [mTest], role := fun x _ => d.entitled x, len := lenIs 4 }

/-- TMX_SELECT. -/
def execTmxSelect (p : Packet) (s : State) : Out := onDev (fun s => cmdDev (specTmxSelect s.dev) tmxSelectCmd p s) s

/-- Group 2 of the hub: pins and DIR of a channel as the hub holds them. -/
def EncCopy.tmx (c : EncCopy) (k : Nat) : Bool :=
  match k with
  | 0 => c.a
  | 1 => c.b
  | 2 => c.z
  | 3 => c.dir
  | _ => false

/-- A head port drives nothing at the moment: its pairs are at their idle levels (R62). -/
def Dev.headIdle (d : Dev) (gp : Nat) : Bool :=
  if h : gp < 112 then !d.ports[gp].firing && !d.pieceOn ⟨gp, h⟩ && d.ports[gp].scan.state == 0 else true

/-- The legs P and N of each of a head port's eight pairs, D0 to D3, CK, STB, FA and FB, while it is idle: low and high
(R62). -/
def Dev.headLegs (d : Dev) (gp : Nat) : Option (Bool × Bool) := if d.headIdle gp then some (false, true) else none

/-- The level a pin drives (R412, Table 17.10). Gates are low in TEST (Table 4.1). A level that no rule gives, and the lap
toggles, whose laps no row reports, are free values (log 2). -/
def Dev.tmxPin (d : Dev) (pin : Fin 8) : Bool :=
  let sel := d.tmx.signal[pin].toNat
  let die := d.tmx.die[pin].toNat
  let i := sel % 256
  let free := Config.tmxLevel (d.sys.now.toNat * 2 ^ 15 + die * 2 ^ 12 + sel)
  let toggled := d.tmx.high.contains (die * 4096 + sel)
  let cls := match d.flt.reaction with
    | some r => r.cls
    | none => 0
  if !d.tmxLive then false else
  match sel / 256 with
  | 0 => if i = 1 then true else if 2 ≤ i ∧ i ≤ 65 then d.sys.now.getLsbD (i - 2) else i == 66 && free
  | 1 => decide (i < 4) && free
  | 2 =>
    if die = 0 then
      decide (i < 32) && decide (i % 8 < 6) && (toggled || d.pos.enc.toList[i / 8]?.any fun (e : Enc) => (e.copies[0]).tmx (i % 8))
    else if i % 4 = 3 then toggled
    else decide (i < 64) && ((d.headLegs (16 * (die - 1) + i / 4)).map fun x => x.1).getD free
  | 3 => die != 0 && toggled
  | 4 =>
    if die = 0 then
      match i with
      | 0 => d.flt.asserted
      | 1 => d.flt.reaction.isSome
      | 2 => cls == 4
      | 3 => cls == 5
      | _ => false
    else decide (i < 16) && free
  | 5 =>
    if die = 0 then d.dies.toList[i / 4]?.any fun (x : Die) => x.hands.getLsbD (i % 4)
    else decide (i < 4) && d.dies.toList[die - 1]?.any fun (x : Die) => x.hands.getLsbD (4 + i)
  | _ => d.tmx.vendor.getLsbD pin.val && free

/-- JTAG_TAP_ACCESS: the instructions of IEEE 1149.1 run; any other is BYPASS, unless TEST and an entitled session
open the vendor's instructions, whose effect is not given (R413). -/
def execJtagTapAccess (op : JtagOp) (s : State) : Out :=
  match op with
  | .other _ =>
    if s.dev.tmxLive then .refused .vendorJtagInstruction
    else onDev (fun s => s.dev.emit (.jtag .bypass)) s
  | op => onDev (fun s => s.dev.emit (.jtag op)) s

end Sys2Proof.Machine
end

