-- ==== Sys2Proof/Machine/SessionCommands.lean ====
section
/-! DEFINITION. The session and event commands: OPEN_SESSION, CLOSE_SESSION, SESSION_INFO, GATE, EVENT_SUBSCRIBE,
EVENT_READ, EVENT_COUNTERS (R114 to R121, R134, R142, R143, R181, R182). -/

namespace Sys2Proof.Machine

/-! ## OPEN_SESSION -/

/-- The 16 bytes of the k-th device nonce: free, and never repeated (R115). -/
def entropy (k : Nat) : List Byte := leBytes 16 (Config.nonceOf (BitVec.ofNat 128 k)).toNat

/-- A session of any role, or none. -/
def anyRole : Session → List Byte → Bool := fun _ _ => true

/-- The transport address already carries a session or a provisional ID; only a queue pair is limited to one. -/
def Dev.qpTaken (d : Dev) (v : Via) : Bool :=
  viaPcie v && (d.ses.openS.any (fun (x : Session) => x.via == v) || d.ses.prov.any fun (x : Provisional) => x.via == v)

/-- Credits a challenge asks for: Entries − 1 on a queue pair, else the field, 16 for 0 (R122, Table 5.9). -/
def Dev.creditsFor (d : Dev) (v : Via) (asked : Nat) : Nat :=
  match v with
  | .pcie q => (d.ses.qp[q]).entries.toNat - 1
  | _ => if asked = 0 then 16 else asked

/-- The checks and effect of OPEN_SESSION variant 0. The role is judged at step 9, a slot that refuses the challenge at
execution (R106, R117). Over PCIe, where the Credits field is ignored, a value outside 0 to 64 is refused all the same
(DESIGN CHOICE, log 65). -/
def openChallenge (c : Ctx) : Chk (Dev × Finish) := do
  let ps := c.ps
  let d := c.d
  needRange ps 0 1 0 3
  needRange ps 1 1 0 7
  let role := pU ps 0 1
  let slot := pU ps 1 1
  needRange ps 2 1 0 1
  needRange ps 3 1 0 64
  c.needRoom 20 noField
  match d.ses.freeIds with
  | [] => throw (stBusy, noField)
  | id :: ids =>
    needFree (d.ses.prov.length < 32 && !d.qpTaken c.p.via)
    need (d.slotUsable c.s.rows slot && !d.ses.lockout.getLsbD slot) stAuthFail noField
    let nonce := entropy d.ses.nonces
    let v : Provisional := {
      id, role := BitVec.ofNat 2 role, slot := BitVec.ofNat 3 slot, via := c.p.via
      macRequired := pU ps 2 1 == 1 || viaUdp c.p.via, credits := d.creditsFor c.p.via (pU ps 3 1)
      hostNonce := ps.drop 4, deviceNonce := nonce }
    let d := d.modSes fun t => { t with freeIds := ids, prov := t.prov ++ [v], nonces := t.nonces + 1 }
    return (d, .ok (leBytes 2 id.toNat ++ leBytes 2 1000 ++ nonce))

/-- OPEN_SESSION variant 0's row of Table 6.2. -/
def specOpenChallenge : CmdSpec :=
  { opcode := 0x00, variant := 0, modes := setA, role := anyRole, len := lenIs 20
    named := fun s _ ps =>
      if pU ps 1 1 ≤ 7 && decide (slotMaxRole s.rows (pU ps 1 1) < pU ps 0 1) then some noField else none }

/-- OPEN_SESSION_CHALLENGE. -/
def execOpenSessionChallenge (p : Packet) (s : State) : Out := onDev (cmdDev specOpenChallenge openChallenge p) s

/-- M of R116. -/
def openMessage (v : Provisional) : List Byte :=
  v.deviceNonce ++ v.hostNonce ++ leBytes 2 v.id.toNat ++ leBytes 1 v.role.toNat

/-- A proof for a slot was wrong: eight within 10 s lock the slot (R117). The wrong proofs recorded for it are forgotten
when its lockout begins (DESIGN CHOICE, log 53). -/
def Dev.wrongProof (d : Dev) (slot : Nat) : Dev :=
  d.modSes fun t =>
    let recent := (t.wrongProofs ++ [(slot, d.sys.now)]).filter fun (x : Nat × DWord) =>
      x.1 != slot || decide ((d.sys.now - x.2).toNat < 1000000000)
    let n := (recent.filter fun (x : Nat × DWord) => x.1 == slot).length
    if 8 ≤ n then
      { t with
        wrongProofs := recent.filter fun (x : Nat × DWord) => x.1 != slot
        lockout := t.lockout ||| BitVec.ofNat 8 (2 ^ slot) }
    else { t with wrongProofs := recent }

/-- The checks and effect of OPEN_SESSION variant 1. A wrong proof frees the provisional ID (R117). -/
def openProof (c : Ctx) : Chk (Dev × Finish) := do
  match c.d.prov? c.p with
  | none => throw (stNoSession, noField)
  | some v =>
    need (replyFits c.p v.macRequired 36) stLengthExceeds noField
    let k := slotKey c.s.rows v.slot.toNat
    let m := openMessage v
    let d := c.d.modSes fun t => { t with prov := t.prov.filter fun (y : Provisional) => y.id != v.id }
    if c.ps.take 32 = hmacSha256 k (1 :: m) then
      let key := hmacSha256 k (3 :: m)
      let x : Session := { noSession c.p with
        id := v.id, role := v.role, slot := v.slot, key, macRequired := v.macRequired, credits := v.credits
        expectedSeq := 1, idleSeconds := d.ses.sesIdle, idleSince := d.sys.now }
      let d := d.modSes fun t => { t with openS := t.openS ++ [x] }
      let d := d.answer c.p stOk noField
        (hmacSha256 k (2 :: m) ++ leBytes 1 v.credits ++ leBytes 1 v.role.toNat ++ leBytes 2 x.idleSeconds)
      return (d.event evSession 1 v.id.toNat [BitVec.ofNat 8 v.role.toNat], .done)
    else
      let d := d.modSes fun t => { t with freeIds := t.freeIds ++ [v.id] }
      return (d.wrongProof v.slot.toNat, .status stAuthFail noField)

/-- OPEN_SESSION variant 1's row of Table 6.2. -/
def specOpenProof : CmdSpec := { opcode := 0x00, variant := 1, modes := setA, role := anyRole, len := lenIs 32 }

/-- OPEN_SESSION_PROOF. -/
def execOpenSessionProof (p : Packet) (s : State) : Out := onDev (cmdDev specOpenProof openProof p) s

/-! ## CLOSE_SESSION, SESSION_INFO, GATE -/

/-- CLOSE_SESSION: the reply is sent first (Table 5.12, cause 0). -/
def closeCmd (c : Ctx) : Chk (Dev × Finish) :=
  .ok ((c.d.answer c.p stOk noField []).closeSession c.x.id 0, .done)

/-- CLOSE_SESSION's row of Table 6.2. -/
def specClose : CmdSpec := { opcode := 0x01, variant := 0, modes := setA, role := atLeast rObserver, len := lenIs 0 }

/-- CLOSE_SESSION. -/
def execCloseSession (p : Packet) (s : State) : Out := onDev (cmdDev specClose closeCmd p) s

/-- Seconds left on a session's idle timer, a started second counting whole (Table 6.3). -/
def Dev.idleLeft (d : Dev) (x : Session) : Nat :=
  let used := if d.creditsUsed x = 0 && x.reservedResponse.isNone then (d.sys.now - x.idleSince).toNat else x.idleUsed.toNat
  min 3600 ((x.idleSeconds * 100000000 - used + 99999999) / 100000000)

/-- The reply of Table 6.3. -/
def Dev.sessionReply (d : Dev) (x : Session) : List Byte :=
  leBytes 2 x.id.toNat ++ leBytes 1 x.role.toNat ++ leBytes 1 x.slot.toNat ++ leBytes 1 (viaCode x.via)
    ++ leBytes 1 (bit x.macRequired) ++ leBytes 1 x.credits ++ leBytes 1 (x.credits - d.creditsUsed x)
    ++ leBytes 4 x.expectedSeq.toNat ++ leBytes 2 (d.idleLeft x) ++ [0, 0]

/-- SESSION_INFO: 0 names the sender's own session (R142). -/
def sessionInfoCmd (c : Ctx) : Chk (Dev × Finish) := do
  needRange c.ps 0 2 0 255
  let n := pU c.ps 0 2
  match c.d.session? (if n = 0 then c.x.id.toNat else n) with
  | none => throw (stBadParam, 24)
  | some x => return (c.d, .ok (c.d.sessionReply x))

/-- SESSION_INFO's row: OBSERVER for its own session, SERVICE for another (Table 6.2). -/
def specSessionInfo : CmdSpec := {
  opcode := 0x02, variant := 0, modes := setA, len := lenIs 2
  role := fun x ps => pU ps 0 2 == 0 || pU ps 0 2 == x.id.toNat || decide (rService ≤ x.role) }

/-- SESSION_INFO. -/
def execSessionInfo (p : Packet) (s : State) : Out := onDev (cmdDev specSessionInfo sessionInfoCmd p) s

/-- GATE variant 0 opens PF0's gate for the sender (R143); a session that has closed opens none (R121). -/
def gateOpenCmd (c : Ctx) : Chk (Dev × Finish) := do
  needFree (c.d.ses.gate == none || c.d.ses.gate == some c.x.id)
  return (c.d.modSes fun t =>
    { t with gate := if t.openS.any fun (y : Session) => y.id == c.x.id then some c.x.id else t.gate }, .ok [])

/-- GATE variant 0's row of Table 6.2. -/
def specGateOpen : CmdSpec := { opcode := 0x04, variant := 0, modes := setN, role := atLeast rService, len := lenIs 0 }

/-- GATE_OPEN. -/
def execGateOpen (p : Packet) (s : State) : Out := onDev (cmdDev specGateOpen gateOpenCmd p) s

/-- GATE variant 1 closes it, for the session that holds it (R143). -/
def gateCloseCmd (c : Ctx) : Chk (Dev × Finish) := do
  needFree (c.d.ses.gate == some c.x.id)
  return (c.d.modSes fun t => { t with gate := none }, .ok [])

/-- GATE variant 1's row of Table 6.2. -/
def specGateClose : CmdSpec := { opcode := 0x04, variant := 1, modes := setN, role := atLeast rService, len := lenIs 0 }

/-- GATE_CLOSE. -/
def execGateClose (p : Packet) (s : State) : Out := onDev (cmdDev specGateClose gateCloseCmd p) s

/-! ## Events -/

/-- The 16 EVENT_SEQ values (R181). -/
def Dev.seqBytes (d : Dev) : List Byte := d.ev.seq.toList.flatMap fun v => leBytes 4 v.toNat

/-- A session no longer waits for ring entries outside its classes; counters become records in the room that gives. -/
def Dev.unread (d : Dev) (id : BitVec 8) (keep : Nat → Bool) : Dev :=
  let f := fun (e : RingEntry) =>
    if keep e.record.cls then e else { e with readers := e.readers.filter (· != id) }
  (d.modRing (List.map f)).freeEntries.checkOvf

/-- EVENT_SUBSCRIBE replaces the session's subscription (R181). A subscription that ends, with Classes 0, takes with it the
count of records lost: R135 speaks of the next read of a subscriber (DESIGN CHOICE, log 67). -/
def eventSubscribeCmd (c : Ctx) : Chk (Dev × Finish) := do
  let cls := pU c.ps 0 2
  let port := pU c.ps 2 2
  needP (!getB 14 cls) 0
  needP (port == 0 || 1024 ≤ port) 2
  let d := c.d.modSession c.x.id fun (x : Session) =>
    { x with subs := BitVec.ofNat 16 cls, subPort := BitVec.ofNat 16 port, lost := if cls = 0 then 0 else x.lost }
  let d := d.unread c.x.id fun k => getB k cls
  return (d, .ok d.seqBytes)

/-- EVENT_SUBSCRIBE's row of Table 6.2. -/
def specEventSubscribe : CmdSpec :=
  { opcode := 0xE0, variant := 0, modes := setA, role := atLeast rObserver, len := lenIs 4 }

/-- EVENT_SUBSCRIBE. -/
def execEventSubscribe (p : Packet) (s : State) : Out := onDev (cmdDev specEventSubscribe eventSubscribeCmd p) s

/-- EVENT_READ: the oldest unread records of the session, at most MaxRecords, behind a STREAM record that gives the
number lost when records were lost (R135, R182). The STREAM record is an occurrence of its class (log 13). -/
def eventReadCmd (c : Ctx) : Chk (Dev × Finish) := do
  needRange c.ps 0 2 1 126
  let n := pU c.ps 0 2
  c.needRoom (4 + 32 * n) 24
  let x := c.x
  let lost := if x.lost = 0 then [] else
    [({ cls := 15, kind := 0, source := BitVec.ofNat 16 x.id.toNat, classSeq := c.d.ev.seq[15] + 1, ts := c.d.sys.now
        count := x.lost, data := eventData [] } : EventRecord)]
  let d := if x.lost = 0 then c.d else c.d.countEvent evStream
  let mine := (d.ev.ring.filter fun (e : RingEntry) => e.readers.contains x.id).take (n - lost.length)
  let f := fun (e : RingEntry) =>
    if mine.contains e then { e with readers := e.readers.filter (· != x.id) } else e
  let d := d.modRing (List.map f)
  let d := d.modSession x.id fun (y : Session) => { y with lost := 0 }
  return (d.freeEntries.checkOvf, .ok (eventParams (lost ++ mine.map fun e => e.record)))

/-- EVENT_READ's row of Table 6.2. -/
def specEventRead : CmdSpec := { opcode := 0xE1, variant := 0, modes := setA, role := atLeast rObserver, len := lenIs 2 }

/-- EVENT_READ. -/
def execEventRead (p : Packet) (s : State) : Out := onDev (cmdDev specEventRead eventReadCmd p) s

/-- EVENT_COUNTERS's row of Table 6.2. -/
def specEventCounters : CmdSpec :=
  { opcode := 0xE2, variant := 0, modes := setA, role := atLeast rObserver, len := lenIs 0 }

/-- EVENT_COUNTERS: the 16 EVENT_SEQ values (R181). -/
def execEventCounters (p : Packet) (s : State) : Out :=
  onDev (cmdDev specEventCounters (fun c => .ok (c.d, .ok c.d.seqBytes)) p) s

end Sys2Proof.Machine
end

