-- ==== Sys2Proof/Machine/Modes.lean ====
section
/-! DEFINITION. SET_MODE, RESET, the control-plane restart and FALLOW (R78 to R80, R88, R92 to R101, R144, R145). -/

namespace Sys2Proof.Machine

/-! ## SET_MODE -/

/-- SET_MODE takes its place among the mode changes (R80, R144). -/
def setModeCmd (c : Ctx) : Chk (Dev × Finish) := do
  let m := pU c.ps 0 1
  needP ((decide (2 ≤ m) && decide (m ≤ 5)) || m == 7) 0
  c.needRoom 1 noField
  return (c.d, .park .modeWait)

/-- SET_MODE's row of Table 6.2; its role is judged with the transition (Table 4.2). -/
def specSetMode : CmdSpec := { opcode := 0x10, variant := 0, modes := setO, role := anyRole, len := lenIs 1 }

/-- SET_MODE. -/
def execSetMode (p : Packet) (s : State) : Out :=
  onDev (fun s => let d := cmdDev specSetMode setModeCmd p s; d.nextMode d.ses.work.length) s

/-! ## Starts by command -/

/-- A transport or auxiliary axis is enabled. -/
def Dev.axisOn (d : Dev) : Bool := (fins 4).any (fun n => d.mot.tax[n].on) || (fins 8).any fun n => d.mot.aux[n].on

/-- RESET variant 0: the reply, then a warm start is due (R90); requests to the OTP controller are discarded (R404). -/
def resetWarmCmd (c : Ctx) : Chk (Dev × Finish) := do
  needFree (!c.d.axisOn)
  let d := c.d.answer c.p stOk noField []
  let d := d.modSes fun t => { t with running := false }
  return (((d.modOtp fun x => { x with queue := [] }).modSys fun x => { x with warmDue := true }), .done)

/-- RESET's rows of Table 6.2. -/
def specReset (v : Byte) (modes : List (BitVec 4)) (role : BitVec 2) (n : Nat) : CmdSpec :=
  { opcode := 0x11, variant := v, modes, role := atLeast role, len := lenIs n }

/-- RESET_WARM. -/
def execResetWarm (p : Packet) (s : State) : Out :=
  onDev (cmdDev (specReset 0 [mReady, mHalted] rService 0) resetWarmCmd p) s

/-- A set-point of AUX_PROFILE. -/
def AuxCmd.isProfile : AuxCmd → Bool
  | .profile _ _ _ => true
  | _ => false

/-- A request that a restart finds with no row yet at a line boundary has been taken by nobody, and is given up. A change of
mode, a job's end and a reset that a row has taken run to their end; so does all that its block has in hand: a die's reset, a
preset, a change of a channel's mode (R16, R93, Table 1.3a; DESIGN CHOICE, log 58). -/
def Dev.withdraw (d : Dev) (e : WorkEntry) : Dev :=
  let held := fun (d : Dev) (ps : List (Fin 112)) => ps.all fun gp => d.ports[gp].rowIds.all fun k => (d.ports[gp].row k).firing
  match e.park with
  | some (.modeChange _ _) => if d.sys.taken then d else d.modSys fun x => { x with changing := false }
  | some (.jobEnd j) =>
    (fins 16).foldl (fun d s =>
      if d.swaths[s].state = 2 && d.swaths[s].job == j && held d (d.swathPorts s) then
        d.modSwath s fun w => { w with endAtBoundary := false } else d) d
  | some (.unitReset u) =>
    if held d (d.unitPorts u) then (d.unitPorts u).foldl (fun d gp => d.modPort gp fun p => { p with resetting := false }) d
    else d.modSys fun x => { x with resets := x.resets ++ [u] }
  | some .profile =>
    d.modAux (Fin.ofNat 8 (pU (pktParams e.packet) 0 1)) fun a => { a with queue := a.queue.filter fun c => !c.isProfile }
  | _ => d

/-- A control-plane restart: every work-queue entry is answered ST_RESTARTED, intake goes on (Table 4.8). -/
def Dev.cpRestart (d : Dev) : Dev :=
  let work := d.ses.work
  let d := work.foldl Dev.withdraw d
  let d := d.modPos fun p => { p with enc := vall (fun (e : Enc) =>
    { e with presets := e.presets.map fun x => { x with silent := true } }) p.enc }
  let d := work.foldl (fun d (e : WorkEntry) => d.answer e.packet stRestarted noField []) d
  d.modSys fun x => { x with cpRestarts := satTo 255 x.cpRestarts }

/-- RESET variant 1: the reply, then the restart. -/
def resetCpCmd (c : Ctx) : Chk (Dev × Finish) := .ok ((c.d.answer c.p stOk noField []).cpRestart, .done)

/-- RESET_CONTROL_PLANE. -/
def execResetControlPlane (p : Packet) (s : State) : Out := onDev (cmdDev (specReset 1 setN rService 0) resetCpCmd p) s

/-- The command processor runs. -/
def Dev.cpRuns (d : Dev) : Bool := d.intakeOpen && d.mode != mFallow

/-- CP_WDOG: the watchdog expires (R92). -/
def execCpWdog (s : State) : Out :=
  onDev (fun s => if s.dev.cpRuns then (s.dev.detect 0x003).cpRestart else s.dev) s

/-- CP_FAIL (R94). -/
def execCpFail (s : State) : Out := onDev (fun s => if s.dev.cpRuns then s.dev.detect 0x004 else s.dev) s

/-! ## Unit resets (R96 to R98, R145) -/

/-- The reset of a port or of a swath: answered once the lines its ports fire have ended (Table 4.10, R145). -/
def Dev.resetUnit (d : Dev) (u : FaultUnit) : Dev × Finish :=
  let d := d.beginReset u
  if d.unitStill u then (d.endReset u, .ok []) else (d, .park (.unitReset u))

/-- RESET variant 2. -/
def resetPortCmd (c : Ctx) : Chk (Dev × Finish) := do
  needRange c.ps 0 2 0 111
  needP (c.d.hasPort (pU c.ps 0 2)) 0
  let gp := Fin.ofNat 112 (pU c.ps 0 2)
  needFree (!c.d.dieResetting gp)
  return c.d.resetUnit (.port gp)

/-- RESET_PORT. -/
def execResetPort (p : Packet) (s : State) : Out := onDev (cmdDev (specReset 2 setO rOperator 2) resetPortCmd p) s

/-- RESET variant 3. -/
def resetSwathCmd (c : Ctx) : Chk (Dev × Finish) := do
  needRange c.ps 0 2 0 15
  let s := Fin.ofNat 16 (pU c.ps 0 2)
  needFree (!(c.d.swathPorts s).any fun gp => c.d.dieResetting gp)
  return c.d.resetUnit (.swath s)

/-- RESET_SWATH. -/
def execResetSwath (p : Packet) (s : State) : Out := onDev (cmdDev (specReset 3 setO rOperator 2) resetSwathCmd p) s

/-- RESET variant 4. -/
def resetTaxCmd (c : Ctx) : Chk (Dev × Finish) := do
  needRange c.ps 0 2 0 3
  needP c.d.hasTax 0
  let n := Fin.ofNat 4 (pU c.ps 0 2)
  return ((c.d.taxDisable n).leaveContain (.transport n), .ok [])

/-- RESET_TRANSPORT_AXIS. -/
def execResetTransportAxis (p : Packet) (s : State) : Out :=
  onDev (cmdDev (specReset 4 setO rOperator 2) resetTaxCmd p) s

/-- RESET variant 5. -/
def resetAuxCmd (c : Ctx) : Chk (Dev × Finish) := do
  needRange c.ps 0 2 0 7
  needP c.d.hasAux 0
  let n := Fin.ofNat 8 (pU c.ps 0 2)
  return (((c.d.auxOff n).dropAux n).leaveContain (.aux n), .ok [])

/-- RESET_AUXILIARY_AXIS. -/
def execResetAuxiliaryAxis (p : Packet) (s : State) : Out :=
  onDev (cmdDev (specReset 5 setO rOperator 2) resetAuxCmd p) s

/-- RESET variant 6: the reply to the session's own reset is sent before it closes. -/
def resetSessionCmd (c : Ctx) : Chk (Dev × Finish) := do
  needRange c.ps 0 2 1 255
  let n := pU c.ps 0 2
  match c.d.session? n with
  | none => throw (stBadParam, 24)
  | some x =>
    if n = c.x.id.toNat then return ((c.d.answer c.p stOk noField []).closeSession x.id 1, .done)
    else return (c.d.closeSession x.id 1, .ok [])

/-- RESET variant 6's row of Table 6.2: OPERATOR for its own session, SERVICE for another (Table 4.10). -/
def specResetSession : CmdSpec := {
  opcode := 0x11, variant := 6, modes := setO, len := lenIs 2
  role := fun x ps => if pU ps 0 2 = x.id.toNat then decide (rOperator ≤ x.role) else decide (rService ≤ x.role) }

/-- RESET_SESSION. -/
def execResetSession (p : Packet) (s : State) : Out := onDev (cmdDev specResetSession resetSessionCmd p) s

/-- The link to a die is trained again: its credits are whole, its failure is over (R29, R31). A preset on its way to the
die is waited for no longer, for its copies take the hub's counts. -/
def Dev.retrain (d : Dev) (f : Fin 7) : Dev :=
  let d := (fins 4).foldl (fun d ch => d.presetLost ch f) d
  (d.modDie f fun x =>
    { x.freshPools with tine := 2, retrains := satTo 0xFFFF x.retrains }).causeGone (idDie f.val oTineLink)

/-- A die's copies start over and are brought into agreement (R97). -/
def Dev.resyncDie (d : Dev) (f : Fin 7) : Dev :=
  (fins 4).foldl (fun d ch => d.modCopy ch (copyOf f) fun c => c.zeroed d.sys.now true (d.pos.enc[ch].cfg.mode == 4) (d.pos.enc[ch].cfg.mode != 0)) d

/-- RESET variant 7: answered once the lines its ports fire have ended and the die's copies agree with the hub's. -/
def resetDieCmd (c : Ctx) : Chk (Dev × Finish) := do
  needRange c.ps 0 2 0 6
  needP (c.d.hasDie (pU c.ps 0 2)) 0
  let f := Fin.ofNat 7 (pU c.ps 0 2)
  needFree (!c.d.dies[f].resetting)
  let d := (c.d.modDie f fun x => { x with resetting := true }).beginReset (.die f)
  let d := (d.retrain f).resyncDie f
  if d.dieSyncing f || !d.unitStill (.die f) then return (d, .park (.dieReset f)) else return (d.dieDone f, .ok [])

/-- RESET_FURROW_DIE. -/
def execResetFurrowDie (p : Packet) (s : State) : Out := onDev (cmdDev (specReset 7 setO rService 2) resetDieCmd p) s

/-! ## FALLOW (R99 to R101) -/

/-- Bytes of a line-buffer window, cleared or lost at the starts of Table 4.9. -/
def isLineByte (a : Nat) : Bool := 2 ^ 24 ≤ a && 0x100000 ≤ a % 2 ^ 24 && a % 2 ^ 24 < 0xB00000

/-- Words in error of the banks that are kept (Table 18.1): the scratchpad, the nozzle-map and the set memory. -/
def keptWord (w : Nat × Nat × Nat) : Bool :=
  if w.1 = 0 then w.2.1 == 0 || w.2.1 == 3 || w.2.1 == 4 else w.2.1 == 1 || w.2.1 == 2

/-- Everything queued is gone: work, buffers, descriptors, lines, posted writes, what the Tine links hold (Table 18.1). -/
def Dev.emptyQueues (d : Dev) : Dev :=
  let d := d.modSes fun t =>
    { t with ethRx := [], spiRx := [], spiOut := [], waiting := [], work := [], prov := [], spiLastDropped := false }
  let d := d.modEv fun e => { e with ring := [], counters := [] }
  let d := { d with ports := vall (fun (p : Port) =>
    { p with
      rowA := { p.rowA with queue := [], firing := false, busyUntil := none }
      rowB := { p.rowB with queue := [], firing := false, busyUntil := none }
      slots := [], piece := none, resetting := false }) d.ports }
  let d := { d with dies := vall Die.freshPools d.dies }
  d.modMr fun x => { x with posted := [], latches := [], badWords := x.badWords.filter keptWord, flipped := x.flipped.filter keptWord }

/-- A channel with nothing to do: State 0, numbers from 0; the configuration stays (Table 4.9). -/
def Channel.restart (c : Channel) : Channel :=
  if c.state = 3 then {} else
  { swathFeed := c.swathFeed, retryMax := c.retryMax, swath := c.swath, vector := c.vector, state := 0 }

/-- The conditions of R99 beside mode and role; a port counts as firing keep-warm by R290. -/
def Dev.mayFallow (d : Dev) : Bool :=
  d.armed.isNone && !d.axisOn && (fins 112).all (fun gp => !(d.ports[gp].on && d.ports[gp].heat.keepWarm))
    && (fins 32).all fun c => d.dma.ch[c].stateSeen != 1

/-- Entry, after the reply: sessions close, posted writes take effect, registers are saved, channels leave State 2 (R377), line
buffers and queues are lost (Table 4.9). -/
def Dev.fallow (rows : OtpRows) (d : Dev) (m : Banks) : Dev × Banks :=
  let d := d.closeAll (fun _ => true) 6
  let r := settle rows (fun _ => true) d m
  let d := (fins 32).foldl (fun d c => if d.dma.ch[c].state = 2 then d.causeGone (idDmaErr c.val) else d) r.1
  let d := d.emptyQueues
  let d := { d with dma := { d.dma with ch := vall (fun (c : Channel) =>
    { c.discard with state := if c.state = 3 then 3 else 0 }) d.dma.ch } }
  let d := d.modOtp fun x => { x with queue := [] }
  let d := d.modPci fun x => { x with power := if d.pcieUp then 1 else 0 }
  let d := { d with mot := { d.mot with aux := vall (fun (a : Aux) => { a with posValid := false }) d.mot.aux } }
  (d.enterMode mFallow, r.2.clear isLineByte)

/-- ENTER_FALLOW (R99). -/
def enterFallowCmd (c : Ctx) : Chk (Dev × Banks × Finish) := do
  needFree c.d.mayFallow
  let d := c.d.answer c.p stOk noField []
  let r := d.fallow c.s.rows c.s.mem
  return (r.1, r.2, .done)

/-- ENTER_FALLOW's row of Table 6.2. -/
def specEnterFallow : CmdSpec :=
  { opcode := 0xD0, variant := 0, modes := [mReady], role := atLeast rOperator, len := lenIs 0 }

/-- ENTER_FALLOW. -/
def execEnterFallow (p : Packet) (s : State) : Out := onMem (cmdMem specEnterFallow enterFallowCmd p) s

/-- FALLOW_WAKE: WAKE ball, PCIe, Ethernet or SPI, each where it is strapped on (Tables 2.5, 4.4, R100). -/
def execFallowWake (source : BitVec 4) (s : State) : Out :=
  onDev (fun s =>
    let on := match source.toNat with
      | 1 | 4 => true
      | 2 => s.dev.linkOn (.pcie 0)
      | 3 => s.dev.linkOn (.udp 0 0)
      | _ => false
    if s.dev.sys.held || !on then s.dev else s.dev.wakeFrom source true) s

end Sys2Proof.Machine
end

