-- ==== Sys2Proof/Machine/Starts.lean ====
section
/-! DEFINITION. Cold and warm starts, the resets of the PCIe functions, lost references and pace (R24 to R26, R53, R54,
R58, R82 to R91, R95, R405 to R408, R443). -/

namespace Sys2Proof.Machine

/-! ## Held in reset -/

/-- A copy at reset: what the balls show stands. -/
def EncCopy.pins (c : EncCopy) : EncCopy :=
  { ({} : EncCopy) with a := c.a, b := c.b, z := c.z, cosHigh := c.cosHigh, sinHigh := c.sinHigh }

/-- The part is held in reset: every field at its reset value but what stands outside the part or is never repeated:
the references, PE_PERST_N and WRST_N, the levels of the encoder pins, the free values used (R53, R54). -/
def Dev.holdReset (d : Dev) (porstN : Bool) : Dev :=
  let cut := (fins 112).filter fun gp => d.ports[gp].firing || d.ports[gp].piece.isSome
  let d := cut.foldl (fun d (gp : Fin 112) => d.emit (.held gp.val)) d
  let on := (fins 112).filter d.hpenPin
  let d := on.foldl (fun d (gp : Fin 112) => d.emit (.hpen gp.val false)) d
  let r := Dev.reset
  { r with
    sys := { r.sys with porstN, wrstN := d.sys.wrstN, refLost := d.sys.refLost, fresh := d.sys.fresh }
    ses := { r.ses with nonces := d.ses.nonces }
    pci := { r.pci with perst := d.pci.perst }
    pos := { r.pos with enc := vall (fun (e : Enc) =>
      { ({} : Enc) with copies := vall EncCopy.pins e.copies }) d.pos.enc }
    sent := d.sent }

/-- PORST_N_FALL. -/
def execPorstNFall (s : State) : Out := onDev (fun s => s.dev.holdReset false) s

/-- RAIL_BELOW_THRESHOLD: as though PORST_N had fallen, the ball itself stays as it is. -/
def execRailBelowThreshold (s : State) : Out := onDev (fun s => s.dev.holdReset s.dev.sys.porstN) s

/-! ## Steps 2 and 3: OTP and features -/

/-- Every failing region raises OTP_INTEGRITY with its code (R405). -/
def Dev.raiseIntegrity (d : Dev) (fails : BitVec 6) : Dev :=
  (List.range 6).foldl (fun d k => if fails.getLsbD k then d.detectInfo 0x00A (some k) else d) d

/-- The full read at both margins (R393): marginal rows, CONTROL, the slots' attributes. -/
def Dev.otpReadAll (d : Dev) (rows : OtpRows) : Dev :=
  let marginal := rows.filter fun (x : Nat × OtpRow) => x.2.marginal != 0
  let d := marginal.foldl (fun d x => d.foundMarginal x.1) d
  d.modOtp fun x => { x with control := otpControl rows, slotDebug := otpSlotDebug rows }

/-- The full read of a cold start, and its checks, whose results stand until the next (R405, R411). -/
def Dev.otpFullRead (d : Dev) (rows : OtpRows) : Dev :=
  let d := d.otpReadAll rows
  let fails := otpFailures rows d.sys.packageP65
  let d := d.modOtp fun x =>
    { x with integ := fails, sealedR := otpSeals rows, debugOpen := otpDebugOpen rows fails }
  d.raiseIntegrity fails

/-- A row of OEM_CONFIG as the fields are taken from it: 0 when the region has failed. -/
def oemRow (rows : OtpRows) (fails : BitVec 6) (k : Nat) : Nat :=
  if fails.getLsbD 4 then 0 else (otpRead rows (192 + k)).ones.toNat

/-- HEAD_PWR_WAIT in ms (Table 17.8, R83). -/
def headWait (rows : OtpRows) (fails : BitVec 6) : Nat :=
  if fails.getLsbD 4 then 220
  else if getB 8 (oemRow rows fails 0) then min 220 (getF 0 8 (oemRow rows fails 0)) else 200

/-- MacAddr; where it is not valid, 0x02 and bytes 4 to 0 of DeviceId (Table 17.8). -/
def macOf (row deviceId : Nat) : BitVec 48 :=
  if getB 48 row then BitVec.ofNat 48 (getF 0 48 row)
  else BitVec.ofNat 48 (0x02 + (List.range 5).foldl (fun n i => n + getF (32 - 8 * i) 8 deviceId * 2 ^ (8 * (i + 1))) 0)

/-- The address the port takes from OEM_CONFIG, if it holds one (R443). -/
def Dev.loadNet (d : Dev) : Dev :=
  d.modEth fun e => match d.otp.netShadow with
    | some (ip, n) =>
      { e with ip, prefixLen := if 1 ≤ n.toNat ∧ n.toNat ≤ 30 then n else 24, valid := true, fromOtp := true }
    | none => { e with ip := 0, prefixLen := 0, valid := false, fromOtp := false }

/-- Feature application, trims, boot locks and OEM fields, with the defaults of the regions that fail (R5, R64, R399,
R405 to R408). Locks once set stay set. -/
def Dev.applyFeatures (d : Dev) (rows : OtpRows) (fails : BitVec 6) : Dev :=
  let id := if fails.getLsbD 0 then 0 else otpTrim rows 10
  let net := oemRow rows fails 1
  let d := d.modOtp fun x =>
    { x with
      feat := Tv.mk3 (if fails.getLsbD 1 then 0 else (otpFeature rows 0).setWidth 9)
      lock := Tv.mk3 (x.lock.val ||| otpBootLocks x.control), deviceId := id, patchKeyOk := !fails.getLsbD 0
      trims := if fails.getLsbD 0 then [] else (List.range 32).map (otpTrim rows)
      headPwrWait := headWait rows fails, coldScan := getB 9 (oemRow rows fails 0)
      netShadow := if getB 38 net then some (BitVec.ofNat 32 net, BitVec.ofNat 6 (getF 32 6 net)) else none }
  (d.modEth fun e => { e with mac := macOf (oemRow rows fails 2) id.toNat }).loadNet

/-- Patch verification; a rejected patch leaves the ROM alone (R85). -/
def Dev.takePatch (d : Dev) (patch : Option (BitVec 16)) (rejected : Bool) : Dev :=
  let bad := rejected || (patch.isSome && !d.otp.patchKeyOk)
  let d := d.modSys fun x => { x with patchLevel := if bad then 0 else patch.getD 0 }
  if bad then d.detect 0x005 else d

/-! ## Cold start (Table 4.5) -/

/-- Step of BOOT in progress. -/
def Dev.atStep (d : Dev) (n : BitVec 4) : Dev := d.modSys fun x => { x with bootStep := n }

/-- Furrow dies of a list that the variant holds. -/
def Dev.furrowsOf (d : Dev) (l : List (Fin 8)) : List (Fin 7) := (l.filterMap furrowOf).eraseDups.filter fun f => d.hasDie f.val

/-- Step 7 begins: HPEN rises at every present port whose die has not been contained (R83, R85). -/
def Dev.headPower (d : Dev) : Dev :=
  let on := (fins 112).filter fun gp => d.hasPort gp.val && !d.portContained gp
  (on.foldl (fun d gp => d.setHpen gp true) d).atStep 7

/-- Steps 4 to 7. A failed bank of the hub holds BOOT at step 4 (R85). -/
def Dev.coldFrom4 (d : Dev) (c : ColdStart) : Dev :=
  let d := d.atStep 4
  if c.bistFail.contains 0 then d.modSys fun x => { x with bootFail := 4 }
  else
    let d := (d.furrowsOf c.bistFail).foldl (fun d f => d.detect (idDie f.val oBist)) d
    let d := (d.atStep 5).modSys fun x => { x with cache0 := if getB 8 d.feat then c.cache0 else 0
                                                   cache1 := if getB 8 d.feat then c.cache1 else 0 }
    let d := ((fins 7).filter fun f => d.hasDie f.val).foldl (fun d f => d.modDie f fun x => { x with tine := 2 }) d
    let d := (d.furrowsOf c.tineFail).foldl Dev.tineFail d
    let d := ((d.atStep 6).modSes fun t => { t with running := true }).takePatch c.patch c.patchRejected
    d.headPower

/-- Steps 2 to 7: BIST leaves every bank at its reset contents (R84, R416). -/
def Dev.coldFrom2 (d : Dev) (rows : OtpRows) (c : ColdStart) : Dev :=
  let d := (d.atStep 2).otpFullRead rows
  ((d.atStep 3).applyFeatures rows d.otp.integ).coldFrom4 c

/-- FT_REF_LOSS and TS_REF_LOSS. -/
def idRef (ft : Bool) : Nat := if ft then 0x001 else 0x002

/-- Bit of RefFail and of the lost references. -/
def refBit (ft : Bool) : BitVec 2 := if ft then 1 else 2

/-- Step 1 with a reference lost: BOOT is held (R58). -/
def Dev.holdStep1 (d : Dev) : Dev :=
  let d := d.modSys fun x => { x with bootFail := 1, refFail := x.refFail ||| x.refLost }
  let d := if d.sys.refLost.getLsbD 0 then d.detect 0x001 else d
  if d.sys.refLost.getLsbD 1 then d.detect 0x002 else d

/-- The cold start from the sampling of the straps on. -/
def Dev.coldStart (d : Dev) (rows : OtpRows) (c : ColdStart) : Dev :=
  let d := d.modSys fun x =>
    { x with
      held := false, porstN := true, mgmtSec := c.mgmtSec, hostIf := c.hostIf, packageP65 := c.packageP65
      supplyOrder := c.orderBroken, coldArgs := some c }
  let d := d.modSes fun t => { t with epoch := c.epoch }
  let d := (d.enterMode mBoot).atStep 1
  if d.sys.refLost = 0 then (d.modSys fun x => { x with coldArgs := none }).coldFrom2 rows c else d.holdStep1

/-- COLD_START: PORST_N rises. -/
def execColdStart (c : ColdStart) (s : State) : Out :=
  onMem (fun s => if s.dev.sys.held && !s.dev.sys.porstN then (s.dev.coldStart s.rows c, {}) else (s.dev, s.mem)) s

/-- RAILS_IN_RANGE: the rails return while PORST_N is high. -/
def execRailsInRange (c : ColdStart) (s : State) : Out :=
  onMem (fun s => if s.dev.sys.held && s.dev.sys.porstN then (s.dev.coldStart s.rows c, {}) else (s.dev, s.mem)) s

/-- A port's ID has been read, or the port is empty and its HPEN falls (R83). -/
def Dev.readId (d : Dev) (ids : List (Fin 112 × DWord)) (gp : Fin 112) : Dev :=
  match ids.find? fun (x : Fin 112 × DWord) => x.1 == gp with
  | some x => d.modPort gp fun p => { p with headValid := true, headId := x.2, idVerified := true }
  | none =>
    let d := (d.setHpen gp false).modPort gp fun p =>
      { p with headValid := false, idVerified := true, enable := Tv.mk3 0 }
    d.event evPort 4 gp.val (le4 d.ports[gp].lineNow.toNat)

/-- The ports whose HPEN is on are read. -/
def Dev.readIds (d : Dev) (ids : List (Fin 112 × DWord)) : Dev :=
  ((fins 112).filter fun gp => d.ports[gp].powered).foldl (fun d gp => d.readId ids gp) d

/-- Elements a scan at step 8 measures: the head's own count, else the most a port has (R292). -/
def scanLimit (id : DWord) : Nat := let n := getF 0 16 id.toNat; if n = 0 ∨ 10240 < n then 10240 else n

/-- Step 8, when COLD_SCAN is 1, and step 9 (R84). -/
def Dev.coldScan (d : Dev) : Dev :=
  if d.otp.coldScan then
    let d := d.modSys fun x => { x with coldScan := true }
    (((fins 112).filter fun gp => d.ports[gp].powered && d.ports[gp].headValid).foldl
      (fun d gp => d.beginScan 1 (scanLimit d.ports[gp].headId) true gp) d).toReady
  else d.toReady

/-- HEAD_PWR_WAIT: the wait of step 7 ends. -/
def Dev.headPwrWait (d : Dev) (ids : List (Fin 112 × DWord)) : Dev :=
  if d.sys.held || d.mode ≠ mBoot || d.sys.bootStep ≠ 7 || d.halting then d
  else ((d.readIds ids).atStep 8).coldScan

/-- HEAD_PWR_WAIT. -/
def execHeadPwrWait (ids : List (Fin 112 × DWord)) (s : State) : Out := onDev (fun s => s.dev.headPwrWait ids) s

/-! ## References (R58) -/

/-- REFERENCE_LOSS. -/
def Dev.refLoss (d : Dev) (ft : Bool) : Dev :=
  let was := d.sys.refLost &&& refBit ft
  let d := d.modSys fun x => { x with refLost := x.refLost ||| refBit ft }
  if d.sys.held || was ≠ 0 then d
  else
    let d := if d.sys.coldArgs.isSome then
        d.modSys fun x => { x with bootFail := 1, refFail := x.refFail ||| refBit ft }
      else d
    d.detect (idRef ft)

/-- REFERENCE_LOSS. -/
def execReferenceLoss (ft : Bool) (s : State) : Out := onDev (fun s => s.dev.refLoss ft) s

/-- The reference is back; a start held at step 1 goes on once both are, unless a reaction ends it (R384). -/
def Dev.refBack (d : Dev) (m : Banks) (rows : OtpRows) (ft : Bool) : Dev × Banks :=
  let d := (d.modSys fun x => { x with refLost := x.refLost &&& ~~~(refBit ft) }).causeGone (idRef ft)
  match d.sys.coldArgs with
  | some c =>
    if d.sys.refLost = 0 && !d.halting then
      ((d.modSys fun x => { x with bootFail := 0, coldArgs := none }).coldFrom2 rows c, {})
    else (d, m)
  | none => (d, m)

/-- REFERENCE_RESTORED. -/
def execReferenceRestored (ft : Bool) (s : State) : Out := onMem (fun s => s.dev.refBack s.mem s.rows ft) s

/-! ## Warm start (R89 to R91, Tables 4.7, 4.9) -/

/-- BOOT of a cold start. -/
def Dev.coldBoot (d : Dev) : Bool := d.mode = mBoot && !d.sys.warm

/-- Scans in progress are discarded, without an event (R297). -/
def Dev.dropScans (d : Dev) : Dev :=
  { d with ports := vall (fun (p : Port) =>
    { p with scan := { p.scan with state := 0, testMode := false, cold := false } }) d.ports }

/-- WRST_N_FALL: the output actions of a KILL reaction (R86, R89); scans and requests to the OTP controller are discarded
with them (R297, R404). -/
def Dev.wrstFall (d : Dev) : Dev :=
  let d' := d.modSys fun x => { x with wrstN := false }
  if d.sys.held || d.coldBoot then d' else (d'.modOtp fun x => { x with queue := [] }).dropScans.killOutputs

/-- WRST_N_FALL. -/
def execWrstNFall (s : State) : Out := onDev (fun s => s.dev.wrstFall) s

/-- A condition lies outside what a warm start resets, so it is found again: pace, references, ESTOP, temperatures,
links, self-checks; PORT_FLT and TEMP_CRIT of a port whose HPEN stays on. -/
def Dev.causeStays (d : Dev) (id : Nat) : Bool :=
  if 0x100 ≤ id then
    let f := (id - 0x100) / 0x40
    let o := (id - 0x100) % 0x40
    if o < 0x30 then o % 3 != 2 && (d.ports.toList.getD (16 * f + o / 3) {}).powered
    else [0x34, 0x35, 0x36, 0x37, 0x39, 0x3B, 0x3C, 0x3E].contains o
  else [0x000, 0x001, 0x002, 0x00E, 0x00F, 0x010, 0x013, 0x014, 0x015].contains id

/-- Sources at their defaults; counters stay, latches and force bits are gone (R380, Table 4.9). -/
def warmSources (xs : List Source) : List Source :=
  xs.mapIdx fun id (x : Source) => { cls := Tv.mk3 (defaultClass id), count := x.count }

/-- The fault collector after a warm start: FAULT_OUT stays asserted until READY (R89, R383). -/
def Faults.warm (x : Faults) : Faults :=
  { src := warmSources x.src, firstRec := x.firstRec, latestRec := x.latestRec, wrDrop := x.wrDrop, estop := x.estop }

/-- A port's heat and pulse settings and, while its HPEN stays on, its conversions; counters start over (R90, R291). -/
def Heat.overWarm (h : Heat) (on : Bool) : Heat :=
  let k : Heat := if on then h else {}
  { h with
    temp := k.temp, band := k.band, belowWarm := k.belowWarm, hot := k.hot, crit := k.crit
    sensorFault := k.sensorFault, code := k.code, recent := k.recent, lastBad := k.lastBad, fresh := k.fresh
    hotBlank := 0, blanks := [], spits := 0, spitCounter := 0, spitLeft := 0, headland := false, spitDone := false
    spitLast := none, kwLast := none, hotDue := false
    critLine := 0xFFFFFFFF, critSlotsA := 0, critSlotsB := 0 }

/-- A port after a warm start (R90, Table 4.9): in one by RESET (`keep`) HPEN stays, and the enable agrees with it, also
on a port that head discovery has left with HPEN on and nobody has enabled (DEDUCED, log 69). A port whose HPEN stays on
keeps its geometry and its configuration; any other port, and every port in a start by WRST_N, is disabled and keeps its
stored ID, unverified. -/
def Port.warm (keep : Bool) (p : Port) : Port :=
  let on := keep && p.powered
  let q : Port := if on then p else {}
  { enable := Tv.mk3 (if on then 1 else 0), hpen := q.hpen, headValid := p.headValid, headId := p.headId, rows2 := q.rows2
    staggered := q.staggered, banks := q.banks, blocks := q.blocks, group := q.group, phases := q.phases
    addrM1 := q.addrM1, rotStep := q.rotStep, stagger := q.stagger, slotGap := q.slotGap, tmin := q.tmin
    rowA := { band := q.heat.band }, rowB := { band := q.heat.band }, heat := p.heat.overWarm on }

/-- A swath after a warm start: its definition stays, it is idle with gear 1/1. -/
def Swath.warm (w : Swath) : Swath :=
  { defined := w.defined, reference := w.reference, channel := w.channel, barOffset := w.barOffset
    portMap := w.portMap, state := if w.defined then 1 else 0 }

/-- The position subsystem after a warm start: counts and WRAP_SEQ are 0, the pins are as they are, POS_DIV's record,
the snapshot numbers, the counts of sequence errors and of dropped writes stay (R311, R331 name no start that resets
them). -/
def Position.warm (x : Position) : Position :=
  { x with
    enc := vall (fun (e : Enc) =>
      { ({} : Enc) with copies := vall EncCopy.pins e.copies, seqErr := e.seqErr }) x.enc
    out := Vector.replicate 4 {} }

/-- The session block after a warm start: no session, registers at reset, counters and lockouts kept (R121). -/
def Sessions.warm (x : Sessions) : Sessions :=
  { resetSessions with
    freeIds := x.freeIds, wrongProofs := x.wrongProofs, lockout := x.lockout, dropCrc := x.dropCrc
    dropLen := x.dropLen, dropMac := x.dropMac, dropNet := x.dropNet, dropSpi := x.dropSpi
    dropDoorbell := x.dropDoorbell, epoch := x.epoch + 1, executed := x.executed, nonces := x.nonces, running := true }

/-- Links that did not stay up, and failed ones, are trained again (Table 4.7, R31); every link's pools are whole
(Table 18.1). -/
def Dev.warmLinks (d : Dev) (down : List (Fin 8)) : Dev :=
  let again := (fins 7).filter fun f =>
    d.hasDie f.val && (d.dies[f].tine == 3 || (d.furrowsOf down).contains f)
  let d := again.foldl Dev.retrain d
  let d := { d with dies := vall (fun (x : Die) => { x.freshPools with resetting := false }) d.dies }
  d.modSys fun x => { x with tineRetrained := !again.isEmpty }

/-- Conditions that are still there are raised again: the fault input of a port that is disabled now is not read (R389). -/
def Dev.warmCauses (d : Dev) (ids hot : List Nat) : Dev :=
  let off := fun (id : Nat) => (fins 112).any fun gp => idPortFlt gp.val == id && !d.ports[gp].on
  (hot.filter fun gp => !off (idPortFlt gp)).foldl Dev.detectHot ((ids.filter fun id => !off id).foldl Dev.detect d)

/-- The device as a warm start leaves it before the steps of Table 4.5 (Table 4.9). -/
def Dev.warmClear (d : Dev) (lastStart : BitVec 2) (w : WarmStart) : Dev :=
  { d with
    sys := { d.sys with
      lastStart, warm := true, warmDue := false, wrstN := true, cpRestarts := 0, changing := false, taken := false, resets := []
      shadowReread := !w.shadowOk }
    ses := d.ses.warm, ev := {}, pos := d.pos.warm, armed := none, activeJob := none, activeSwaths := [], activeEnded := []
    activeLines := Vector.replicate 16 0
    swaths := vall Swath.warm d.swaths, ports := vall (Port.warm (lastStart == 2)) d.ports
    dma := { ch := vall Channel.restart d.dma.ch }
    mot := {}, flt := d.flt.warm
    otp := { d.otp with queue := [] }
    mr := { d.mr with posted := [], latches := [], badWords := d.mr.badWords.filter keptWord
                      flipped := d.mr.flipped.filter keptWord }
    eth := { d.eth with phy := 0, reg := 0, write := false, pendingMdio := false, data := 0 }, tmx := {} }

/-- WARM_START's steps. -/
def Dev.warmStart (d : Dev) (rows : OtpRows) (lastStart : BitVec 2) (w : WarmStart) : Dev :=
  let d := d.closeAll (fun _ => true) 6
  let lasting := (List.range 704).filter fun id => (d.src id).cause && d.causeStays id
  let hot := (List.range 112).filter fun gp => (d.src (idPortFlt gp)).hotCause && d.causeStays (idPortFlt gp)
  let d := (d.warmClear lastStart w).enterMode mBoot
  let d := d.atStep 2
  let d := if w.shadowOk then d.loadNet
    else (d.otpReadAll rows).applyFeatures rows (d.otp.integ ||| otpFailures rows d.sys.packageP65)
  let d := (d.warmLinks w.linksDown).takePatch w.patch w.patchRejected
  let d := (d.atStep 7).readIds w.ids
  let d := (d.warmCauses lasting hot).refreshRates
  (d.atStep 8).toReady

/-- WARM_START: WRST_N rises, or a RESET has been answered. The line buffers are cleared (Table 4.9). WRST_N that rises
in the BOOT of a cold start is ignored (R86); where it fell there and rises only in a later mode, a warm start begins,
with no output actions before it: the spec does not say (DESIGN CHOICE, log 28). -/
def Dev.warmRow (d : Dev) (m : Banks) (rows : OtpRows) (w : WarmStart) : Dev × Banks :=
  if d.sys.held || (d.sys.wrstN && !d.sys.warmDue) then (d, m)
  else if d.coldBoot then (d.modSys fun x => { x with wrstN := true }, m)
  else (d.warmStart rows (if d.sys.wrstN then 2 else 1) w, m.clear isLineByte)

/-- WARM_START. -/
def execWarmStart (w : WarmStart) (s : State) : Out := onMem (fun s => s.dev.warmRow s.mem s.rows w) s

/-! ## PCIe functions (R87, R88) -/

/-- MSI-X as the endpoint's reset leaves it (R447). -/
def Pci.noMsix (x : Pci) : Pci :=
  { x with
    msixEnable := false, functionMask := false, msixAddr := Vector.replicate 512 0, msixData := Vector.replicate 512 0
    vecMask := BitVec.allOnes 512, vecPending := 0 }

/-- PE_PERST_N_RISE. -/
def execPePerstNRise (s : State) : Out := onDev (fun s => s.dev.modPci fun x => { x with perst := true }) s

/-- Sessions over PCIe close, PF0's gate closes, reads of host memory end with bus errors. -/
def Dev.dropPcie (d : Dev) : Dev :=
  ((d.closeAll viaPcie 5).modSes fun t => { t with gate := none }).hostLost

/-- PE_PERST_N_FALL. -/
def Dev.perstFall (d : Dev) : Dev :=
  if !d.pci.perst then d
  else
    let d := d.modPci fun x => { x.noMsix with perst := false, speed := 0, width := 0 }
    if d.sys.held || d.coldBoot then d
    else
      let d := if d.pcieOff then d else d.modPci fun x => { x with perstFalls := satTo 0xFFFF x.perstFalls }
      d.dropPcie.detect 0x012

/-- PE_PERST_N_FALL. -/
def execPePerstNFall (s : State) : Out := onDev (fun s => s.dev.perstFall) s

/-- PF1_FLR. -/
def Dev.pf1Flr (d : Dev) : Dev :=
  if !d.pcieUp then d
  else ((d.wakeFrom 2 true).modPci fun x => { x.noMsix with flrs := satTo 0xFFFF x.flrs }).dropPcie

/-- PF1_FLR. -/
def execPf1Flr (s : State) : Out := onDev (fun s => s.dev.pf1Flr) s

/-! ## Pace (R24 to R26) -/

/-- PACE_LOW follows the lowest ratio, with hysteresis. -/
def Dev.followPace (d : Dev) : Dev :=
  let v := d.lowestPace
  let data := leBytes 2 v.2
  if !d.sys.paceLow && decide (v.2 < 0x9EC) then
    ((d.modSys fun x => { x with paceLow := true }).event evPace 0 v.1 data).detect 0x000
  else if d.sys.paceLow && decide (0xA3E ≤ v.2) then
    ((d.modSys fun x => { x with paceLow := false }).event evPace 1 v.1 data).causeGone 0x000
  else d

/-- PACE_WINDOW: every present die's pace. -/
def Dev.paceWindow (d : Dev) (r : Vector (BitVec 16) 8) : Dev :=
  if d.sys.held || d.mode = mFallow then d
  else
    let pace : Vector (BitVec 16) 8 := ⟨⟨r.toList.mapIdx fun k v => if d.dieHere k then v else 0⟩, by simp⟩
    ((d.modSys fun x => { x with pace }).followPace).refreshRates

/-- PACE_WINDOW. -/
def execPaceWindow (ratios : Vector (BitVec 16) 8) (s : State) : Out := onDev (fun s => s.dev.paceWindow ratios) s

end Sys2Proof.Machine
end

