-- ==== Sys2Proof/Machine/Dispatch.lean ====
section
/-! DEFINITION. One arm per command. -/

namespace Sys2Proof.Machine

/-- The effect of a command on everything but the queue. -/
def exec (i : Instr) (s : State) : Host.Outcome State Fault Refusal :=
  match i with
  | .coldStart c => Sys2Proof.Machine.execColdStart c s
  | .headPwrWait ids => Sys2Proof.Machine.execHeadPwrWait ids s
  | .porstNFall => Sys2Proof.Machine.execPorstNFall s
  | .railBelowThreshold => Sys2Proof.Machine.execRailBelowThreshold s
  | .wrstNFall => Sys2Proof.Machine.execWrstNFall s
  | .warmStart w => Sys2Proof.Machine.execWarmStart w s
  | .pePerstNRise => Sys2Proof.Machine.execPePerstNRise s
  | .pePerstNFall => Sys2Proof.Machine.execPePerstNFall s
  | .pf1Flr => Sys2Proof.Machine.execPf1Flr s
  | .referenceLoss ft => Sys2Proof.Machine.execReferenceLoss ft s
  | .referenceRestored ft => Sys2Proof.Machine.execReferenceRestored ft s
  | .fallowWake source => Sys2Proof.Machine.execFallowWake source s
  | .cpWdog => Sys2Proof.Machine.execCpWdog s
  | .cpFail => Sys2Proof.Machine.execCpFail s
  | .paceWindow ratios => Sys2Proof.Machine.execPaceWindow ratios s
  | .sqFetch q slot packet => Sys2Proof.Machine.execSqFetch q slot packet s
  | .commandIntake => Sys2Proof.Machine.execCommandIntake s
  | .sqTailDoorbell q value => Sys2Proof.Machine.execSqTailDoorbell q value s
  | .cqHeadDoorbell q value => Sys2Proof.Machine.execCqHeadDoorbell q value s
  | .ethernetFrame frame => Sys2Proof.Machine.execEthernetFrame frame s
  | .spiWrite packet => Sys2Proof.Machine.execSpiWrite packet s
  | .spiRead clocked => Sys2Proof.Machine.execSpiRead clocked s
  | .spiStatus => Sys2Proof.Machine.execSpiStatus s
  | .spiRegRead address => Sys2Proof.Machine.execSpiRegRead address s
  | .spiRegWrite address value => Sys2Proof.Machine.execSpiRegWrite address value s
  | .spiUnknownOperation => Sys2Proof.Machine.execSpiUnknownOperation s
  | .provisionalIdExpiry id => Sys2Proof.Machine.execProvisionalIdExpiry id s
  | .sessionIdleTimeout id => Sys2Proof.Machine.execSessionIdleTimeout id s
  | .authLockoutEnd slot => Sys2Proof.Machine.execAuthLockoutEnd slot s
  | .eventEntryExpiry => Sys2Proof.Machine.execEventEntryExpiry s
  | .openSessionChallenge p => Sys2Proof.Machine.execOpenSessionChallenge p s
  | .openSessionProof p => Sys2Proof.Machine.execOpenSessionProof p s
  | .closeSession p => Sys2Proof.Machine.execCloseSession p s
  | .sessionInfo p => Sys2Proof.Machine.execSessionInfo p s
  | .gateOpen p => Sys2Proof.Machine.execGateOpen p s
  | .gateClose p => Sys2Proof.Machine.execGateClose p s
  | .setMode p => Sys2Proof.Machine.execSetMode p s
  | .resetWarm p => Sys2Proof.Machine.execResetWarm p s
  | .resetControlPlane p => Sys2Proof.Machine.execResetControlPlane p s
  | .resetPort p => Sys2Proof.Machine.execResetPort p s
  | .resetSwath p => Sys2Proof.Machine.execResetSwath p s
  | .resetTransportAxis p => Sys2Proof.Machine.execResetTransportAxis p s
  | .resetAuxiliaryAxis p => Sys2Proof.Machine.execResetAuxiliaryAxis p s
  | .resetSession p => Sys2Proof.Machine.execResetSession p s
  | .resetFurrowDie p => Sys2Proof.Machine.execResetFurrowDie p s
  | .deviceInfo p => Sys2Proof.Machine.execDeviceInfo p s
  | .deviceStatus p => Sys2Proof.Machine.execDeviceStatus p s
  | .readWords p => Sys2Proof.Machine.execReadWords p s
  | .writePairs p => Sys2Proof.Machine.execWritePairs p s
  | .modifyWord p => Sys2Proof.Machine.execModifyWord p s
  | .writeBlock p => Sys2Proof.Machine.execWriteBlock p s
  | .dmaConfig p => Sys2Proof.Machine.execDmaConfig p s
  | .dmaPost p => Sys2Proof.Machine.execDmaPost p s
  | .dmaStatus p => Sys2Proof.Machine.execDmaStatus p s
  | .dmaControlResume p => Sys2Proof.Machine.execDmaControlResume p s
  | .dmaControlDiscard p => Sys2Proof.Machine.execDmaControlDiscard p s
  | .dmaControlStop p => Sys2Proof.Machine.execDmaControlStop p s
  | .swathDefine p => Sys2Proof.Machine.execSwathDefine p s
  | .jobWrite p => Sys2Proof.Machine.execJobWrite p s
  | .jobRead p => Sys2Proof.Machine.execJobRead p s
  | .jobSwitch p => Sys2Proof.Machine.execJobSwitch p s
  | .jobCommit die => Sys2Proof.Machine.execJobCommit die s
  | .jobCancelDisarm p => Sys2Proof.Machine.execJobCancelDisarm p s
  | .jobCancelEnd p => Sys2Proof.Machine.execJobCancelEnd p s
  | .jobStatus p => Sys2Proof.Machine.execJobStatus p s
  | .portConfig p => Sys2Proof.Machine.execPortConfig p s
  | .portEnable p => Sys2Proof.Machine.execPortEnable p s
  | .waveWrite p => Sys2Proof.Machine.execWaveWrite p s
  | .heatConfig p => Sys2Proof.Machine.execHeatConfig p s
  | .pulseAux p => Sys2Proof.Machine.execPulseAux p s
  | .portStatus p => Sys2Proof.Machine.execPortStatus p s
  | .scanStartForeground p => Sys2Proof.Machine.execScanStartForeground p s
  | .scanStartBackground p => Sys2Proof.Machine.execScanStartBackground p s
  | .mapEditRun p => Sys2Proof.Machine.execMapEditRun p s
  | .mapEditList p => Sys2Proof.Machine.execMapEditList p s
  | .mapRead p => Sys2Proof.Machine.execMapRead p s
  | .rawRead p => Sys2Proof.Machine.execRawRead p s
  | .bandSet p => Sys2Proof.Machine.execBandSet p s
  | .calWrite p => Sys2Proof.Machine.execCalWrite p s
  | .patternPrint p => Sys2Proof.Machine.execPatternPrint p s
  | .encConfig p => Sys2Proof.Machine.execEncConfig p s
  | .encModeChange ch => Sys2Proof.Machine.execEncModeChange ch s
  | .encRead p => Sys2Proof.Machine.execEncRead p s
  | .encoutConfig p => Sys2Proof.Machine.execEncoutConfig p s
  | .encPreset p => Sys2Proof.Machine.execEncPreset p s
  | .presetOffset ch die => Sys2Proof.Machine.execPresetOffset ch die s
  | .taxConfig p => Sys2Proof.Machine.execTaxConfig p s
  | .taxAdvance p => Sys2Proof.Machine.execTaxAdvance p s
  | .taxEnable p => Sys2Proof.Machine.execTaxEnable p s
  | .taxSpeed p => Sys2Proof.Machine.execTaxSpeed p s
  | .taxMaster p => Sys2Proof.Machine.execTaxMaster p s
  | .busConfig p => Sys2Proof.Machine.execBusConfig p s
  | .taxStatus p => Sys2Proof.Machine.execTaxStatus p s
  | .auxConfig p => Sys2Proof.Machine.execAuxConfig p s
  | .auxEnable p => Sys2Proof.Machine.execAuxEnable p s
  | .auxMoveAbsolute p => Sys2Proof.Machine.execAuxMoveAbsolute p s
  | .auxMoveFollowOn p => Sys2Proof.Machine.execAuxMoveFollowOn p s
  | .auxMoveRelative p => Sys2Proof.Machine.execAuxMoveRelative p s
  | .auxProfile p => Sys2Proof.Machine.execAuxProfile p s
  | .stopRamp p => Sys2Proof.Machine.execStopRamp p s
  | .stopNow p => Sys2Proof.Machine.execStopNow p s
  | .auxHome p => Sys2Proof.Machine.execAuxHome p s
  | .auxGear p => Sys2Proof.Machine.execAuxGear p s
  | .auxStatus p => Sys2Proof.Machine.execAuxStatus p s
  | .fltClass p => Sys2Proof.Machine.execFltClass p s
  | .fltForce p => Sys2Proof.Machine.execFltForce p s
  | .fltReadRecords p => Sys2Proof.Machine.execFltReadRecords p s
  | .fltReadCounters p => Sys2Proof.Machine.execFltReadCounters p s
  | .otpRead p => Sys2Proof.Machine.execOtpRead p s
  | .otpProgram p => Sys2Proof.Machine.execOtpProgram p s
  | .otpProgramExecute burns second => Sys2Proof.Machine.execOtpProgramExecute burns second s
  | .otpFinalise p => Sys2Proof.Machine.execOtpFinalise p s
  | .otpFinaliseExecute burns => Sys2Proof.Machine.execOtpFinaliseExecute burns s
  | .tmxSelect p => Sys2Proof.Machine.execTmxSelect p s
  | .enterFallow p => Sys2Proof.Machine.execEnterFallow p s
  | .eventSubscribe p => Sys2Proof.Machine.execEventSubscribe p s
  | .eventRead p => Sys2Proof.Machine.execEventRead p s
  | .eventCounters p => Sys2Proof.Machine.execEventCounters p s
  | .sesQpCtlWrite m q value => Sys2Proof.Machine.execSesQpCtlWrite m q value s
  | .prtGeomWrite m gp value => Sys2Proof.Machine.execPrtGeomWrite m gp value s
  | .plsHeatctlWrite m gp value => Sys2Proof.Machine.execPlsHeatctlWrite m gp value s
  | .plsTsntabWrite m gp k value => Sys2Proof.Machine.execPlsTsntabWrite m gp k value s
  | .posChCountRead m die ch => Sys2Proof.Machine.execPosChCountRead m die ch s
  | .latchingRegisterRead m address => Sys2Proof.Machine.execLatchingRegisterRead m address s
  | .posChOptWrite m ch value => Sys2Proof.Machine.execPosChOptWrite m ch value s
  | .otpCmdWrite m value => Sys2Proof.Machine.execOtpCmdWrite m value s
  | .otpLockWrite m value => Sys2Proof.Machine.execOtpLockWrite m value s
  | .ethMdioAccess m value => Sys2Proof.Machine.execEthMdioAccess m value s
  | .mdioAccessEnd data => Sys2Proof.Machine.execMdioAccessEnd data s
  | .eventAckWrite m cls value => Sys2Proof.Machine.execEventAckWrite m cls value s
  | .fltGpioWrite m value => Sys2Proof.Machine.execFltGpioWrite m value s
  | .aliasWrite m address value be => Sys2Proof.Machine.execAliasWrite m address value be s
  | .bitAliasWrite m address value => Sys2Proof.Machine.execBitAliasWrite m address value s
  | .memoryWindowWrite m address words => Sys2Proof.Machine.execMemoryWindowWrite m address words s
  | .registerWrite m address value be => Sys2Proof.Machine.execRegisterWrite m address value be s
  | .postedWriteEffect block => Sys2Proof.Machine.execPostedWriteEffect block s
  | .msixUnmask v enable functionMask => Sys2Proof.Machine.execMsixUnmask v enable functionMask s
  | .quadratureEdge ch a b close => Sys2Proof.Machine.execQuadratureEdge ch a b close s
  | .stepDirEdge ch levels flaws => Sys2Proof.Machine.execStepDirEdge ch levels flaws s
  | .upDownEdge ch levels close => Sys2Proof.Machine.execUpDownEdge ch levels close s
  | .indexEdge z => Sys2Proof.Machine.execIndexEdge z s
  | .sincosQuadrantChange ch cosHigh sinHigh => Sys2Proof.Machine.execSincosQuadrantChange ch cosHigh sinHigh s
  | .sincosSample ch sin cos => Sys2Proof.Machine.execSincosSample ch sin cos s
  | .observerUpdate die ch => Sys2Proof.Machine.execObserverUpdate die ch s
  | .observerStill die ch => Sys2Proof.Machine.execObserverStill die ch s
  | .snapshotStrobe guards => Sys2Proof.Machine.execSnapshotStrobe guards s
  | .snapshotReport die ch => Sys2Proof.Machine.execSnapshotReport die ch s
  | .snapshotLate die => Sys2Proof.Machine.execSnapshotLate die s
  | .frwResyncTimeout die => Sys2Proof.Machine.execFrwResyncTimeout die s
  | .tineFlit die toHub data e => Sys2Proof.Machine.execTineFlit die toHub data e s
  | .tineAckTimeout die => Sys2Proof.Machine.execTineAckTimeout die s
  | .lineSlotFreed gp => Sys2Proof.Machine.execLineSlotFreed gp s
  | .dmaReadIssue c => Sys2Proof.Machine.execDmaReadIssue c s
  | .dmaReadCompletion r e => Sys2Proof.Machine.execDmaReadCompletion r e s
  | .dmaCompletionTimeout r => Sys2Proof.Machine.execDmaCompletionTimeout r s
  | .dmaWriteBeat c => Sys2Proof.Machine.execDmaWriteBeat c s
  | .fenceComplete c e => Sys2Proof.Machine.execFenceComplete c e s
  | .rowLineProcess gp row => Sys2Proof.Machine.execRowLineProcess gp row s
  | .lineCommit gp row reached => Sys2Proof.Machine.execLineCommit gp row reached s
  | .lineStart gp row => Sys2Proof.Machine.execLineStart gp row s
  | .fireWindowClose gp row => Sys2Proof.Machine.execFireWindowClose gp row s
  | .lineBoundary gp row => Sys2Proof.Machine.execLineBoundary gp row s
  | .tsnConversion gp code => Sys2Proof.Machine.execTsnConversion gp code s
  | .keepWarmPiece gp => Sys2Proof.Machine.execKeepWarmPiece gp s
  | .spitBurst gp => Sys2Proof.Machine.execSpitBurst gp s
  | .scanElement gp code windowClosed => Sys2Proof.Machine.execScanElement gp code windowClosed s
  | .taxControlPeriod axis iu iv iw vu vv vw late => Sys2Proof.Machine.execTaxControlPeriod axis iu iv iw vu vv vw late s
  | .rotorLoss axis => Sys2Proof.Machine.execRotorLoss axis s
  | .taxLost axis => Sys2Proof.Machine.execTaxLost axis s
  | .encoderAlignDone axis => Sys2Proof.Machine.execEncoderAlignDone axis s
  | .targetSpeedReached axis => Sys2Proof.Machine.execTargetSpeedReached axis s
  | .activeShortCircuitEnd axis => Sys2Proof.Machine.execActiveShortCircuitEnd axis s
  | .busSample bus brake => Sys2Proof.Machine.execBusSample bus brake s
  | .auxControlPeriod axis ia ib => Sys2Proof.Machine.execAuxControlPeriod axis ia ib s
  | .idleCurrent axis => Sys2Proof.Machine.execIdleCurrent axis s
  | .switchRead levels => Sys2Proof.Machine.execSwitchRead levels s
  | .faultDetection source => Sys2Proof.Machine.execFaultDetection source s
  | .reactionComplete => Sys2Proof.Machine.execReactionComplete s
  | .faultInputChange input p n => Sys2Proof.Machine.execFaultInputChange input p n s
  | .tvScrub => Sys2Proof.Machine.execTvScrub s
  | .patrolScrub die bank offset r => Sys2Proof.Machine.execPatrolScrub die bank offset r s
  | .railsInRange c => Sys2Proof.Machine.execRailsInRange c s
  | .faultCauseGone source => Sys2Proof.Machine.execFaultCauseGone source s
  | .sgmiiLinkChange up => Sys2Proof.Machine.execSgmiiLinkChange up s
  | .pcieLinkChange speed width => Sys2Proof.Machine.execPcieLinkChange speed width s
  | .commitAckTimeout die => Sys2Proof.Machine.execCommitAckTimeout die s
  | .switchRecordReport die swath => Sys2Proof.Machine.execSwitchRecordReport die swath s
  | .resyncNoEdge die ch => Sys2Proof.Machine.execResyncNoEdge die ch s
  | .jtagTapAccess op => Sys2Proof.Machine.execJtagTapAccess op s

end Sys2Proof.Machine
end

