-- ==== Sys2Proof/Machine/Step.lean ====
section
/-! DEFINITION. One step: the command at the front of the queue; a timestamp tick when none waits. -/

namespace Sys2Proof.Machine

/-- One step. With no command waiting one tick of the timestamp counter passes, and what time alone ends or starts
follows (log 1). -/
def step (s : State) : Host.Outcome State Fault Refusal :=
  match s.pending with
  | [] => .next { s with dev := s.dev.idle s.mem }
  | c :: r => exec c { s with pending := r }

/-- A state with the command that a table word spells at the front of its queue; the table gives no row bits. -/
def State.withFetchWord (s : State) (nbits w : Nat) : State :=
  match decodeTableWord nbits w with
  | some c => { s with pending := c :: s.pending }
  | none => s

end Sys2Proof.Machine
end

