-- ==== Sys2Proof/Safety.lean ====
section
/-! DEFINITION. What a safe run is, and the terms the claims about commands use. -/

namespace Sys2Proof

open Machine

/-- A state is safe when its memory has the canonical form and its next step answers a next state. -/
def Safe (s : State) : Prop := s.mem.wf = true ∧ ∃ t, step s = .next t

/-- Steps 8 to 11 of Table 5.3 let a packet act as a row of Table 6.2, for a session: its transport is strapped on, the
part is awake, the command processor runs, the packet has the row's opcode and variant and is the next to execute of the
work queue, and the session's role, also for the registers and rows the packet names, the mode and the length of the
parameters are those the row asks for (R106, R147, R194, R451). -/
abbrev Judged (sp : CmdSpec) (p : Packet) (x : Session) (s : State) : Prop :=
  s.dev.linkOn p.via = true ∧ s.dev.mode ≠ mFallow ∧ s.dev.intakeOpen = true
    ∧ p.opcode = sp.opcode ∧ p.variant = sp.variant ∧ s.dev.taken p = true
    ∧ s.dev.actsFor p = x
    ∧ sp.role x (pktParams p) = true ∧ sp.named s x (pktParams p) = none ∧ s.dev.judgedMode ∈ sp.modes ∧ sp.len (pktParams p) = true

/-- A command that steps 8 to 11 let act, over a transport whose reply buffer holds a reply without parameters; over PCIe the
buffer's length is the packet's ReplyLen (Table 5.13). -/
abbrev Ready (sp : CmdSpec) (p : Packet) (x : Session) (s : State) : Prop :=
  Judged sp p x s ∧ replyFits p x.macRequired 0 = true

/-- The next state when a command has changed the device to `d` and is answered ST_OK with these parameters. -/
abbrev answered (s : State) (p : Packet) (d : Dev) (reply : List Byte) : Out :=
  .next { s with dev := d.answer p stOk noField reply }

/-- The session block without what replies and event records change: the open sessions' entries, the queue pairs, the
work queue, the SPI output and the count of commands executed. -/
def stillSes (t : Sessions) : Sessions := { t with openS := [], qp := resetQps, work := [], spiOut := [], executed := 0 }

/-- The device without what replies and event records change: beside that part of the session block, the event
subsystem, what has left the part, the pending bits of MSI-X and the count of Ethernet frames sent. -/
def stillPart (d : Dev) : Dev :=
  { d with
    ses := stillSes d.ses, ev := {}, sent := []
    pci := { d.pci with vecPending := 0 }, eth := { d.eth with tx := 0 } }

/-- A number lies in an inclusive range. -/
abbrev within (lo hi n : Nat) : Prop := lo ≤ n ∧ n ≤ hi

/-- Parameter bytes are 0, as reserved ones must be (R139). -/
abbrev reservedZero (p : Packet) (offset n : Nat) : Prop := ∀ i < n, (pktParams p).getD (offset + i) 0 = 0

/-- An unsigned field of a packet's parameters. -/
abbrev par (p : Packet) (offset size : Nat) : Nat := pU (pktParams p) offset size

/-- A signed field of a packet's parameters. -/
abbrev parI (p : Packet) (offset size : Nat) : Int := pI (pktParams p) offset size

/-! ## The command rows -/

/-- The conditions under which a packet that COMMAND_INTAKE took meets steps 9 to 11 of Table 5.3 as a row of Table 6.2,
for a session: those of `Judged` but for the checks themselves. -/
abbrev Taken (sp : CmdSpec) (p : Packet) (x : Session) (s : State) : Prop :=
  s.dev.linkOn p.via = true ∧ s.dev.mode ≠ mFallow ∧ s.dev.intakeOpen = true
    ∧ p.opcode = sp.opcode ∧ p.variant = sp.variant ∧ s.dev.taken p = true
    ∧ s.dev.actsFor p = x

/-- The device in which a packet given as a row meets step 1: over PCIe its SQ slot has been taken, over the other transports
a receive buffer is free (R124, R130, R196). -/
def arrivesOn (d : Dev) (p : Packet) (e : Dev) : Prop :=
  match p.via with
  | .pcie q => d.takesSlot q = true ∧ e = d.sqAdvance q
  | .udp _ _ => d.ses.ethRx.length < 16 ∧ e = d
  | .spi => d.ses.spiRx.length < 2 ∧ e = d

/-- A packet is discarded and counted: over PCIe its CQ slot says so, with the session bound when it was taken (R124). -/
def discardedOn (d : Dev) (p : Packet) (seq : Word) (counted : Dev) : Dev :=
  match p.via with
  | .pcie q => counted.cqWrite q seq 0 0 true (d.qpSession q) (.free, 0)
  | _ => counted

/-- A row of Table 6.2: its command, and what it asks for on a device. -/
structure CmdRow where
  instr : Packet → Instr
  spec : Dev → CmdSpec

/-- Sessions. -/
def sessionRows : List CmdRow := [
  ⟨.openSessionChallenge, fun _ => specOpenChallenge⟩,
  ⟨.openSessionProof, fun _ => specOpenProof⟩,
  ⟨.closeSession, fun _ => specClose⟩,
  ⟨.sessionInfo, fun _ => specSessionInfo⟩,
  ⟨.gateOpen, fun _ => specGateOpen⟩,
  ⟨.gateClose, fun _ => specGateClose⟩]

/-- RESET and the device. -/
def systemRows : List CmdRow := [
  ⟨.resetWarm, fun _ => specReset 0 [mReady, mHalted] rService 0⟩,
  ⟨.resetControlPlane, fun _ => specReset 1 setN rService 0⟩,
  ⟨.resetPort, fun _ => specReset 2 setO rOperator 2⟩,
  ⟨.resetSwath, fun _ => specReset 3 setO rOperator 2⟩,
  ⟨.resetTransportAxis, fun _ => specReset 4 setO rOperator 2⟩,
  ⟨.resetAuxiliaryAxis, fun _ => specReset 5 setO rOperator 2⟩,
  ⟨.resetSession, fun _ => specResetSession⟩,
  ⟨.resetFurrowDie, fun _ => specReset 7 setO rService 2⟩,
  ⟨.deviceInfo, fun _ => specDeviceInfo⟩,
  ⟨.deviceStatus, fun _ => specDeviceStatus⟩]

/-- Registers and memory. -/
def registerRows : List CmdRow := [
  ⟨.readWords, fun _ => specReadWords⟩,
  ⟨.writePairs, fun _ => specWritePairs⟩,
  ⟨.modifyWord, fun _ => specModifyWord⟩,
  ⟨.writeBlock, fun _ => specWriteBlock⟩]

/-- DMA. -/
def dmaRows : List CmdRow := [
  ⟨.dmaConfig, fun _ => specDmaConfig⟩,
  ⟨.dmaPost, fun _ => specDmaPost⟩,
  ⟨.dmaStatus, fun _ => specDmaStatus⟩,
  ⟨.dmaControlResume, fun _ => specDmaControl 0⟩,
  ⟨.dmaControlDiscard, fun _ => specDmaControl 1⟩,
  ⟨.dmaControlStop, fun _ => specDmaControl 2⟩]

/-- Jobs and swaths. -/
def jobRows : List CmdRow := [
  ⟨.swathDefine, fun _ => specSwathDefine⟩,
  ⟨.jobWrite, fun _ => specJobWrite⟩,
  ⟨.jobRead, fun _ => specJobRead⟩,
  ⟨.jobSwitch, fun _ => specJobSwitch⟩,
  ⟨.jobCancelDisarm, fun _ => specJobCancel 0⟩,
  ⟨.jobCancelEnd, fun _ => specJobCancel 1⟩,
  ⟨.jobStatus, fun _ => specJobStatus⟩]

/-- Ports. -/
def portRows : List CmdRow := [
  ⟨.portConfig, fun _ => specPortConfig⟩,
  ⟨.portEnable, fun _ => specPortEnable⟩,
  ⟨.waveWrite, fun _ => specWaveWrite⟩,
  ⟨.heatConfig, fun _ => specHeatConfig⟩,
  ⟨.pulseAux, fun _ => specPulseAux⟩,
  ⟨.portStatus, fun _ => specPortStatus⟩]

/-- Scans. -/
def scanRows : List CmdRow := [
  ⟨.scanStartForeground, fun _ => specScanStart 0 mCalibrate⟩,
  ⟨.scanStartBackground, fun _ => specScanStart 1 mPrint⟩]

/-- Nozzle maps, raw values, bands and calibration sets of a port. -/
def nozzleRows : List CmdRow := [
  ⟨.mapEditRun, fun _ => specMapEdit 0 (lenIs 8)⟩,
  ⟨.mapEditList, fun _ => specMapEdit 1 fun ps => decide (6 ≤ ps.length) && ps.length == 6 + 2 * pU ps 4 2⟩,
  ⟨.mapRead, fun _ => specMapRead⟩,
  ⟨.rawRead, fun _ => specRawRead⟩,
  ⟨.bandSet, fun _ => specBandSet⟩,
  ⟨.calWrite, fun _ => specCalWrite⟩]

/-- Head health. -/
def headRows : List CmdRow := scanRows ++ nozzleRows ++ [⟨.patternPrint, fun _ => specPatternPrint⟩]

/-- Encoders. -/
def encoderRows : List CmdRow := [
  ⟨.encConfig, fun _ => specEncConfig⟩,
  ⟨.encRead, fun _ => specEncRead⟩,
  ⟨.encoutConfig, fun _ => specEncoutConfig⟩,
  ⟨.encPreset, fun _ => specEncPreset⟩]

/-- Transport axes. -/
def transportRows : List CmdRow := [
  ⟨.taxConfig, fun _ => specTaxConfig⟩,
  ⟨.taxAdvance, fun _ => specTaxAdvance⟩,
  ⟨.taxEnable, fun _ => specTaxEnable⟩,
  ⟨.taxSpeed, fun _ => specTaxSpeed⟩,
  ⟨.taxMaster, fun _ => specTaxMaster⟩,
  ⟨.busConfig, fun _ => specBusConfig⟩,
  ⟨.taxStatus, fun _ => specTaxStatus⟩]

/-- Auxiliary axes. -/
def auxiliaryRows : List CmdRow := [
  ⟨.auxConfig, fun _ => specAuxConfig⟩,
  ⟨.auxEnable, fun _ => specAuxEnable⟩,
  ⟨.auxMoveAbsolute, fun _ => specAuxMove 0⟩,
  ⟨.auxMoveFollowOn, fun _ => specAuxMove 1⟩,
  ⟨.auxMoveRelative, fun _ => specAuxMove 2⟩,
  ⟨.auxProfile, fun _ => specAuxProfile⟩,
  ⟨.stopRamp, fun _ => specAuxStop 0⟩,
  ⟨.stopNow, fun _ => specAuxStop 1⟩,
  ⟨.auxHome, fun _ => specAuxHome⟩,
  ⟨.auxGear, fun _ => specAuxGear⟩,
  ⟨.auxStatus, fun _ => specAuxStatus⟩]

/-- Faults. -/
def faultRows : List CmdRow := [
  ⟨.fltClass, fun _ => specFltClass⟩,
  ⟨.fltForce, fun _ => specFltForce⟩,
  ⟨.fltReadRecords, fun _ => specFltRead 0 0⟩,
  ⟨.fltReadCounters, fun _ => specFltRead 1 4⟩]

/-- OTP, test, FALLOW and events. -/
def restRows : List CmdRow := [
  ⟨.otpRead, fun _ => specOtpRead⟩,
  ⟨.otpProgram, fun _ => specOtpProgram⟩,
  ⟨.otpFinalise, fun _ => specOtpFinalise⟩,
  ⟨.tmxSelect, specTmxSelect⟩,
  ⟨.enterFallow, fun _ => specEnterFallow⟩,
  ⟨.eventSubscribe, fun _ => specEventSubscribe⟩,
  ⟨.eventRead, fun _ => specEventRead⟩,
  ⟨.eventCounters, fun _ => specEventCounters⟩]

/-- Every row of Table 6.2 but SET_MODE, whose refusal also lets the next mode change go on. -/
def commandRows : List CmdRow :=
  sessionRows ++ systemRows ++ registerRows ++ dmaRows ++ jobRows ++ portRows
    ++ headRows ++ encoderRows ++ transportRows ++ auxiliaryRows ++ faultRows ++ restRows

/-- The next state when a command is refused: it is answered, and nothing else happens. -/
abbrev refused (s : State) (p : Packet) (code offset : Nat) : Out :=
  .next { s with dev := s.dev.answer p code offset [] }

/-! ## What a command may touch -/

/-- The commands whose effect reaches the memory windows or the job cache. -/
def mayWriteMemory : Instr → Bool
  | .coldStart _ | .warmStart _ | .referenceRestored _ | .spiRegRead _ | .spiRegWrite _ _ | .readWords _
  | .writePairs _ | .modifyWord _ | .writeBlock _ | .jobWrite _ | .waveWrite _ | .mapEditRun _
  | .mapEditList _ | .calWrite _ | .enterFallow _ | .posChCountRead _ _ _ | .latchingRegisterRead _ _
  | .aliasWrite _ _ _ _ | .memoryWindowWrite _ _ _ | .postedWriteEffect _ | .dmaWriteBeat _
  | .scanElement _ _ _ | .railsInRange _ | .otpProgramExecute _ _ | .otpFinaliseExecute _ => true
  | _ => false

end Sys2Proof
end

