-- ==== Sys2Proof/WellFormed.lean ====
section
/-! DEFINITION. Which commands are well formed: operands inside the ranges the spec gives their rows. `exec` does not
rely on it; a command outside it is still answered. -/

namespace Sys2Proof

/-- A packet of a command row: its opcode and variant, Version 0x08, no Flags bit but Mac, an open session's number, a
Length that fits its payload and R105's 4,096 bytes, 1,412 parameter bytes at most over UDP (Tables 5.1, 5.2). -/
def Packet.wf (p : Packet) (opcode variant : Nat) : Bool :=
  decide (p.opcode.toNat = opcode) && decide (p.variant.toNat = variant) && p.version == 8 && (p.flags &&& 0xFD) == 0
    && decide (p.session.toNat ≤ 255) && decide (p.payload.length = p.length.toNat + (if p.flags = 2 then 16 else 0))
    && decide (28 + p.payload.length ≤ 4096)
    && (match p.via with
      | .udp _ _ => decide (p.length.toNat ≤ 1412)
      | _ => decide (p.epoch = 0))

/-- Head IDs by port, ports rising. -/
def idsWf (ids : List (Fin 112 × DWord)) : Bool := decide ((ids.map fun x => x.1.val).Pairwise (· < ·))

/-- What a cold start shows names each die once, and no link of the hub to itself. -/
def ColdStart.wf (c : ColdStart) : Bool := decide c.bistFail.Nodup && decide c.tineFail.Nodup && !c.tineFail.contains 0

/-- A register or window address names a whole word (R420). -/
def wordAddress (a : Word) : Bool := (a &&& 3) == 0

/-- A completion carries at most the 4 KiB of one request (R224). -/
def ReadEnd.wf : ReadEnd → Bool
  | .data bytes _ => decide (bytes.length ≤ 4096)
  | _ => true

/-- The command is well formed. -/
def Instr.wf : Instr → Bool
  | .coldStart c => c.wf
  | .headPwrWait ids => idsWf ids
  | .porstNFall => true
  | .railBelowThreshold => true
  | .wrstNFall => true
  | .warmStart w => idsWf w.ids
  | .pePerstNRise => true
  | .pePerstNFall => true
  | .pf1Flr => true
  | .referenceLoss _ => true
  | .referenceRestored _ => true
  | .fallowWake source => source != 0
  | .cpWdog => true
  | .cpFail => true
  | .paceWindow ratios => ratios.toList.all fun r => decide (r.toNat ≤ 4096)
  | .sqFetch _ slot packet => decide (packet.length = slot.packetLen.toNat)
  | .commandIntake => true
  | .sqTailDoorbell _ _ => true
  | .cqHeadDoorbell _ _ => true
  | .ethernetFrame _ => true
  | .spiWrite _ => true
  | .spiRead _ => true
  | .spiStatus => true
  | .spiRegRead address => wordAddress address
  | .spiRegWrite address _ => wordAddress address
  | .spiUnknownOperation => true
  | .provisionalIdExpiry id => id != 0
  | .sessionIdleTimeout id => id != 0
  | .authLockoutEnd _ => true
  | .eventEntryExpiry => true
  | .openSessionChallenge p => p.wf 0x00 0
  | .openSessionProof p => p.wf 0x00 1
  | .closeSession p => p.wf 0x01 0
  | .sessionInfo p => p.wf 0x02 0
  | .gateOpen p => p.wf 0x04 0
  | .gateClose p => p.wf 0x04 1
  | .setMode p => p.wf 0x10 0
  | .resetWarm p => p.wf 0x11 0
  | .resetControlPlane p => p.wf 0x11 1
  | .resetPort p => p.wf 0x11 2
  | .resetSwath p => p.wf 0x11 3
  | .resetTransportAxis p => p.wf 0x11 4
  | .resetAuxiliaryAxis p => p.wf 0x11 5
  | .resetSession p => p.wf 0x11 6
  | .resetFurrowDie p => p.wf 0x11 7
  | .deviceInfo p => p.wf 0x12 0
  | .deviceStatus p => p.wf 0x13 0
  | .readWords p => p.wf 0x20 0
  | .writePairs p => p.wf 0x21 0
  | .modifyWord p => p.wf 0x22 0
  | .writeBlock p => p.wf 0x23 0
  | .dmaConfig p => p.wf 0x30 0
  | .dmaPost p => p.wf 0x31 0
  | .dmaStatus p => p.wf 0x32 0
  | .dmaControlResume p => p.wf 0x33 0
  | .dmaControlDiscard p => p.wf 0x33 1
  | .dmaControlStop p => p.wf 0x33 2
  | .swathDefine p => p.wf 0x40 0
  | .jobWrite p => p.wf 0x41 0
  | .jobRead p => p.wf 0x42 0
  | .jobSwitch p => p.wf 0x43 0
  | .jobCommit _ => true
  | .jobCancelDisarm p => p.wf 0x44 0
  | .jobCancelEnd p => p.wf 0x44 1
  | .jobStatus p => p.wf 0x45 0
  | .portConfig p => p.wf 0x50 0
  | .portEnable p => p.wf 0x51 0
  | .waveWrite p => p.wf 0x52 0
  | .heatConfig p => p.wf 0x53 0
  | .pulseAux p => p.wf 0x54 0
  | .portStatus p => p.wf 0x55 0
  | .scanStartForeground p => p.wf 0x60 0
  | .scanStartBackground p => p.wf 0x60 1
  | .mapEditRun p => p.wf 0x61 0
  | .mapEditList p => p.wf 0x61 1
  | .mapRead p => p.wf 0x62 0
  | .rawRead p => p.wf 0x63 0
  | .bandSet p => p.wf 0x64 0
  | .calWrite p => p.wf 0x65 0
  | .patternPrint p => p.wf 0x66 0
  | .encConfig p => p.wf 0x70 0
  | .encModeChange _ => true
  | .encRead p => p.wf 0x71 0
  | .encoutConfig p => p.wf 0x72 0
  | .encPreset p => p.wf 0x73 0
  | .presetOffset _ _ => true
  | .taxConfig p => p.wf 0x80 0
  | .taxAdvance p => p.wf 0x81 0
  | .taxEnable p => p.wf 0x82 0
  | .taxSpeed p => p.wf 0x83 0
  | .taxMaster p => p.wf 0x84 0
  | .busConfig p => p.wf 0x85 0
  | .taxStatus p => p.wf 0x86 0
  | .auxConfig p => p.wf 0x90 0
  | .auxEnable p => p.wf 0x91 0
  | .auxMoveAbsolute p => p.wf 0x92 0
  | .auxMoveFollowOn p => p.wf 0x92 1
  | .auxMoveRelative p => p.wf 0x92 2
  | .auxProfile p => p.wf 0x93 0
  | .stopRamp p => p.wf 0x94 0
  | .stopNow p => p.wf 0x94 1
  | .auxHome p => p.wf 0x95 0
  | .auxGear p => p.wf 0x96 0
  | .auxStatus p => p.wf 0x97 0
  | .fltClass p => p.wf 0xA0 0
  | .fltForce p => p.wf 0xA1 0
  | .fltReadRecords p => p.wf 0xA2 0
  | .fltReadCounters p => p.wf 0xA2 1
  | .otpRead p => p.wf 0xB0 0
  | .otpProgram p => p.wf 0xB1 0
  | .otpProgramExecute _ _ => true
  | .otpFinalise p => p.wf 0xB2 0
  | .otpFinaliseExecute _ => true
  | .tmxSelect p => p.wf 0xC0 0
  | .enterFallow p => p.wf 0xD0 0
  | .eventSubscribe p => p.wf 0xE0 0
  | .eventRead p => p.wf 0xE1 0
  | .eventCounters p => p.wf 0xE2 0
  | .sesQpCtlWrite _ _ _ => true
  | .prtGeomWrite _ _ _ => true
  | .plsHeatctlWrite _ _ _ => true
  | .plsTsntabWrite _ _ _ _ => true
  | .posChCountRead _ _ _ => true
  | .latchingRegisterRead _ address => wordAddress address.address.offset && address.words != 0
  | .posChOptWrite _ _ _ => true
  | .otpCmdWrite _ _ => true
  | .otpLockWrite _ _ => true
  | .ethMdioAccess _ _ => true
  | .mdioAccessEnd _ => true
  | .eventAckWrite _ _ _ => true
  | .fltGpioWrite _ _ => true
  | .aliasWrite _ address _ _ => wordAddress address
  | .bitAliasWrite _ address _ => wordAddress address
  | .memoryWindowWrite _ address words => wordAddress address && !words.isEmpty
  | .registerWrite _ address _ _ => wordAddress address.offset
  | .postedWriteEffect _ => true
  | .msixUnmask _ _ _ => true
  | .quadratureEdge _ _ _ _ => true
  | .stepDirEdge _ _ _ => true
  | .upDownEdge _ _ _ => true
  | .indexEdge _ => true
  | .sincosQuadrantChange _ _ _ => true
  | .sincosSample _ _ _ => true
  | .observerUpdate _ _ => true
  | .observerStill _ _ => true
  | .snapshotStrobe guards => decide guards.Nodup
  | .snapshotReport _ _ => true
  | .snapshotLate _ => true
  | .frwResyncTimeout _ => true
  | .tineFlit _ _ _ _ => true
  | .tineAckTimeout _ => true
  | .lineSlotFreed _ => true
  | .dmaReadIssue _ => true
  | .dmaReadCompletion _ e => e.wf
  | .dmaCompletionTimeout _ => true
  | .dmaWriteBeat _ => true
  | .fenceComplete _ _ => true
  | .rowLineProcess _ _ => true
  | .lineCommit _ _ _ => true
  | .lineStart _ _ => true
  | .fireWindowClose _ _ => true
  | .lineBoundary _ _ => true
  | .tsnConversion _ _ => true
  | .keepWarmPiece _ => true
  | .spitBurst _ => true
  | .scanElement _ _ _ => true
  | .taxControlPeriod _ _ _ _ _ _ _ _ => true
  | .rotorLoss _ => true
  | .taxLost _ => true
  | .encoderAlignDone _ => true
  | .targetSpeedReached _ => true
  | .activeShortCircuitEnd _ => true
  | .busSample _ _ => true
  | .auxControlPeriod _ _ _ => true
  | .idleCurrent _ => true
  | .switchRead _ => true
  | .faultDetection source => decide (source < 704)
  | .reactionComplete => true
  | .faultInputChange _ _ _ => true
  | .tvScrub => true
  | .patrolScrub _ _ offset _ => wordAddress offset
  | .railsInRange c => c.wf
  | .faultCauseGone source => decide (source < 704)
  | .sgmiiLinkChange _ => true
  | .pcieLinkChange speed width => decide (speed.toNat ≤ 5 ∧ width.toNat ≤ 16)
  | .commitAckTimeout _ => true
  | .switchRecordReport _ _ => true
  | .resyncNoEdge _ _ => true
  | .jtagTapAccess _ => true

end Sys2Proof
end

