-- ==== Sys2Proof/Certificates/Slice0/Obligations.lean ====
section
/-! DEFINITION. The statements about the machine, for the provers. First what holds of every command and every step, then
what single rules of the spec say, then, family by family, where each command completes and what it leaves. -/

open Sys2Proof Sys2Proof.Machine

/-- A step with a command at the front of the queue is that command's effect on the state with the rest of the queue. -/
def Obligations.FrontCommandRuns : Prop :=
  ∀ (s : State) (c : Instr) (rest : List Instr), s.pending = c :: rest → step s = exec c { s with pending := rest }

/-- With no command waiting one tick of the timestamp counter passes. Memory, OTP array and queue stay as they are. Nothing
else of the device changes where nothing is left for time alone to end: no background piece, no port that waits to be
contained, no change of mode, no correctable error of the link and no bit that flips at that tick. While the part is held in
reset the counter stands. A background piece whose end has come is over. A step on an empty queue is the model's own choice
(log 1); the counter is R22's, when errors come and bits flip is free (logs 79, 80). -/
def Obligations.EmptyQueueTicks : Prop :=
  ∀ s : State, s.pending = [] →
    (∃ d, step s = .next { s with dev := d })
    ∧ ((∀ gp : Fin 112, s.dev.ports[gp].piece = none ∧ s.dev.ports[gp].heat.hotDue = false) → s.dev.sys.changing = false →
      (s.dev.sys.held = true → step s = .next s)
      ∧ (s.dev.sys.held = false → Config.correctableError (s.dev.sys.now + 1) = false →
        Config.upset (s.dev.sys.now + 1) = none →
        step s = .next { s with dev := s.dev.modSys fun x => { x with now := x.now + 1 } }))
    ∧ (∀ (gp : Fin 112) (x : Piece), s.dev.ports[gp].piece = some x → x.stop ≤ s.dev.fireNow gp →
      (s.dev.runPiece s.banks gp).ports[gp].piece = none)

/-- What the register tables give as reset values, in the state after reset: queue pairs of 17 entries, disabled, with
vector q (Table 5.19); SES_IDLE 60 s (Table 5.21); no port and no axis enabled, no HPEN high; OutClass STOP (R383); every map byte 0x14 and both
bytes of every raw entry 0; memory in its canonical form and no command waiting. What R84 and R416 say of the memories after
a cold start stands in them at reset too: that is the model's deduction (log 42), as is what a byte nothing has written reads
(log 8). -/
def Obligations.ResetValues : Prop :=
  (∀ q : Fin 256, State.reset.dev.ses.qp[q].entries = 17 ∧ State.reset.dev.ses.qp[q].enable = false
    ∧ State.reset.dev.ses.qp[q].vector.toNat = q.val ∧ State.reset.dev.ses.qp[q].sqBase = 0
    ∧ State.reset.dev.ses.qp[q].cqBase = 0)
  ∧ State.reset.dev.ses.sesIdle = 60 ∧ State.reset.dev.mode = mBoot ∧ State.reset.dev.ses.openS = []
  ∧ (∀ gp : Fin 112, State.reset.dev.ports[gp].on = false ∧ State.reset.dev.ports[gp].powered = false)
  ∧ (∀ n : Fin 4, State.reset.dev.mot.tax[n].on = false) ∧ (∀ n : Fin 8, State.reset.dev.mot.aux[n].on = false)
  ∧ State.reset.dev.flt.outClass.val = 4
  ∧ (∀ gp < 112, ∀ n < 10240, State.reset.mem.byte (mapAddr gp n) = 0x14 ∧ State.reset.mem.bytes (rawAddr gp n) 2 = [0, 0])
  ∧ State.reset.mem.wf = true ∧ State.reset.pending = []

/-- Every command answers a next state; the one stop is a vendor's TAP instruction while the test pins are live, whose
effect the spec does not give (R413). -/
def Obligations.EveryCommandAnswers : Prop :=
  ∀ (c : Instr) (s : State),
    (∃ t, exec c s = .next t)
    ∨ (exec c s = .refused .vendorJtagInstruction ∧ s.dev.tmxLive = true ∧ ∃ n, c = .jtagTapAccess (.other n))

/-- No command changes the queue of the commands that wait behind it. -/
def Obligations.CommandsLeaveTheQueue : Prop :=
  ∀ (c : Instr) (s t : State), exec c s = .next t → t.pending = s.pending

/-- The OTP array changes only where the controller runs a request: in the rows OTP_PROGRAM_EXECUTE and
OTP_FINALISE_EXECUTE (R396, R402). -/
def Obligations.OnlyOtpExecutionsBurn : Prop :=
  ∀ (c : Instr) (s t : State), exec c s = .next t → (∀ burns m, c ≠ .otpProgramExecute burns m) →
    (∀ burns, c ≠ .otpFinaliseExecute burns) → t.rows = s.rows

/-- Only the commands that `mayWriteMemory` names change a byte of the memory windows or of the job cache. -/
def Obligations.OnlyMemoryCommandsWrite : Prop :=
  ∀ (c : Instr) (s t : State), exec c s = .next t → mayWriteMemory c = false → t.mem = s.mem

/-- Every step keeps the memory in its canonical form: addresses rising, nothing listed that reads as blank. -/
def Obligations.StepsKeepMemoryCanonical : Prop :=
  ∀ s t : State, s.mem.wf = true → step s = .next t → t.mem.wf = true

/-- No step clears a bit of the OTP array: a bit that reads solid 1 reads solid 1 ever after (R393, R396, R397). -/
def Obligations.OtpBitsStayBurned : Prop :=
  ∀ (s t : State) (row k : Nat), step s = .next t → (otpGet s.rows row).ones.getLsbD k = true →
    (otpGet t.rows row).ones.getLsbD k = true

/-- The rows of the model carry the opcodes, variants and mode sets of Table 6.2, written out here from the table, and
no two rows share an opcode and a variant. -/
def Obligations.CommandTable : Prop :=
  ∀ d : Dev, (commandRows.map fun r => ((r.spec d).opcode, (r.spec d).variant, (r.spec d).modes)) = [
    (0x00, 0, setA), (0x00, 1, setA), (0x01, 0, setA), (0x02, 0, setA), (0x04, 0, setN), (0x04, 1, setN),
    (0x11, 0, [mReady, mHalted]), (0x11, 1, setN), (0x11, 2, setO), (0x11, 3, setO), (0x11, 4, setO),
    (0x11, 5, setO), (0x11, 6, setO), (0x11, 7, setO), (0x12, 0, setA), (0x13, 0, setA), (0x20, 0, setA),
    (0x21, 0, setO), (0x22, 0, setO), (0x23, 0, setO), (0x30, 0, setO), (0x31, 0, setO), (0x32, 0, setA),
    (0x33, 0, setO), (0x33, 1, setO), (0x33, 2, setO), (0x40, 0, setO), (0x41, 0, setO), (0x42, 0, setA),
    (0x43, 0, [mPrint]), (0x44, 0, [mPrint]), (0x44, 1, [mPrint]), (0x45, 0, setA), (0x50, 0, setO),
    (0x51, 0, setO), (0x52, 0, setO), (0x53, 0, setO), (0x54, 0, setO), (0x55, 0, setA),
    (0x60, 0, [mCalibrate]), (0x60, 1, [mPrint]), (0x61, 0, setO), (0x61, 1, setO), (0x62, 0, setA),
    (0x63, 0, setA), (0x64, 0, setO), (0x65, 0, setO), (0x66, 0, [mCalibrate]), (0x70, 0, setO),
    (0x71, 0, setA), (0x72, 0, setO), (0x73, 0, setO), (0x80, 0, setO), (0x81, 0, setO), (0x82, 0, setO),
    (0x83, 0, setO), (0x84, 0, setO), (0x85, 0, setO), (0x86, 0, setA), (0x90, 0, setO), (0x91, 0, setO),
    (0x92, 0, setO), (0x92, 1, setO), (0x92, 2, setO), (0x93, 0, setO), (0x94, 0, setO), (0x94, 1, setO),
    (0x95, 0, setO), (0x96, 0, setO), (0x97, 0, setA), (0xA0, 0, setA), (0xA1, 0, setA), (0xA2, 0, setA),
    (0xA2, 1, setA), (0xB0, 0, setN), (0xB1, 0, [mReady, mService]), (0xB2, 0, [mReady, mService]),
    (0xC0, 0, [mTest]), (0xD0, 0, [mReady]), (0xE0, 0, setA), (0xE1, 0, setA), (0xE2, 0, setA)]
  ∧ (commandRows.map fun r => ((r.spec d).opcode, (r.spec d).variant)).Nodup
  ∧ (specSetMode.opcode, specSetMode.variant, specSetMode.modes) = (0x10, 0, setO)

/-- Steps 9 to 11 of Table 5.3 (R106, R138, R147, R451): for every row of Table 6.2, a command whose session's role, also
for the registers and rows it names, whose mode or whose length the row does not allow is answered with that step's
status and commits nothing else. SET_MODE, whose role is judged with its transition (Table 4.2), then lets the next mode
change go on. -/
def Obligations.RefusedCommandCommitsNothing : Prop :=
  (∀ r ∈ commandRows, ∀ (s : State) (p : Packet) (x : Session), Taken (r.spec s.dev) p x s →
    ((r.spec s.dev).role x (pktParams p) = false → exec (r.instr p) s = refused s p stRole noField)
    ∧ (∀ o, (r.spec s.dev).role x (pktParams p) = true → (r.spec s.dev).named s x (pktParams p) = some o →
      exec (r.instr p) s = refused s p stRole o)
    ∧ ((r.spec s.dev).role x (pktParams p) = true → (r.spec s.dev).named s x (pktParams p) = none →
      s.dev.judgedMode ∉ (r.spec s.dev).modes →
      exec (r.instr p) s = refused s p (if s.dev.judgedMode = mHalted then stHalted else stMode) noField)
    ∧ ((r.spec s.dev).role x (pktParams p) = true → (r.spec s.dev).named s x (pktParams p) = none →
      s.dev.judgedMode ∈ (r.spec s.dev).modes →
      (r.spec s.dev).len (pktParams p) = false → exec (r.instr p) s = refused s p stBadLength 10))
  ∧ (∀ (s : State) (p : Packet) (x : Session) (d : Dev), Taken specSetMode p x s →
    (s.dev.judgedMode ∉ specSetMode.modes →
      d = s.dev.answer p (if s.dev.judgedMode = mHalted then stHalted else stMode) noField [] →
      exec (.setMode p) s = .next { s with dev := d.nextMode d.ses.work.length })
    ∧ (s.dev.judgedMode ∈ specSetMode.modes → specSetMode.len (pktParams p) = false →
      d = s.dev.answer p stBadLength 10 [] →
      exec (.setMode p) s = .next { s with dev := d.nextMode d.ses.work.length }))

/-- Steps 1 to 7 of Table 5.3 for a packet that arrives as a row (R106): for every row of Table 6.2 a packet of bad
length or CRC is discarded and counted in SES_DROP_CRC, one longer in its Length field than received in SES_DROP_LEN, and
over PCIe its CQ slot is marked Discarded (R124); a bad header is answered; one that passes waits for its turn while the work
queue holds a command to execute or the round robin serves another first (R184, R185, R194), as does a row whose command has
been received before. Over PCIe a packet arrives with its SQ slot, which is taken, and none does while the PZ8 takes no slot
of the queue pair (R124, R196); with the receive buffers of UDP or SPI full it is lost and counted (R196, R130). With the
intake closed nothing is taken; in FALLOW a packet wakes the part and is lost (R100). The SET_MODE row lets the next mode
change go on besides. That a row stands for the arrival of its packet, its turn and its execution is the model's deduction
(log 24); what `Dev.front` does of a packet rests on choices of the model too: the slot of a refusal's reply (log 46), the
place of the epoch check (log 51) and the fetching of a queue pair without a session (log 52). -/
def Obligations.RejectedPacketsCommitNothing : Prop :=
  ∀ (s : State) (p : Packet) (c : Instr) (sp : CmdSpec) (after : Dev → Dev),
    (∃ r ∈ commandRows, c = r.instr p ∧ sp = r.spec s.dev ∧ after = id)
      ∨ (c = .setMode p ∧ sp = specSetMode ∧ after = fun d => d.nextMode d.ses.work.length) →
    s.dev.linkOn p.via = true → p.opcode = sp.opcode → p.variant = sp.variant →
    (s.dev.mode = mFallow →
      exec c s = .next { s with dev := after (s.dev.wakeFrom (viaWake p.via) true).dropDoorbell })
    ∧ (s.dev.mode ≠ mFallow → s.dev.intakeOpen = false → exec c s = .next { s with dev := after s.dev })
    ∧ (s.dev.mode ≠ mFallow → s.dev.intakeOpen = true → s.dev.queued p = false →
      (∀ q, p.via = .pcie q → s.dev.takesSlot q = false → exec c s = .next { s with dev := after s.dev })
      ∧ (∀ ip port, p.via = .udp ip port → 16 ≤ s.dev.ses.ethRx.length → exec c s = .next { s with dev := after s.dev.dropNet })
      ∧ (p.via = .spi → 2 ≤ s.dev.ses.spiRx.length → exec c s = .next { s with dev := after s.dev.dropSpi }))
    ∧ (s.dev.mode ≠ mFallow → s.dev.intakeOpen = true → s.dev.queued p = true → s.dev.taken p = false →
      s.dev.current ≠ none ∨ (∀ e, s.dev.nextCommand = some e → e.packet ≠ p) →
      exec c s = .next { s with dev := after s.dev })
    ∧ (∀ d : Dev, s.dev.mode ≠ mFallow → s.dev.intakeOpen = true → s.dev.queued p = false → arrivesOn s.dev p d →
      (pktStep1 p = false →
        exec c s = .next { s with
          dev := after (discardedOn d p 0 (d.modSes fun t => { t with dropCrc := satInc t.dropCrc })) })
      ∧ (pktStep1 p = true → pktStep3 p = some none →
        exec c s = .next { s with
          dev := after (discardedOn d p p.seq (d.modSes fun t => { t with dropLen := satInc t.dropLen })) })
      ∧ (∀ code offset, pktStep1 p = true → pktStep3 p = some (some (code, offset)) →
        exec c s = .next { s with dev := after (d.refusePacket p code offset) })
      ∧ (pktStep1 p = true → pktStep3 p = none → (d.front p).2 = false →
        exec c s = .next { s with dev := after (d.front p).1 })
      ∧ (∀ e, (d.front p).2 = true → e = (d.front p).1.enqueue p →
        e.current ≠ none ∨ (∀ w, e.nextCommand = some w → w.packet ≠ p) →
        exec c s = .next { s with dev := after e }))

/-- A command that names a port, a die, a swath, an encoder channel, a DMA channel or an axis that the variant does not
have is refused with ST_BAD_PARAM at that field, before any effect (R6): in the first byte of its parameters, in the
Unit field of RESET, or in a port map. -/
def Obligations.AbsentUnitsAreRefused : Prop :=
  ∀ (s : State) (p : Packet) (x : Session),
    (∀ r ∈ portRows ++ nozzleRows, Judged (r.spec s.dev) p x s → s.dev.hasPort (par p 0 1) = false →
      exec (r.instr p) s = refused s p stBadParam 24)
    ∧ (∀ r ∈ dmaRows, Judged (r.spec s.dev) p x s → 32 ≤ par p 0 1 → exec (r.instr p) s = refused s p stBadParam 24)
    ∧ (∀ r ∈ encoderRows, Judged (r.spec s.dev) p x s → 4 ≤ par p 0 1 → exec (r.instr p) s = refused s p stBadParam 24)
    ∧ (∀ r ∈ transportRows, (r.spec s.dev).opcode ≠ 0x85 → Judged (r.spec s.dev) p x s →
      s.dev.hasTax = false ∨ 4 ≤ par p 0 1 → exec (r.instr p) s = refused s p stBadParam 24)
    ∧ (∀ r ∈ auxiliaryRows, Judged (r.spec s.dev) p x s → s.dev.hasAux = false ∨ 8 ≤ par p 0 1 →
      exec (r.instr p) s = refused s p stBadParam 24)
    ∧ (∀ r ∈ scanRows, Judged (r.spec s.dev) p x s → s.dev.mapPresent (par p 0 14) = false →
      exec (r.instr p) s = refused s p stBadParam 24)
    ∧ (Judged specSwathDefine p x s → 16 ≤ par p 0 1 → exec (.swathDefine p) s = refused s p stBadParam 24)
    ∧ (Judged specPatternPrint p x s → 16 ≤ par p 0 1 ∨ s.dev.swaths[Fin.ofNat 16 (par p 0 1)].defined = false →
      exec (.patternPrint p) s = refused s p stBadParam 24)
    ∧ (Judged (specReset 2 setO rOperator 2) p x s → s.dev.hasPort (par p 0 2) = false →
      exec (.resetPort p) s = refused s p stBadParam 24)
    ∧ (Judged (specReset 3 setO rOperator 2) p x s → 16 ≤ par p 0 2 → exec (.resetSwath p) s = refused s p stBadParam 24)
    ∧ (Judged (specReset 4 setO rOperator 2) p x s → s.dev.hasTax = false ∨ 4 ≤ par p 0 2 →
      exec (.resetTransportAxis p) s = refused s p stBadParam 24)
    ∧ (Judged (specReset 5 setO rOperator 2) p x s → s.dev.hasAux = false ∨ 8 ≤ par p 0 2 →
      exec (.resetAuxiliaryAxis p) s = refused s p stBadParam 24)
    ∧ (Judged (specReset 7 setO rService 2) p x s → s.dev.hasDie (par p 0 2) = false →
      exec (.resetFurrowDie p) s = refused s p stBadParam 24)

/-- R12, whole: an absent furrow die has no Tine link; its window, registers, bit aliases and memory alike, reads zero,
and a write to it, through a SET or CLEAR alias too, is dropped and counted in MEM_WRDROP. A part held at the memory
test answers no read of a memory window (R85). -/
def Obligations.AbsentDieReadsZero : Prop :=
  ∀ (s : State) (f : Fin 7), s.dev.hasDie f.val = false →
    s.dev.tineUp f = false
    ∧ (∀ (m : Master) (r : BusRead) (d : Dev) (priv : Bool), s.dev.reach m false = (d, some priv) →
      (∀ x ∈ d.mr.posted, x.block ≠ .die f) → d.hasDie f.val = false → r.address.bar2 = false →
      r.address.offset.toNat / 2 ^ 24 = f.val + 1 → r.address.offset.toNat ≤ barTop →
      (isWindow r.address.offset.toNat = true → r.words = 1 ∧ d.sys.bootFail ≠ 4) →
      exec (.latchingRegisterRead m r) s = .next { s with
        dev := d.emit (if m = .spi then .spiOut (0xA5 :: leBytes 4 0) else .value 0) })
    ∧ (∀ (m : Master) (a v : Word) (be : BitVec 4) (d : Dev) (priv : Bool), s.dev.reach m true = (d, some priv) →
      d.hasDie f.val = false → a.toNat / 2 ^ 24 = f.val + 1 → a.toNat ≤ barTop →
      (isWindow a.toNat = false → exec (.registerWrite m { offset := a } v be) s = .next { s with dev := d.memWrDrop })
      ∧ (isWindow a.toNat = true → exec (.memoryWindowWrite m a [(v, be)]) s = .next { s with dev := d.memWrDrop })
      ∧ (isAlias a.toNat = true → exec (.aliasWrite m a v be) s = .next { s with dev := d.memWrDrop }))

/-- R84, whole: step 8 runs only when COLD_SCAN of OEM_CONFIG is 1; after the cold start every nozzle-map byte reads 0x14
and every raw entry 0, and a skipped step 8 leaves them so. -/
def Obligations.ColdScanOnlyWhenAsked : Prop :=
  (∀ (s t : State) (c : ColdStart), s.dev.sys.held = true → s.dev.sys.porstN = false →
    exec (.coldStart c) s = .next t → ∀ gp < 112, ∀ n < 10240,
      t.mem.byte (mapAddr gp n) = 0x14 ∧ t.mem.byte (rawAddr gp n) = 0 ∧ t.mem.byte (rawAddr gp n + 1) = 0)
  ∧ (∀ (d : Dev) (rows : OtpRows) (fails : BitVec 6),
    (d.applyFeatures rows fails).otp.coldScan = getB 9 (oemRow rows fails 0))
  ∧ (∀ (s : State) (ids : List (Fin 112 × DWord)), s.dev.sys.held = false → s.dev.mode = mBoot →
    s.dev.sys.bootStep = 7 → s.dev.halting = false →
    (s.dev.otp.coldScan = false → exec (.headPwrWait ids) s = .next { s with
      dev := ((s.dev.readIds ids).atStep 8).toReady })
    ∧ ∀ d, d = ((s.dev.readIds ids).atStep 8).modSys (fun x => { x with coldScan := true }) →
      s.dev.otp.coldScan = true → exec (.headPwrWait ids) s = .next { s with
        dev := (((fins 112).filter fun gp => d.ports[gp].powered && d.ports[gp].headValid).foldl
          (fun d gp => d.beginScan 1 (scanLimit d.ports[gp].headId) true gp) d).toReady })

/-- R86, whole: WRST_N during the BOOT of a cold start changes nothing but the level of the pin, as it falls and as it
rises; during the BOOT of a warm start its fall discards the scans and the requests of the OTP controller and kills the
outputs, and its rise begins the warm start again. -/
def Obligations.WrstDuringBoot : Prop :=
  (∀ (s : State) (w : WarmStart), s.dev.sys.held = false → s.dev.mode = mBoot → s.dev.sys.warm = false →
    exec .wrstNFall s = .next { s with dev := s.dev.modSys fun x => { x with wrstN := false } }
    ∧ (s.dev.sys.wrstN = false →
      exec (.warmStart w) s = .next { s with dev := s.dev.modSys fun x => { x with wrstN := true } }))
  ∧ (∀ (s : State) (w : WarmStart), s.dev.sys.held = false → s.dev.mode = mBoot → s.dev.sys.warm = true →
    exec .wrstNFall s = .next { s with
      dev := ((s.dev.modSys fun x => { x with wrstN := false }).modOtp fun x => { x with queue := [] }).dropScans.killOutputs }
    ∧ (s.dev.sys.wrstN = false → exec (.warmStart w) s = .next { s with
      dev := s.dev.warmStart s.rows 1 w
      mem := s.mem.clear isLineByte }))

/-- R123, whole: what the registers of a queue pair take while its Enable is 1. A base register drops and counts the
write. SES_QP_CTL takes one that keeps Entries, drops and counts one that changes Entries with Enable 1, and takes one
that clears Enable whole, which closes the session bound to the queue pair. -/
def Obligations.EnabledQueuePairWrites : Prop :=
  ∀ (s : State) (m : Master) (d : Dev) (priv : Bool) (q : Fin 256) (v : Word) (e : Nat),
    s.dev.reach m true = (d, some priv) → d.ses.qp[q].enable = true →
    e = (if within 2 65 (v.toNat % 128) then v.toNat % 128 else 17) →
    (∀ a : Word, ∀ o ∈ [0x00, 0x04, 0x08, 0x0C], a.toNat = 0x4000 + 0x20 * q.val + o →
      exec (.registerWrite m { offset := a } v 0xF) s = .next { s with dev := d.dropDoorbell })
    ∧ (v.getLsbD 8 = true → e = d.ses.qp[q].entries.toNat →
      exec (.sesQpCtlWrite m q v) s = .next { s with
        dev := d.modSes fun t => { t with qp := vmod t.qp q fun y => { y with vector := v.extractLsb' 16 9 } } })
    ∧ (v.getLsbD 8 = true → e ≠ d.ses.qp[q].entries.toNat →
      exec (.sesQpCtlWrite m q v) s = .next { s with dev := d.dropDoorbell })
    ∧ (v.getLsbD 8 = false → ∃ t, exec (.sesQpCtlWrite m q v) s = .next t
      ∧ t.dev.ses.qp[q].enable = false ∧ t.dev.ses.qp[q].entries.toNat = e
      ∧ t.dev.ses.qp[q].vector = v.extractLsb' 16 9 ∧ ∀ x ∈ t.dev.ses.openS, x.via ≠ .pcie q)

/-- R293, whole: the raw value of a code, in 0.1 Ω: 0xFFFF from 15,292 on, else c × 15,000 ÷ 32,768 rounded to the
nearest, halves up, and at least 1; it lies from 1 to 7,000. A foreground scan stores it; after a cold start, before
anything is measured, a raw entry is 0. -/
def Obligations.RawValueOfCode : Prop :=
  (∀ c : BitVec 14, (15292 ≤ c.toNat → rawOf c.toNat = 0xFFFF)
    ∧ ∀ r, c.toNat < 15292 → (2 * r - 1) * 32768 ≤ 2 * (c.toNat * 15000) →
      2 * (c.toNat * 15000) < (2 * r + 1) * 32768 → rawOf c.toNat = max 1 r ∧ within 1 7000 (max 1 r))
  ∧ (∀ (s : State) (gp : Fin 112) (c : BitVec 14) (closed : Bool) (n : Nat), s.dev.ports[gp].scan.state = 1 →
    s.dev.ports[gp].scan.next = n → n < 10240 → s.dev.mr.badWords = [] → s.mem.wf = true →
    ∃ t, exec (.scanElement gp c closed) s = .next t
      ∧ t.mem.bytes (rawAddr gp.val n) 2 = leBytes 2 (rawOf c.toNat))
  ∧ (∀ (s t : State) (c : ColdStart), s.dev.sys.held = true → s.dev.sys.porstN = false →
    exec (.coldStart c) s = .next t → ∀ gp < 112, ∀ n < 10240, t.mem.bytes (rawAddr gp n) 2 = [0, 0])

/-- R376, whole: the IDs that name a fault source. All 256 hub IDs and the 64 IDs of each present furrow die are in use,
704 with seven furrow dies; any other ID is refused with ST_BAD_PARAM at the ID. -/
def Obligations.FaultSourceIds : Prop :=
  (∀ (d : Dev) (id : Nat), d.sourceInUse id = true ↔
    id ≤ 0xFF ∨ ∃ f : Fin 7, d.hasDie f.val = true ∧ within (0x100 + 0x40 * f.val) (0x13F + 0x40 * f.val) id)
  ∧ (∀ d : Dev, d.furrowDies = 7 → ((List.range 1024).filter d.sourceInUse).length = 704)
  ∧ (∀ (s : State) (p : Packet) (x : Session), s.dev.sourceInUse (par p 0 2) = false →
    (Judged specFltClass p x s → exec (.fltClass p) s = refused s p stBadParam 24)
    ∧ (Judged specFltForce p x s → exec (.fltForce p) s = refused s p stBadParam 24))

/-- EVENT_SEQ and EVENT_ACK (R132, R425): every occurrence adds one to its class's number, modulo 2^32, and to no other;
a class is pending while the two differ; an acknowledgement that lies after the number is dropped and counted, any other
is held, and raises the vector again where the class is still pending and a PCIe session subscribes it. A warm start and
a reset zero both. -/
def Obligations.EventNumbersCount : Prop :=
  (∀ (d : Dev) (cls k : Fin 16) (kind source : Nat) (data : List Byte),
    (d.occur cls kind source data).ev.seq[k] = d.ev.seq[k] + (if k = cls then 1 else 0)
    ∧ (d.occur cls kind source data).ev.ack[k] = d.ev.ack[k]
    ∧ (d.ev.pendingClass k.val = true ↔ d.ev.seq[k] ≠ d.ev.ack[k]))
  ∧ (∀ (s : State) (m : Master) (cls : Fin 16) (v : Word) (d e : Dev) (priv : Bool),
    s.dev.reach m true = (d, some priv) →
    e = d.modEv (fun x => { x with ack := x.ack.set cls v }) →
    (after v d.ev.seq[cls] = true → exec (.eventAckWrite m cls v) s = .next { s with dev := d.memWrDrop })
    ∧ (after v d.ev.seq[cls] = false →
      (v = d.ev.seq[cls] ∨ (∀ x ∈ d.ses.openS, x.subs.getLsbD cls.val = true → viaPcie x.via = false)) →
      exec (.eventAckWrite m cls v) s = .next { s with dev := e })
    ∧ (after v d.ev.seq[cls] = false → v ≠ d.ev.seq[cls] →
      (∃ x ∈ d.ses.openS, x.subs.getLsbD cls.val = true ∧ viaPcie x.via = true) →
      exec (.eventAckWrite m cls v) s = .next { s with dev := e.raise (256 + cls.val) }))
  ∧ (∀ (d : Dev) (lastStart : BitVec 2) (w : WarmStart) (k : Fin 16),
    (d.warmClear lastStart w).ev.seq[k] = 0 ∧ (d.warmClear lastStart w).ev.ack[k] = 0
    ∧ (d.holdReset false).ev.seq[k] = 0 ∧ (d.holdReset false).ev.ack[k] = 0)

/-- A critical field reads as the bitwise majority of its three copies, and a scrub leaves the value it reads in all
three (R427, R428): the reset value takes the place of one the field never takes. -/
def Obligations.CriticalFieldsVote : Prop :=
  (∀ (n : Nat) (t : Tv n) (k : Nat), t.val.getLsbD k =
    (t.a.getLsbD k && t.b.getLsbD k || t.a.getLsbD k && t.c.getLsbD k || t.b.getLsbD k && t.c.getLsbD k))
  ∧ (∀ (n : Nat) (reset : BitVec n) (ok : BitVec n → Bool) (t : Tv n),
    (ok t.val = true → scrubTv reset ok t = { a := t.val, b := t.val, c := t.val })
    ∧ (ok t.val = false → scrubTv reset ok t = { a := reset, b := reset, c := reset }))

/-- The starts complete (R53, R54, R82 to R91, Tables 4.5, 4.7, 4.9). A fall of PORST_N or of a rail holds the part in
reset; a rise, or the rails' return, runs the cold start, with every memory bank at its reset contents; HEAD_PWR_WAIT
ends step 7; WRST_N acts outside the BOOT of a cold start; WARM_START runs the warm start's steps. -/
def Obligations.StartRowsComplete : Prop :=
  (∀ (s : State), exec .porstNFall s = .next { s with dev := s.dev.holdReset false }
    ∧ exec .railBelowThreshold s = .next { s with dev := s.dev.holdReset s.dev.sys.porstN }
    ∧ (s.dev.holdReset false).sys.held = true ∧ (s.dev.holdReset false).mode = mBoot)
  ∧ (∀ (s : State) (c : ColdStart) (d : Dev), s.dev.sys.held = true → s.dev.sys.refLost = 0 →
    d = ((s.dev.modSys fun x =>
      { x with
        held := false, porstN := true, mgmtSec := c.mgmtSec, hostIf := c.hostIf, packageP65 := c.packageP65
        supplyOrder := c.orderBroken, coldArgs := some c }).modSes fun t => { t with epoch := c.epoch }) →
    (s.dev.sys.porstN = false → exec (.coldStart c) s = .next { s with
      dev := (((d.enterMode mBoot).atStep 1).modSys fun x => { x with coldArgs := none }).coldFrom2 s.rows c
      mem := {} })
    ∧ (s.dev.sys.porstN = true → exec (.railsInRange c) s = .next { s with
      dev := (((d.enterMode mBoot).atStep 1).modSys fun x => { x with coldArgs := none }).coldFrom2 s.rows c
      mem := {} }))
  ∧ (∀ (s : State) (ids : List (Fin 112 × DWord)), s.dev.sys.held = false → s.dev.mode = mBoot →
    s.dev.sys.bootStep = 7 → s.dev.halting = false →
    exec (.headPwrWait ids) s = .next { s with dev := ((s.dev.readIds ids).atStep 8).coldScan })
  ∧ (∀ (s : State), (s.dev.sys.held = true ∨ s.dev.coldBoot = true →
      exec .wrstNFall s = .next { s with dev := s.dev.modSys fun x => { x with wrstN := false } })
    ∧ (s.dev.sys.held = false → s.dev.coldBoot = false →
      exec .wrstNFall s = .next { s with
        dev := ((s.dev.modSys fun x => { x with wrstN := false }).modOtp fun x =>
          { x with queue := [] }).dropScans.killOutputs }))
  ∧ (∀ (s : State) (w : WarmStart), s.dev.sys.held = false → s.dev.coldBoot = false →
    (s.dev.sys.wrstN = false → exec (.warmStart w) s = .next { s with
      dev := s.dev.warmStart s.rows 1 w
      mem := s.mem.clear isLineByte })
    ∧ (s.dev.sys.wrstN = true → s.dev.sys.warmDue = true → exec (.warmStart w) s = .next { s with
      dev := s.dev.warmStart s.rows 2 w
      mem := s.mem.clear isLineByte }))

/-- The references, PCIe resets and pace complete (R24 to R26, R58, R87, R88). A lost reference raises its source; its
return ends the cause, and lets a cold start held at step 1 go on once both are back, unless a reaction has ended it (R384).
PE_PERST_N rises and falls, a
function-level reset of PF1 drops the sessions over PCIe. A pace window stores every present die's ratio. -/
def Obligations.ReferenceRowsComplete : Prop :=
  (∀ (s : State) (ft : Bool), s.dev.sys.held = false → s.dev.sys.refLost &&& refBit ft = 0 →
    s.dev.sys.coldArgs = none → exec (.referenceLoss ft) s = .next { s with
      dev := (s.dev.modSys fun x => { x with refLost := x.refLost ||| refBit ft }).detect (idRef ft) })
  ∧ (∀ (s : State) (ft : Bool) (d : Dev),
    d = (s.dev.modSys fun x => { x with refLost := x.refLost &&& ~~~(refBit ft) }).causeGone (idRef ft) →
    (d.sys.coldArgs = none → exec (.referenceRestored ft) s = .next { s with dev := d })
    ∧ (∀ c, d.sys.coldArgs = some c → d.sys.refLost ≠ 0 ∨ d.halting = true →
      exec (.referenceRestored ft) s = .next { s with dev := d })
    ∧ (∀ c, d.sys.coldArgs = some c → d.sys.refLost = 0 → d.halting = false → exec (.referenceRestored ft) s = .next { s with
      dev := (d.modSys fun x => { x with bootFail := 0, coldArgs := none }).coldFrom2 s.rows c
      mem := {} }))
  ∧ (∀ (s : State), exec .pePerstNRise s = .next { s with dev := s.dev.modPci fun x => { x with perst := true } })
  ∧ (∀ (s : State) (d : Dev), s.dev.pci.perst = true →
    d = s.dev.modPci (fun x => { x.noMsix with perst := false, speed := 0, width := 0 }) →
    (d.sys.held = true ∨ d.coldBoot = true → exec .pePerstNFall s = .next { s with dev := d })
    ∧ (d.sys.held = false → d.coldBoot = false → exec .pePerstNFall s = .next { s with
      dev := (if d.pcieOff then d else d.modPci fun x =>
        { x with perstFalls := satTo 0xFFFF x.perstFalls }).dropPcie.detect 0x012 }))
  ∧ (∀ (s : State), s.dev.pcieUp = true → exec .pf1Flr s = .next { s with
    dev := ((s.dev.wakeFrom 2 true).modPci fun x => { x.noMsix with flrs := satTo 0xFFFF x.flrs }).dropPcie })
  ∧ (∀ (s : State) (r pace : Vector (BitVec 16) 8), s.dev.sys.held = false → s.dev.mode ≠ mFallow →
    (∀ k : Fin 8, pace[k] = if s.dev.dieHere k.val then r[k] else 0) →
    exec (.paceWindow r) s = .next { s with
      dev := ((s.dev.modSys fun x => { x with pace := pace }).followPace).refreshRates })
/-- SET_MODE completes: behind no other mode change, the mode the part is in already is answered at once; a transition
Table 4.2 does not list is ST_MODE, a listed one the session's role does not allow ST_ROLE; otherwise what the mode being
left has going on stops, each swath at its own next line boundary (R79), and once every row stands at one the new mode is
entered, or the command waits for that. Then the SET_MODEs waiting behind it take their turns. That with every row firing
nothing stops before the first of them ends its line is the model's own choice (log 58). -/
def Obligations.SetModeCompletes : Prop :=
  ∀ (s : State) (p : Packet) (x : Session) (n : Nat) (d : Dev) (old new : BitVec 4),
    Ready specSetMode p x s → par p 0 1 ∈ [2, 3, 4, 5, 7] → replyFits p x.macRequired 1 = true → s.dev.sys.changing = false →
    (∀ e ∈ s.dev.ses.work, e.park ≠ some .modeWait) → s.dev.ses.work.length = n + 1 →
    d = s.dev.finish p (.park .modeWait) → old = s.dev.mode → new = BitVec.ofNat 4 (par p 0 1) →
    (new = old →
      exec (.setMode p) s = .next { s with dev := (d.answer p stOk noField (leBytes 1 old.toNat)).nextMode n })
    ∧ (new ≠ old → modeListed old new = false →
      exec (.setMode p) s = .next { s with dev := (d.answer p stMode noField []).nextMode n })
    ∧ (modeListed old new = true → d.modeRole x old new = false →
      exec (.setMode p) s = .next { s with dev := (d.answer p stRole noField []).nextMode n })
    ∧ (modeListed old new = true → d.modeRole x old new = true → (d.leaveMode new).rowsStill = true →
      exec (.setMode p) s = .next { s with dev :=
        (((d.leaveMode new).arriveMode new).answer p stOk noField (leBytes 1 old.toNat)).nextMode n })
    ∧ (modeListed old new = true → d.modeRole x old new = true → (d.leaveMode new).rowsStill = false →
      exec (.setMode p) s = .next { s with dev := ((d.leaveMode new).finish p (.park (.modeChange old new))).nextMode n })

/-- ENTER_FALLOW completes when no job is armed, no axis enabled, no enabled port has keep-warm on and no DMA channel is
active: it is answered, then the sessions close and the part falls asleep. A wake source, of a host interface that is strapped
on, brings READY back, is recorded and leaves every encoder channel unreferenced. -/
def Obligations.FallowEnteredAndLeft : Prop :=
  (∀ (s : State) (p : Packet) (x : Session), Ready specEnterFallow p x s → s.dev.mayFallow = true →
    ∃ r, r = (s.dev.answer p stOk noField []).fallow s.rows s.mem
      ∧ exec (.enterFallow p) s = .next { s with dev := r.1, mem := r.2 })
  ∧ (∀ (s : State) (source : BitVec 4), s.dev.mode = mFallow → s.dev.sys.held = false → within 1 4 source.toNat →
    (source = 2 → s.dev.linkOn (.pcie 0) = true) → (source = 3 → s.dev.linkOn (.udp 0 0) = true) →
    ∃ t, exec (.fallowWake source) s = .next t
      ∧ t.dev.mode = mReady ∧ t.dev.sys.wakeSource = source ∧ t.dev.pci.power = 0
      ∧ (∀ (ch : Fin 4) (k : Fin 8), (t.dev.pos.enc[ch].copies[k]).unreferenced = true
          ∧ (t.dev.pos.enc[ch].copies[k]).count = (s.dev.pos.enc[ch].copies[k]).count)
      ∧ t.dev.ports = s.dev.ports ∧ t.dev.mot = s.dev.mot ∧ t.dev.flt = s.dev.flt ∧ t.mem = s.mem ∧ t.rows = s.rows)

/-- The eight forms of RESET complete. Variant 0 is answered, then a warm start is due, the intake is closed and the requests
of the OTP controller are discarded (R404);
variant 1 is answered, then the command processor starts over; the unit resets stop the unit, discard what it had
queued and let it leave CONTAIN, a port, a swath and a furrow die once the lines being fired have ended, a furrow die
also once its copies agree with the hub's; a session is closed with cause 1. That variant 6 of the sender's own session is
answered before it closes (log 25), and variant 7 only once the copies agree (log 29), is the model's deduction. -/
def Obligations.ResetCommandsComplete : Prop :=
  (∀ (s : State) (p : Packet) (x : Session), Ready (specReset 0 [mReady, mHalted] rService 0) p x s →
    s.dev.axisOn = false →
    exec (.resetWarm p) s = .next { s with
      dev := (((s.dev.answer p stOk noField []).modSes fun t => { t with running := false }).modOtp fun y =>
          { y with queue := [] }).modSys fun y => { y with warmDue := true } })
  ∧ (∀ (s : State) (p : Packet) (x : Session), Ready (specReset 1 setN rService 0) p x s →
    exec (.resetControlPlane p) s = .next { s with dev := (s.dev.answer p stOk noField []).cpRestart })
  ∧ (∀ (s : State) (p : Packet) (x : Session) (gp : Fin 112), Ready (specReset 2 setO rOperator 2) p x s →
    par p 0 2 = gp.val → s.dev.hasPort gp.val = true → s.dev.dieResetting gp = false →
    ∃ d, d = s.dev.beginReset (.port gp)
      ∧ exec (.resetPort p) s = if d.unitStill (.port gp) then answered s p (d.endReset (.port gp)) []
        else .next { s with dev := d.finish p (.park (.unitReset (.port gp))) })
  ∧ (∀ (s : State) (p : Packet) (x : Session) (w : Fin 16), Ready (specReset 3 setO rOperator 2) p x s →
    par p 0 2 = w.val → (∀ gp ∈ s.dev.swathPorts w, s.dev.dieResetting gp = false) →
    ∃ d, d = s.dev.beginReset (.swath w)
      ∧ exec (.resetSwath p) s = if d.unitStill (.swath w) then answered s p (d.endReset (.swath w)) []
        else .next { s with dev := d.finish p (.park (.unitReset (.swath w))) })
  ∧ (∀ (s : State) (p : Packet) (x : Session) (n : Fin 4), Ready (specReset 4 setO rOperator 2) p x s →
    par p 0 2 = n.val → s.dev.hasTax = true →
    exec (.resetTransportAxis p) s = answered s p ((s.dev.taxDisable n).leaveContain (.transport n)) [])
  ∧ (∀ (s : State) (p : Packet) (x : Session) (n : Fin 8), Ready (specReset 5 setO rOperator 2) p x s →
    par p 0 2 = n.val → s.dev.hasAux = true →
    exec (.resetAuxiliaryAxis p) s = answered s p (((s.dev.auxOff n).dropAux n).leaveContain (.aux n)) [])
  ∧ (∀ (s : State) (p : Packet) (x y : Session), Ready specResetSession p x s → within 1 255 (par p 0 2) →
    s.dev.session? (par p 0 2) = some y →
    exec (.resetSession p) s =
      if par p 0 2 = x.id.toNat then .next { s with dev := (s.dev.answer p stOk noField []).closeSession y.id 1 }
      else answered s p (s.dev.closeSession y.id 1) [])
  ∧ (∀ (s : State) (p : Packet) (x : Session) (f : Fin 7), Ready (specReset 7 setO rService 2) p x s →
    par p 0 2 = f.val → s.dev.hasDie f.val = true → s.dev.dies[f].resetting = false →
    ∃ d, d = (((s.dev.modDie f fun y => { y with resetting := true }).beginReset (.die f)).retrain f).resyncDie f
      ∧ exec (.resetFurrowDie p) s =
        if d.dieSyncing f || !d.unitStill (.die f) then .next { s with dev := d.finish p (.park (.dieReset f)) } else answered s p (d.dieDone f) [])


/-- The detections that come from outside complete (R377, R386, R388, R389, R92, R94). FAULT_DETECTION confirms a source in
use that is not one only FLT_FORCE raises nor that of an input which is not read: TINE_LINK takes its die's link down, PCIE_AER counts an uncorrectable error,
TEMP_CRIT stops its port's rows.
FAULT_CAUSE_GONE ends a lasting cause. FAULT_INPUT_CHANGE makes the input's source follow its pins. CP_WDOG raises its
source and restarts the control plane, CP_FAIL only raises its source. -/
def Obligations.FaultRowsComplete : Prop :=
  (∀ (s : State) (id : Nat), s.dev.sys.held = false → forcedOnly id = false → s.dev.sourceInUse id = true →
    (s.dev.inputRead id = true → id ≠ 0x011 → (∀ f : Fin 7, id ≠ idDie f.val oTineLink) →
      exec (.faultDetection id) s = .next { s with dev := (s.dev.detect id).afterCrit id })
    ∧ (s.dev.inputRead id = false → exec (.faultDetection id) s = .next s))
  ∧ (∀ (s : State), s.dev.sys.held = false → s.dev.sourceInUse 0x011 = true →
    exec (.faultDetection 0x011) s = .next { s with
      dev := (if s.dev.pcieOff then s.dev else s.dev.modPci fun x =>
        { x with uncorrectable := satTo 0xFFFF x.uncorrectable }).detect 0x011 })
  ∧ (∀ (s : State) (f : Fin 7), s.dev.sys.held = false → s.dev.sourceInUse (idDie f.val oTineLink) = true →
    exec (.faultDetection (idDie f.val oTineLink)) s = .next { s with dev := s.dev.tineFail f })
  ∧ (∀ (s : State) (id : Nat), s.dev.sys.held = false → s.dev.sourceInUse id = true → occurrence id = false →
    exec (.faultCauseGone id) s = .next { s with dev := s.dev.causeGone id })
  ∧ (∀ (s : State) (gp : Fin 112) (f : Fin 7) (p n : Bool), s.dev.sys.held = false → s.dev.hasPort gp.val = true →
    s.dev.ports[gp].on = true → gp.val / 16 = f.val →
    exec (.faultInputChange (.head gp) p n) s = .next { s with
      dev := s.dev.inputCause (idPortFlt gp.val)
        (readInput (s.dev.flt.dualRail[f].getLsbD (gp.val % 16)) s.dev.flt.activeHigh[f] p n) })
  ∧ (∀ (s : State) (a : Fin 4) (p n : Bool), s.dev.sys.held = false → s.dev.hasTax = true →
    s.dev.mot.tax[a].on = true →
    exec (.faultInputChange (.gate a) p n) s = .next { s with
      dev := s.dev.inputCause (idTaxGate a.val)
        (readInput (s.dev.flt.gateDual.val.getLsbD a.val) (s.dev.flt.gateHigh.val == 1) p n) })
  ∧ (∀ (s : State) (g : Fin 16) (p n : Bool), s.dev.sys.held = false →
    s.dev.flt.gpioEnable.val.getLsbD g.val = true →
    exec (.faultInputChange (.gpio g) p n) s = .next { s with
      dev := s.dev.inputCause (idGpio g.val) (readInput false (s.dev.flt.gpioHigh.val.getLsbD g.val) p n) })
  ∧ (∀ (s : State) (p n : Bool), s.dev.sys.held = false →
    exec (.faultInputChange .estop p n) s = .next { s with
      dev := ((s.dev.modFlt fun x => { x with estop := some (p, n) }).inputCause 0x00E
        (readInput true false p n)).toReady })
  ∧ (∀ (s : State), s.dev.intakeOpen = true → s.dev.mode ≠ mFallow →
    exec .cpWdog s = .next { s with dev := (s.dev.detect 0x003).cpRestart })
  ∧ (∀ (s : State), s.dev.intakeOpen = true → s.dev.mode ≠ mFallow →
    exec .cpFail s = .next { s with dev := s.dev.detect 0x004 })

/-- REACTION_COMPLETE marks the records Complete once the outputs of the reaction in progress have stopped: a CONTAIN
goes on in its mode, a STOP or KILL ends in HALTED (R381, R384, R386). -/
def Obligations.ReactionCompletes : Prop :=
  (∀ (s : State) (r : Reaction), s.dev.flt.reaction = some r → r.cls ≤ 3 → s.dev.containDone = true →
    exec .reactionComplete s = .next { s with dev := s.dev.recordDone.outAfterContain })
  ∧ (∀ (s : State) (r : Reaction), s.dev.flt.reaction = some r → ¬ r.cls ≤ 3 → s.dev.stopDone = true →
    exec .reactionComplete s = .next { s with dev := s.dev.recordDone.toHalted }
      ∧ s.dev.recordDone.toHalted.mode = mHalted)

/-- The scrubbers and the links complete (R427, R428, R417, R29, R31, R241, R443). TV_SCRUB gives every triplicated
field its majority and counts what it corrected; PATROL_SCRUB corrects and counts a word with one bit in error, or records and
raises one it cannot correct, also where the word's error was there before; a Tine flit frees a credit, and lets the answer
that waited longest for it go, a bad code group or a missing acknowledgement fails the link; the
management port and the PCIe link come and go. -/
def Obligations.HealthRowsComplete : Prop :=
  (∀ (s : State) (dies : List (Fin 7 × Nat × Nat)), s.dev.sys.held = false →
    dies = (fins 7).map (fun f => (f, s.dev.dieVotes f)) →
    exec .tvScrub s = .next { s with
      dev := dies.foldl (fun d x => d.raiseVotes ⟨x.1.val + 1, by omega⟩ x.2)
        (s.dev.scrubbed.raiseVotes 0 s.dev.hubVotes) })
  ∧ (∀ (s : State) (die : Fin 8) (bank : BitVec 4) (off : Word), s.dev.sys.held = false → s.dev.mode ≠ mFallow →
    s.dev.dieHere die.val = true → off.toNat < bankBytes die.val bank.toNat → off.toNat % 8 = 0 →
    ((die.val, bank.toNat, off.toNat) ∉ s.dev.mr.badWords →
      ((die.val, bank.toNat, off.toNat) ∉ s.dev.mr.flipped → exec (.patrolScrub die bank off .clean) s = .next s)
      ∧ ((die.val, bank.toNat, off.toNat) ∈ s.dev.mr.flipped →
        exec (.patrolScrub die bank off .clean) s = .next { s with
          dev := s.dev.correct (die.val, bank.toNat, off.toNat) })
      ∧ exec (.patrolScrub die bank off .corrected) s = .next { s with
          dev := s.dev.correct (die.val, bank.toNat, off.toNat) })
    ∧ exec (.patrolScrub die bank off .uncorrectable) s = .next { s with dev := s.dev.foundBad die bank off.toNat }
    ∧ (∀ r, (die.val, bank.toNat, off.toNat) ∈ s.dev.mr.badWords →
      exec (.patrolScrub die bank off r) s = .next { s with dev := s.dev.foundBad die bank off.toNat }))
  ∧ (∀ (s : State) (f : Fin 7) (toHub data : Bool), s.dev.tineUp f = true →
    (toHub = false ∨ data = true ∨ s.dev.dies[f].ctrlWaitUp = [] →
      exec (.tineFlit f toHub data .flit) s = .next { s with dev := s.dev.modDie f fun x => x.credit toHub data })
    ∧ (∀ m ms, s.dev.dies[f].ctrlWaitUp = m :: ms → exec (.tineFlit f true false .flit) s = .next { s with
        dev := (s.dev.modDie f fun x => x.credit true false).answerUp f m })
    ∧ exec (.tineFlit f toHub data .codeError) s = .next { s with
        dev := (s.dev.modDie f fun x => { x with codeErrors := satTo 0xFFFF x.codeErrors }).tineFail f })
  ∧ (∀ (s : State) (f : Fin 7), s.dev.tineUp f = true →
    exec (.tineAckTimeout f) s = .next { s with dev := s.dev.tineFail f })
  ∧ (∀ (s : State), s.dev.sys.held = false → s.dev.linkOn (.udp 0 0) = true →
    (s.dev.eth.link = false → exec (.sgmiiLinkChange true) s = .next { s with
      dev := (s.dev.modEth fun x => { x with link := true }).causeGone idEthLink })
    ∧ (s.dev.eth.link = true → exec (.sgmiiLinkChange false) s = .next { s with
      dev := (s.dev.modEth fun x => { x with link := false }).detect idEthLink }))
  ∧ (∀ (s : State) (speed : BitVec 4) (width : BitVec 6), s.dev.pcieUp = true → speed ≠ 0 →
    exec (.pcieLinkChange speed width) s = .next { s with
      dev := s.dev.modPci fun x => { x with speed := speed, width := width, down := false } })
  ∧ (∀ (s : State) (width : BitVec 6), s.dev.pcieUp = true →
    exec (.pcieLinkChange 0 width) s = .next { s with
      dev := (s.dev.modPci fun x => { x with speed := 0, width := 0, down := true }).hostLost })

/-- OTP_READ, OTP_PROGRAM and OTP_FINALISE complete, and the rows by which the controller executes a request. A read
answers 12 bytes a row, at once with no request queued and else behind those before it (R404); a request that role, data,
queue and locks allow joins the queue and is answered ST_QUEUED; the first request of the queue runs in its own row, behind
a read that OTP_CMD has started (R395), OTP kind 0 or 1 reports its status, the reads behind it run, and once the queue is empty the commands go on that waited to
write OTP_CMD. -/
def Obligations.OtpCommandsComplete : Prop :=
  (∀ (s : State) (p : Packet) (x : Session) (r : Dev × List Byte), Ready specOtpRead p x s → within 0 4095 (par p 0 2) →
    within 1 338 (par p 2 2) → replyFits p x.macRequired (12 * par p 2 2) = true → par p 0 2 + par p 2 2 - 1 ≤ 4095 →
    s.dev.otp.queue = [] →
    r = (s.dev.otpCmdDone s.rows).otpReadRows s.rows (decide (rService ≤ x.role)) ((List.range (par p 2 2)).map (par p 0 2 + ·)) →
    replyFits p x.macRequired r.2.length = true →
    exec (.otpRead p) s = answered s p r.1 r.2)
  ∧ (∀ (s : State) (p : Packet) (x : Session) (req : OtpReq), Ready specOtpRead p x s → within 0 4095 (par p 0 2) →
    within 1 338 (par p 2 2) → replyFits p x.macRequired (12 * par p 2 2) = true → par p 0 2 + par p 2 2 - 1 ≤ 4095 →
    s.dev.otp.queue ≠ [] → s.dev.otp.queue.length < 4 →
    req = .read p (par p 0 2) (par p 2 2) (decide (rService ≤ x.role)) →
    exec (.otpRead p) s = .next { s with
      dev := (s.dev.modOtp fun y => { y with queue := y.queue ++ [req] }).finish p (.park .otpRead) })
  ∧ (∀ (s : State) (p : Packet) (x : Session) (row : Nat) (role : BitVec 2) (req : OtpReq), Ready specOtpProgram p x s →
    par p 0 2 = row → otpRole row = some role → reservedZero p 2 2 →
    otpDataOk row (par p 4 8) (x.role == rVendor) = true → s.dev.otp.queue.length < 4 →
    s.dev.otpBarred s.rows row (x.role == rVendor) = false →
    req = .program row (BitVec.ofNat 64 (par p 4 8)) (x.role == rVendor) →
    exec (.otpProgram p) s = .next { s with
      dev := (s.dev.modOtp fun y => { y with queue := y.queue ++ [req] }).answer p stQueued noField [] })
  ∧ (∀ (s : State) (burns : List Burn) (second : Burn) (vendor : Bool) (row : Nat) (data held : DWord)
      (rest : List OtpReq) (r : OtpRows × Nat) (b e : Dev), b = s.dev.otpCmdDone s.rows →
    b.sys.held = false → b.otp.queue = .program row data vendor :: rest →
    b.otpBarred s.rows row vendor = false → held = otpDataHeld s.rows row data vendor →
    r = otpProgramRow s.rows row held burns second → e = (b.otpAfterProgram row held r.2).otpDone 0 row r.2 →
    ∃ t d, exec (.otpProgramExecute burns second) s = .next t ∧ t.rows = r.1
      ∧ d = (e.modOtp fun o => { o with slotDebug := otpSlotDebug r.1 }).otpFrontReads r.1 e.otp.queue.length
      ∧ (t.dev, t.mem) = if d.otp.queue ≠ [] then (d, s.mem) else d.ses.work.foldl (resumeOne r.1) (d, s.mem))
  ∧ (∀ (s : State) (p : Packet) (x : Session) (code : Nat) (req : OtpReq), Ready specOtpFinalise p x s →
    par p 0 1 = code → within 3 5 code → reservedZero p 1 3 → s.dev.otp.queue.length < 4 → s.dev.finaliseBarred s.rows (otpRegion code) = false →
    req = .finalise code (BitVec.ofNat 32 (par p 4 4)) ((pktParams p).drop 8) →
    exec (.otpFinalise p) s = .next { s with
      dev := (s.dev.modOtp fun y => { y with queue := y.queue ++ [req] }).answer p stQueued noField [] })
  ∧ (∀ (s : State) (burns : List Burn) (code : Nat) (count : Word) (digest : List Byte) (rest : List OtpReq)
      (r : OtpRows × Nat) (b d : Dev), b = s.dev.otpCmdDone s.rows →
    b.sys.held = false → b.otp.queue = .finalise code count digest :: rest →
    b.finaliseBarred s.rows (otpRegion code) = false →
    r = finaliseRun s.rows (otpRegion code) count digest burns →
    d = b.modOtp (fun y => { y with sealedR := otpSeals r.1 }) →
    ∃ t e f, exec (.otpFinaliseExecute burns) s = .next t ∧ t.rows = r.1
      ∧ e = d.otpDone 1 (otpRegion code).header r.2
      ∧ f = (e.modOtp fun o => { o with slotDebug := otpSlotDebug r.1 }).otpFrontReads r.1 e.otp.queue.length
      ∧ (t.dev, t.mem) = if f.otp.queue ≠ [] then (f, s.mem) else f.ses.work.foldl (resumeOne r.1) (f, s.mem))

/-- DEVICE_INFO, DEVICE_STATUS and the fault commands complete, and TMX_SELECT and the TAP. The two status commands
answer Tables 6.4 and 6.5; FLT_CLASS stores an allowed class; FLT_FORCE sets or clears a force bit; FLT_READ answers the
two records or the counters; TMX_SELECT stores a pin's signal while debug is open; the TAP runs its instructions. -/
def Obligations.DeviceCommandsComplete : Prop :=
  (∀ (s : State) (p : Packet) (x : Session), Ready specDeviceInfo p x s →
    replyFits p x.macRequired s.dev.infoReply.length = true →
    exec (.deviceInfo p) s = answered s p s.dev s.dev.infoReply)
  ∧ (∀ (s : State) (p : Packet) (x : Session), Ready specDeviceStatus p x s →
    replyFits p x.macRequired s.dev.statusReply.length = true →
    exec (.deviceStatus p) s = answered s p s.dev s.dev.statusReply)
  ∧ (∀ (s : State) (p : Packet) (x : Session) (id k : Nat), Ready specFltClass p x s → par p 0 2 = id → par p 2 1 = k →
    s.dev.sourceInUse id = true → k ≤ 5 → lowestClass id ≤ k → k ≠ 3 ∨ hasUnit id = true → reservedZero p 3 1 →
    exec (.fltClass p) s =
      answered s p (s.dev.modSrc id fun y => { y with cls := Tv.mk3 (BitVec.ofNat 3 k) }) [])
  ∧ (∀ (s : State) (p : Packet) (x : Session) (id : Nat), Ready specFltForce p x s → par p 0 2 = id →
    s.dev.sourceInUse id = true → within 0 1 (par p 2 1) → reservedZero p 3 1 →
    exec (.fltForce p) s = answered s p (if par p 2 1 = 1 then s.dev.forceOn id else s.dev.forceOff id) [])
  ∧ (∀ (s : State) (p : Packet) (x : Session) (r : List Byte), Ready (specFltRead 0 0) p x s →
    r = s.dev.flt.firstRec.bytes ++ s.dev.flt.latestRec.bytes → replyFits p x.macRequired r.length = true →
    exec (.fltReadRecords p) s = answered s p s.dev r)
  ∧ (∀ (s : State) (p : Packet) (x : Session) (first n : Nat), Ready (specFltRead 1 4) p x s → par p 0 2 = first →
    par p 2 2 = n → within 0 0x3FF first → within 1 1015 n → first + n ≤ 0x400 → replyFits p x.macRequired (4 * n) = true →
    exec (.fltReadCounters p) s =
      answered s p s.dev ((List.range n).flatMap fun i => leBytes 4 (s.dev.fltCount (first + i))))
  ∧ (∀ (s : State) (p : Packet) (x : Session) (pin : Fin 8), Ready (specTmxSelect s.dev) p x s →
    s.dev.otp.debugOpen = true → par p 0 1 = pin.val → par p 1 1 ≤ 7 → s.dev.dieHere (par p 1 1) = true →
    within 0 4095 (par p 2 2) →
    exec (.tmxSelect p) s = answered s p { s.dev with
      tmx := {
        signal := s.dev.tmx.signal.set pin (BitVec.ofNat 12 (par p 2 2))
        die := s.dev.tmx.die.set pin (BitVec.ofNat 3 (par p 1 1))
        vendor := if x.role = rVendor then s.dev.tmx.vendor ||| BitVec.ofNat 8 (2 ^ pin.val)
          else s.dev.tmx.vendor &&& ~~~(BitVec.ofNat 8 (2 ^ pin.val)) } } [])
  ∧ (∀ (s : State) (op : JtagOp), (∀ n, op ≠ .other n) →
    exec (.jtagTapAccess op) s = .next { s with dev := s.dev.emit (.jtag op) })
  ∧ (∀ (s : State) (n : Nat), s.dev.tmxLive = false →
    exec (.jtagTapAccess (.other n)) s = .next { s with dev := s.dev.emit (.jtag .bypass) })
/-- OPEN_SESSION, CLOSE_SESSION, SESSION_INFO and GATE complete. A challenge for a usable slot reserves the ID freed
longest ago and answers it with 1,000 ms and the device's nonce; the right proof opens the session; CLOSE_SESSION is
answered before the session closes with cause 0; SESSION_INFO answers Table 6.3; GATE binds PF0's gate to the session,
unless that has closed in the meantime, or frees it. -/
def Obligations.SessionCommandsComplete : Prop :=
  (∀ (s : State) (p : Packet) (x : Session) (id : BitVec 8) (ids : List (BitVec 8)),
    Ready specOpenChallenge p x s → par p 0 1 ≤ 3 → par p 1 1 ≤ 7 → par p 0 1 ≤ slotMaxRole s.rows (par p 1 1) →
    par p 2 1 ≤ 1 → par p 3 1 ≤ 64 → s.dev.slotUsable s.rows (par p 1 1) = true →
    s.dev.ses.lockout.getLsbD (par p 1 1) = false → s.dev.ses.freeIds = id :: ids → s.dev.ses.prov.length < 32 →
    s.dev.qpTaken p.via = false → replyFits p x.macRequired 20 = true →
    (entropy s.dev.ses.nonces).length = 16 ∧ exec (.openSessionChallenge p) s = answered s p
      (s.dev.modSes fun t => { t with
        freeIds := ids
        nonces := t.nonces + 1
        prov := t.prov ++ [({
          id := id, role := BitVec.ofNat 2 (par p 0 1), slot := BitVec.ofNat 3 (par p 1 1), via := p.via
          macRequired := par p 2 1 == 1 || viaUdp p.via, credits := s.dev.creditsFor p.via (par p 3 1)
          hostNonce := (pktParams p).drop 4, deviceNonce := entropy s.dev.ses.nonces } : Provisional)] })
      (leBytes 2 id.toNat ++ leBytes 2 1000 ++ entropy s.dev.ses.nonces))
  ∧ (∀ (s : State) (p : Packet) (x : Session) (v : Provisional),
    Ready specOpenProof p x s → s.dev.prov? p = some v → replyFits p v.macRequired 36 = true →
    (pktParams p).take 32 = hmacSha256 (slotKey s.rows v.slot.toNat) (1 :: openMessage v) →
    exec (.openSessionProof p) s = .next { s with
      dev := (((s.dev.modSes fun t => { t with
          prov := t.prov.filter fun (y : Provisional) => y.id != v.id
          openS := t.openS ++ [{ noSession p with
            id := v.id, role := v.role, slot := v.slot
            key := hmacSha256 (slotKey s.rows v.slot.toNat) (3 :: openMessage v)
            macRequired := v.macRequired, credits := v.credits, expectedSeq := 1
            idleSeconds := s.dev.ses.sesIdle, idleSince := s.dev.sys.now }] }).answer p stOk noField
          (hmacSha256 (slotKey s.rows v.slot.toNat) (2 :: openMessage v) ++ leBytes 1 v.credits
            ++ leBytes 1 v.role.toNat ++ leBytes 2 s.dev.ses.sesIdle)).event
          evSession 1 v.id.toNat [BitVec.ofNat 8 v.role.toNat]) })
  ∧ (∀ (s : State) (p : Packet) (x : Session), Ready specClose p x s →
    exec (.closeSession p) s = .next { s with dev := (s.dev.answer p stOk noField []).closeSession x.id 0 })
  ∧ (∀ (s : State) (p : Packet) (x y : Session), Ready specSessionInfo p x s → par p 0 2 ≤ 255 →
    s.dev.session? (if par p 0 2 = 0 then x.id.toNat else par p 0 2) = some y → replyFits p x.macRequired 16 = true →
    exec (.sessionInfo p) s = answered s p s.dev (s.dev.sessionReply y))
  ∧ (∀ (s : State) (p : Packet) (x : Session), Ready specGateOpen p x s →
    s.dev.ses.gate = none ∨ s.dev.ses.gate = some x.id →
    exec (.gateOpen p) s = answered s p (s.dev.modSes fun t =>
      { t with gate := if t.openS.any (fun y => y.id == x.id) then some x.id else t.gate }) [])
  ∧ (∀ (s : State) (p : Packet) (x : Session), Ready specGateClose p x s → s.dev.ses.gate = some x.id →
    exec (.gateClose p) s = answered s p (s.dev.modSes fun t => { t with gate := none }) [])

/-- EVENT_SUBSCRIBE, EVENT_READ and EVENT_COUNTERS complete, and the expiry of a ring entry. A subscription is replaced
and answered with the 16 sequence counters; EVENT_READ answers the session's oldest unread records, behind a STREAM
record when some were lost; an entry that expires is lost for the sessions that had not read it. -/
def Obligations.EventCommandsComplete : Prop :=
  (∀ (s : State) (p : Packet) (x : Session), Ready specEventSubscribe p x s → getB 14 (par p 0 2) = false →
    par p 2 2 = 0 ∨ 1024 ≤ par p 2 2 → replyFits p x.macRequired 64 = true →
    ∃ d : Dev,
      d = (s.dev.modSession x.id fun y => { y with
        subs := BitVec.ofNat 16 (par p 0 2), subPort := BitVec.ofNat 16 (par p 2 2)
        lost := if par p 0 2 = 0 then 0 else y.lost }).unread x.id (fun k => getB k (par p 0 2))
      ∧ exec (.eventSubscribe p) s = answered s p d (d.ev.seq.toList.flatMap fun v => leBytes 4 v.toNat))
  ∧ (∀ (s : State) (p : Packet) (x : Session), Ready specEventRead p x s → within 1 126 (par p 0 2) →
    replyFits p x.macRequired (4 + 32 * par p 0 2) = true → x.lost = 0 →
    ∃ mine : List RingEntry,
      mine = (s.dev.ev.ring.filter fun e => e.readers.contains x.id).take (par p 0 2)
      ∧ (replyFits p x.macRequired ((eventParams (mine.map fun e => e.record)).length) = true →
      exec (.eventRead p) s = answered s p
        (((s.dev.modRing (List.map fun e =>
          if mine.contains e then { e with readers := e.readers.filter (· != x.id) } else e)).modSession x.id
            fun y => { y with lost := 0 }).freeEntries.checkOvf)
        (eventParams (mine.map fun e => e.record))))
  ∧ (∀ (s : State) (p : Packet) (x : Session), Ready specEventRead p x s → within 1 126 (par p 0 2) →
    replyFits p x.macRequired (4 + 32 * par p 0 2) = true → x.lost ≠ 0 →
    ∃ (mine : List RingEntry) (lost : EventRecord),
      mine = (s.dev.ev.ring.filter fun e => e.readers.contains x.id).take (par p 0 2 - 1)
      ∧ lost = {
          cls := 15, kind := 0, source := BitVec.ofNat 16 x.id.toNat, classSeq := s.dev.ev.seq[15] + 1
          ts := s.dev.sys.now, count := x.lost, data := eventData [] }
      ∧ (replyFits p x.macRequired ((eventParams (lost :: mine.map fun e => e.record)).length) = true →
      exec (.eventRead p) s = answered s p
        ((((s.dev.countEvent evStream).modRing (List.map fun e =>
          if mine.contains e then { e with readers := e.readers.filter (· != x.id) } else e)).modSession x.id
            fun y => { y with lost := 0 }).freeEntries.checkOvf)
        (eventParams (lost :: mine.map fun e => e.record))))
  ∧ (∀ (s : State) (p : Packet) (x : Session), Ready specEventCounters p x s → replyFits p x.macRequired 64 = true →
    exec (.eventCounters p) s = answered s p s.dev (s.dev.ev.seq.toList.flatMap fun v => leBytes 4 v.toNat))
  ∧ (∀ (s : State) (e : RingEntry) (rest : List RingEntry), s.dev.ev.ring = e :: rest →
    exec .eventEntryExpiry s = .next { s with dev :=
      (((s.dev.modRing fun _ => rest).modSes fun t => { t with
        openS := t.openS.map fun y => if e.readers.contains y.id then { y with lost := satInc y.lost } else y }).drainCounters
          s.dev.ev.counters.length).checkOvf })


/-- SQ_FETCH and COMMAND_INTAKE complete (R106, R122, R124, R194, R196). A slot is fetched while its queue pair is
enabled, has a credit and room in its CQ; it moves SqHead on; its packet waits to be taken, is refused by steps 2 to 7, or is marked Discarded in a CQ slot. A turn of the intake empties the receive
buffers and puts the next session's command into the work queue; an unallocated opcode is answered ST_BAD_OPCODE. -/
def Obligations.IntakeCompletes : Prop :=
  (∀ (s : State) (q : Fin 256) (slot : SqSlot) (bytes : List Byte) (d : Dev), s.dev.fetches q = true →
    s.dev.intakeOpen = true → s.dev.mode ≠ mFallow → s.dev.ses.qp[q].sqHead ≠ s.dev.ses.qp[q].sqTail.toNat →
    d = s.dev.modSes (fun t => { t with qp := vmod t.qp q fun y =>
      { y with sqHead := if y.sqHead + 1 ≥ y.entries.toNat then 0 else y.sqHead + 1 } }) →
    (parsePacket (.pcie q) 0 slot.replyLen slot.replyAddr bytes = none →
      exec (.sqFetch q slot bytes) s = .next { s with
        dev := (d.modSes fun t => { t with dropCrc := satInc t.dropCrc }).cqWrite q 0 0 0 true
          (s.dev.qpSession q) (.free, 0) })
    ∧ ∀ p, parsePacket (.pcie q) 0 slot.replyLen slot.replyAddr bytes = some p →
      (pktStep1 p = false → exec (.sqFetch q slot bytes) s = .next { s with
        dev := (d.modSes fun t => { t with dropCrc := satInc t.dropCrc }).cqWrite q 0 0 0 true
          (s.dev.qpSession q) (.free, 0) })
      ∧ (pktStep1 p = true → pktStep3 p = some none → exec (.sqFetch q slot bytes) s = .next { s with
        dev := (d.modSes fun t => { t with dropLen := satInc t.dropLen }).cqWrite q p.seq 0 0 true
          (s.dev.qpSession q) (.free, 0) })
      ∧ (pktStep1 p = true → pktStep3 p ≠ some none → (d.front p).2 = false →
        exec (.sqFetch q slot bytes) s = .next { s with dev := (d.front p).1 })
      ∧ (pktStep1 p = true → pktStep3 p ≠ some none → (d.front p).2 = true →
        exec (.sqFetch q slot bytes) s = .next { s with dev := (d.front p).1.enqueue p }))
  ∧ (∀ (s : State) (q : Fin 256) (slot : SqSlot) (bytes : List Byte), s.dev.fetches q = false →
    exec (.sqFetch q slot bytes) s = .next s)
  ∧ (∀ (s : State) (d : Dev), s.dev.intakeOpen = true → s.dev.mode ≠ mFallow → d = s.dev.emptyBuffers →
    (d.nextCommand = none → exec .commandIntake s = .next { s with dev := d })
    ∧ ∀ (w : WorkEntry) (p : Packet) (e : Dev), d.nextCommand = some w → p = w.packet →
      e = d.modSes (fun t =>
        { t with
          waiting := t.waiting.erase w, work := t.work ++ [w]
          rr := BitVec.ofNat 8 p.session.toNat }) →
      (p.variant.toNat < allocated p.opcode.toNat → exec .commandIntake s = .next { s with dev := e })
      ∧ (¬ p.variant.toNat < allocated p.opcode.toNat →
        exec .commandIntake s = .next { s with dev := e.answer p stBadOpcode noField [] }))

/-- The doorbells, Ethernet frames and expiries complete (R100, R117, R120, R124 to R128, R193, R443). An allowed
doorbell value is stored, CqHead frees the slots it passes, and an idle timer that stood for them runs on; a datagram of a right header waits in the buffers, ARP and
echo requests to the port are answered, a frame that finds the buffers full is dropped and counted; an expired ID is
free again, an idle session closes, a lockout ends. -/
def Obligations.TransportEdgesComplete : Prop :=
  (∀ (s : State) (q : Fin 256) (v : Word), s.dev.sys.held = false → s.dev.linkOn (.pcie q) = true →
    s.dev.mode ≠ mFallow → s.dev.doorbellOk q v = true →
    exec (.sqTailDoorbell q v) s = .next { s with
      dev := s.dev.modSes fun t => { t with qp := vmod t.qp q fun y => { y with sqTail := v.setWidth 7 } } }
    ∧ ∀ (x : QueuePair) (n id : Nat) (d : Dev), x = s.dev.ses.qp[q] → id = (s.dev.qpSession q).toNat →
      n = (v.toNat + x.entries.toNat - x.cqHead.toNat) % x.entries.toNat →
      d = (s.dev.modSes fun t => { t with qp := vmod t.qp q fun y =>
        { y with cqHead := v.setWidth 7, cqOut := y.cqOut.drop n } }).cqPass q (x.cqOut.take n) →
      exec (.cqHeadDoorbell q v) s = .next { s with dev := if s.dev.idleRuns id then d else d.idleRun id })
  ∧ (∀ (s : State) (q : Fin 256) (v : Word), s.dev.sys.held = false → s.dev.linkOn (.pcie q) = true →
    s.dev.mode = mFallow →
    exec (.sqTailDoorbell q v) s = .next { s with dev := (s.dev.wakeFrom 2 true).dropDoorbell }
    ∧ exec (.cqHeadDoorbell q v) s = .next { s with dev := (s.dev.wakeFrom 2 true).dropDoorbell })
  ∧ (∀ (s : State) (ip : Word) (d : Dev), s.dev.sys.held = false → s.dev.linkOn (.udp 0 0) = true →
    s.dev.sys.bootFail ≠ 4 → s.dev.mode ≠ mFallow → s.dev.eth.valid = true → s.dev.ses.ethRx.length < 16 →
    d = s.dev.modEth (fun e => { e with rx := satInc e.rx }) →
    (ip = s.dev.eth.ip → exec (.ethernetFrame (.arp ip)) s = .next { s with
      dev := (d.emit .arpReply).modEth fun e => { e with tx := satInc e.tx } })
    ∧ (ip = s.dev.eth.ip ∨ ip = s.dev.eth.broadcast → exec (.ethernetFrame (.icmpEcho ip)) s = .next { s with
      dev := (d.emit .echoReply).modEth fun e => { e with tx := satInc e.tx } }))
  ∧ (∀ (s : State) (src : Word) (mac : BitVec 48) (sport : BitVec 16) (b : List Byte) (p : Packet),
    s.dev.sys.held = false → s.dev.linkOn (.udp 0 0) = true → s.dev.sys.bootFail ≠ 4 → s.dev.mode ≠ mFallow →
    s.dev.eth.valid = true → udpHeaderOk b = true → s.dev.ses.ethRx.length < 16 →
    parsePacket (.udp src sport) (BitVec.ofNat 32 (pU b 4 4)) 4096 0 (b.drop 16) = some p →
    exec (.ethernetFrame (.udp s.dev.eth.ip src mac sport 47300 false b)) s = .next { s with
      dev := (s.dev.modEth fun e => e.heard p.via mac).modSes fun t => { t with ethRx := t.ethRx ++ [(p, true)] } })
  ∧ (∀ (s : State), s.dev.sys.held = false → s.dev.linkOn (.udp 0 0) = true → s.dev.sys.bootFail ≠ 4 →
    s.dev.mode ≠ mFallow → exec (.ethernetFrame .other) s = .next { s with dev := s.dev.dropNet }
    ∧ ∀ f, 16 ≤ s.dev.ses.ethRx.length → exec (.ethernetFrame f) s = .next { s with dev := s.dev.dropNet })
  ∧ (∀ (s : State) (x : Provisional), x ∈ s.dev.ses.prov →
    exec (.provisionalIdExpiry x.id) s = .next { s with
      dev := s.dev.modSes fun t =>
        { t with
          prov := t.prov.filter fun (y : Provisional) => y.id != x.id
          freeIds := t.freeIds ++ [x.id] } })
  ∧ (∀ (s : State) (id : BitVec 8) (x : Session), s.dev.session? id.toNat = some x → s.dev.creditsUsed x = 0 →
    x.reservedResponse = none →
    exec (.sessionIdleTimeout id) s = .next { s with dev := s.dev.closeSession id 2 })
  ∧ (∀ (s : State) (slot : Fin 8), ∃ t, exec (.authLockoutEnd slot) s = .next t
    ∧ t = { s with dev := s.dev.modSes fun x => { x with lockout := t.dev.ses.lockout } }
    ∧ ∀ k, t.dev.ses.lockout.getLsbD k = (s.dev.ses.lockout.getLsbD k && k != slot.val))

/-- The SPI operations complete (R129 to R131, R193). WRITE puts a packet into a free buffer or loses it, and shifts
the status byte out; READ shifts out the oldest reply, which leaves its queues once all of it has been clocked; STATUS
clears LastDropped; an unknown operation is counted; in FALLOW a transaction only wakes the part, and a part held at
the memory test takes none (Table 4.6). -/
def Obligations.SpiRowsComplete : Prop :=
  (∀ (s : State) (b : List Byte) (d : Dev), s.dev.sys.held = false → s.dev.sys.bootFail ≠ 4 → s.dev.mode ≠ mFallow →
    d = s.dev.emit (.spiOut [s.dev.spiStatusByte]) →
    (s.dev.ses.spiRx.length < 2 → b.length ≤ 4096 → exec (.spiWrite b) s = .next { s with
      dev := d.modSes fun t => { t with spiRx := t.spiRx ++ [parsePacket .spi 0 4096 0 b] } })
    ∧ (2 ≤ s.dev.ses.spiRx.length → exec (.spiWrite b) s = .next { s with
      dev := d.modSes fun t => { t with dropSpi := satInc t.dropSpi, spiLastDropped := true } })
    ∧ (s.dev.ses.spiRx.length < 2 → 4096 < b.length → exec (.spiWrite b) s = .next { s with
      dev := d.modSes fun t => { t with dropCrc := satInc t.dropCrc } }))
  ∧ (∀ (s : State) (n : Nat), s.dev.sys.held = false → s.dev.sys.bootFail ≠ 4 → s.dev.mode ≠ mFallow →
    s.dev.ses.spiOut = [] →
    exec (.spiRead n) s = .next { s with dev := s.dev.emit (.spiOut ((leBytes 4 0).take n)) })
  ∧ (∀ (s : State) (n : Nat) (r : Reply) (rest : List Reply) (bs : List Byte) (d : Dev), s.dev.sys.held = false →
    s.dev.sys.bootFail ≠ 4 → s.dev.mode ≠ mFallow → s.dev.ses.spiOut = r :: rest →
    bs = leBytes 4 (replyBytes r).length ++ replyBytes r → d = s.dev.emit (.spiOut (bs.take n)) →
    (n < bs.length → exec (.spiRead n) s = .next { s with dev := d })
    ∧ ∀ e, bs.length ≤ n → e = (d.modSes fun t =>
        { t with
          spiOut := rest
          openS := t.openS.map fun (x : Session) =>
            if x.via = Via.spi && x.id.toNat = r.session.toNat then x.leaves r.slot else x }) →
      exec (.spiRead n) s = .next { s with
        dev := if s.dev.idleRuns r.session.toNat then e else e.idleRun r.session.toNat })
  ∧ (∀ (s : State), s.dev.sys.held = false → s.dev.sys.bootFail ≠ 4 → s.dev.mode ≠ mFallow →
    exec .spiStatus s = .next { s with
      dev := (s.dev.emit (.spiOut [s.dev.spiStatusByte])).modSes fun t => { t with spiLastDropped := false } }
    ∧ exec .spiUnknownOperation s = .next { s with
      dev := s.dev.modSes fun t => { t with dropSpi := satInc t.dropSpi } })
  ∧ (∀ (s : State) (n : Nat) (b : List Byte), s.dev.sys.held = false → s.dev.sys.bootFail = 4 →
    exec (.spiRead n) s = .next s ∧ exec .spiStatus s = .next s ∧ exec .spiUnknownOperation s = .next s
    ∧ exec (.spiWrite b) s = .next s)
  ∧ (∀ (s : State) (n : Nat) (b : List Byte), s.dev.sys.held = false → s.dev.sys.bootFail ≠ 4 → s.dev.mode = mFallow →
    exec (.spiRead n) s = .next { s with dev := s.dev.wakeFrom 4 true }
    ∧ exec .spiStatus s = .next { s with dev := s.dev.wakeFrom 4 true }
    ∧ exec .spiUnknownOperation s = .next { s with dev := s.dev.wakeFrom 4 true }
    ∧ exec (.spiWrite b) s = .next { s with dev := (s.dev.wakeFrom 4 true).dropDoorbell })

/-- READ_WORDS, WRITE_PAIRS, MODIFY_WORD and WRITE_BLOCK complete. On aligned words of BAR0 that lie in present blocks,
with no reserved bit set and the privilege their registers ask for, the command processor reads or writes the words in
order, each as the fabric reads or writes it; MODIFY_WORD answers the old value and the new one. A command that names OTP_CMD
while requests occupy the controller waits for them before its first write (R148, R185, R395). That a command's posted
writes have taken effect when it is answered is the model's reading of R184 (log 61). -/
def Obligations.WordCommandsComplete : Prop :=
  (∀ (s : State) (p : Packet) (x : Session) (a n : Nat), Ready specReadWords p x s →
    par p 0 4 = a → par p 4 2 = n → a % 4 = 0 → within 1 1015 n → a + 4 * (n - 1) ≤ 0x07FFFFFC → reservedZero p 6 2 →
    (∀ i < n, s.dev.absentAt (a + 4 * i) = false) → replyFits p x.macRequired (4 * n) = true →
    ∃ r, r = busReads s.rows .cp (decide (rService ≤ x.role)) n s.dev s.mem a
      ∧ exec (.readWords p) s = answered { s with mem := r.2.1 } p r.1 r.2.2)
  ∧ (∀ (s : State) (p : Packet) (x : Session) (ps : List (Nat × Nat × Nat)), Ready specWritePairs p x s →
    ps = pairsAt (pktParams p) 4 (par p 0 2) → within 1 507 (par p 0 2) → reservedZero p 2 2 →
    (∀ y ∈ ps, y.2.1 ≤ 0x07FFFFFC ∧ y.2.1 % 4 = 0 ∧ s.dev.absentAt y.2.1 = false
      ∧ s.dev.noReserved y.2.1 y.2.2 = true) →
    ((∃ y ∈ ps, s.dev.otpHolds y.2.1 = true) → exec (.writePairs p) s = .next { s with
      dev := s.dev.finish p (.park (.writes (ps.map fun y => y.2) (decide (rService ≤ x.role)))) })
    ∧ ((∀ y ∈ ps, s.dev.otpHolds y.2.1 = false) →
      ∃ r, r = busWrites s.rows (decide (rService ≤ x.role)) (s.dev, s.mem) (ps.map fun y => y.2)
        ∧ exec (.writePairs p) s = answered { s with mem := r.2 } p r.1 []))
  ∧ (∀ (s : State) (p : Packet) (x : Session) (a : Nat), Ready specModifyWord p x s → par p 0 4 = a →
    a % 4 = 0 → a ≤ 0x07FFFFFC → s.dev.absentAt a = false → s.dev.noReserved a (par p 4 4) = true →
    replyFits p x.macRequired 8 = true → s.dev.otpHolds a = false →
    ∃ (y r : Dev × Banks) (old : Dev × Nat) (new : Nat),
      y = settleBlock s.rows a s.dev s.mem
      ∧ old = busOld y.1 y.2 a
      ∧ new = Nat.lor (Nat.land old.2 (0xFFFFFFFF - par p 8 4)) (par p 4 4)
      ∧ r = busWrite s.rows .cp (decide (rService ≤ x.role)) true old.1 y.2 a new 0xF
      ∧ exec (.modifyWord p) s = answered { s with mem := r.2 } p r.1 (leBytes 4 old.2 ++ leBytes 4 new))
  ∧ (∀ (s : State) (p : Packet) (x : Session) (a : Nat), Ready specModifyWord p x s → par p 0 4 = a →
    a % 4 = 0 → a ≤ 0x07FFFFFC → s.dev.absentAt a = false → s.dev.noReserved a (par p 4 4) = true →
    replyFits p x.macRequired 8 = true → s.dev.otpHolds a = true →
    exec (.modifyWord p) s = .next { s with dev := s.dev.finish p (.park (.modify (decide (rService ≤ x.role)))) })
  ∧ (∀ (s : State) (p : Packet) (x : Session) (a n : Nat) (ws : List (Nat × Nat × Nat)), Ready specWriteBlock p x s →
    par p 0 4 = a → par p 4 2 = n → ws = blockWords (pktParams p) a 8 n → a % 4 = 0 → within 1 1013 n →
    a + 4 * (n - 1) ≤ 0x07FFFFFC → reservedZero p 6 2 →
    (∀ y ∈ ws, s.dev.absentAt y.2.1 = false ∧ s.dev.noReserved y.2.1 y.2.2 = true ∧ s.dev.lineBusy y.2.1 = false) →
    ((∃ y ∈ ws, s.dev.otpHolds y.2.1 = true) → exec (.writeBlock p) s = .next { s with
      dev := s.dev.finish p (.park (.writes (ws.map fun y => y.2) (decide (rService ≤ x.role)))) })
    ∧ ((∀ y ∈ ws, s.dev.otpHolds y.2.1 = false) →
      ∃ r, r = busWrites s.rows (decide (rService ≤ x.role)) (s.dev, s.mem) (ws.map fun y => y.2)
        ∧ exec (.writeBlock p) s = answered { s with mem := r.2 } p r.1 []))

/-- REGISTER_WRITE completes for every register (R422, R424, R429 to R431). A write that reaches the fabric is stored at
once, or is posted to its block, or is dropped and counted: in MEM_WPDROP while the block is busy, in MEM_PVDROP where
the master is not privileged, in MEM_WRDROP where it would start an MDIO access in progress (R443); PF0's posted write is
judged when it takes effect, which is the model's reading of R430 (log 61). BIT_ALIAS_WRITE writes the one bit of its
register (R433). PF1 also writes BAR2: a doorbell, a word of the MSI-X table, whose layout is presumed (log 5), the pending
bits, which take no write, and reserved offsets, whose writes are dropped and counted (R446). -/
def Obligations.RegisterWritesComplete : Prop :=
  (∀ (s : State) (m : Master) (a v : Word) (d : Dev) (priv : Bool) (r : Reg), s.dev.reach m true = (d, some priv) →
    a.toNat ≤ barTop → (∃ o, placeOf a.toNat = .register o) → d.reg? a.toNat = some r →
    (r.pv = true → priv = false → m ≠ .pf0 ∨ r.block = none →
      exec (.registerWrite m { offset := a } v 0xF) s = .next { s with dev := d.memPvDrop })
    ∧ ((r.pv = true → priv = true ∨ (m = .pf0 ∧ r.block ≠ none)) →
      (r.blockAt a.toNat = none →
        (r.rw = 0 → exec (.registerWrite m { offset := a } v 0xF) s = .next { s with dev := d })
        ∧ (r.rw ≠ 0 → exec (.registerWrite m { offset := a } v 0xF) s = .next { s with
          dev := d.store s.mem a.toNat v.toNat }))
      ∧ ∀ b, r.blockAt a.toNat = some b →
        (d.blockBusy b = true → exec (.registerWrite m { offset := a } v 0xF) s = .next { s with dev := d.memWpDrop })
        ∧ (d.blockBusy b = false →
          (a.toNat = 0x711C → d.eth.pendingMdio = true →
            exec (.registerWrite m { offset := a } v 0xF) s = .next { s with dev := d.memWrDrop })
          ∧ (a.toNat ≠ 0x711C ∨ d.eth.pendingMdio = false →
            (r.rw = 0 → b = .otp → exec (.registerWrite m { offset := a } v 0xF) s = .next { s with dev := d })
            ∧ (r.rw ≠ 0 ∨ b ≠ .otp → exec (.registerWrite m { offset := a } v 0xF) s = .next { s with
              dev := d.post {
                block := b, master := m, privileged := priv, address := a.toNat, words := [(v, 0xF)] } })))))
  ∧ (∀ (s : State) (m : Master) (a v : Word) (be : BitVec 4) (d : Dev) (priv : Bool) (o : Nat),
    s.dev.reach m true = (d, some priv) → a.toNat ≤ barTop → placeOf a.toNat = .register o → be ≠ 0xF →
    exec (.registerWrite m { offset := a } v be) s = .next { s with dev := d.memWrDrop })
  ∧ (∀ (s : State) (m : Master) (a v : Word) (d : Dev) (priv : Bool) (o b : Nat) (r : Reg),
    s.dev.reach m true = (d, some priv) → a.toNat ≤ barTop → a.toNat % 4 = 0 → placeOf a.toNat = .bitAlias o b →
    d.reg? o = some r →
    (r.pv = true → priv = false → m ≠ .pf0 ∨ r.block = none →
      exec (.bitAliasWrite m a v) s = .next { s with dev := d.memPvDrop })
    ∧ ((r.pv = true → priv = true ∨ (m = .pf0 ∧ r.block ≠ none)) →
      (∀ k, r.blockAt o = some k → d.blockBusy k = true →
        exec (.bitAliasWrite m a v) s = .next { s with dev := d.memWpDrop })
      ∧ ((∀ k, r.blockAt o = some k → d.blockBusy k = false) →
        (getB b r.rw = false → exec (.bitAliasWrite m a v) s = .next { s with dev := d })
        ∧ (getB b r.rw = true → ∀ y, y = settleReads s.rows m o d s.mem →
          exec (.bitAliasWrite m a v) s = .next { s with
            dev := (regWrite s.rows m priv false (y.1.heardReg y.2 o) y.2 o
              (Nat.lor (Nat.land (y.1.regShown y.2 o) (allBits - 2 ^ b)) (fld b 1 v.toNat))).1 }))))
  ∧ (∀ (s : State) (m : Master) (o v : Word) (be : BitVec 4), m ≠ .pf1 ∨ 0x4000 ≤ o.toNat →
    exec (.registerWrite m { offset := o, bar2 := true } v be) s = .next s)
  ∧ (∀ (s : State) (q : Fin 256) (o v : Word),
    (o.toNat = 8 * q.val →
      exec (.registerWrite .pf1 { offset := o, bar2 := true } v 0xF) s = exec (.sqTailDoorbell q v) s)
    ∧ (o.toNat = 8 * q.val + 4 →
      exec (.registerWrite .pf1 { offset := o, bar2 := true } v 0xF) s = exec (.cqHeadDoorbell q v) s))
  ∧ (∀ (s : State) (o v : Word) (be : BitVec 4) (d : Dev) (priv : Bool), s.dev.reach .pf1 true = (d, some priv) →
    (∀ (e : Fin 512) (k : Nat), k < 4 → o.toNat = 0x1000 + 16 * e.val + 4 * k →
      exec (.registerWrite .pf1 { offset := o, bar2 := true } v 0xF) s = .next { s with
        dev := (d.modPci fun x => x.setEntry e k v.toNat).sendPending })
    ∧ (within 0x3000 0x303F o.toNat →
      exec (.registerWrite .pf1 { offset := o, bar2 := true } v be) s = .next { s with dev := d })
    ∧ (within 0x800 0xFFF o.toNat ∨ within 0x3040 0x3FFF o.toNat →
      exec (.registerWrite .pf1 { offset := o, bar2 := true } v be) s = .next { s with dev := d.dropDoorbell }))

/-- The registers with a row of their own complete when written: SES_QP_CTL, EVENT_ACK and FLT_GPIO at once,
the others posted to their block (R123, R389, R395, R399, R425, R431, R443). That OTP_CMD's BUSY bit is set from the
acceptance of the write to the end of the read it asks for as that of a posted write is the model's reading (log 37), as is
that PF0's writes to OTP_LOCK and ETH_MDIO are judged when they take effect (log 61). MDIO_ACCESS_END ends an access,
MSIX_UNMASK clears a mask bit and sends what waited (R447). -/
def Obligations.OwnRegisterRowsComplete : Prop :=
  (∀ (s : State) (m : Master) (d : Dev) (priv : Bool) (v : Word), s.dev.reach m true = (d, some priv) →
    (∀ q : Fin 256, exec (.sesQpCtlWrite m q v) s = .next { s with dev := d.setQpCtl q v.toNat })
    ∧ (∀ c : Fin 16, exec (.eventAckWrite m c v) s = .next { s with dev := d.setAck c v })
    ∧ (priv = true → exec (.fltGpioWrite m v) s = .next { s with dev := d.setGpio v.toNat })
    ∧ (d.otpBusy = false → exec (.otpCmdWrite m v) s = .next { s with
      dev := d.post { block := .otp, master := m, privileged := priv, address := 0xF000, words := [(v, 0xF)] } })
    ∧ (d.otpBusy = true → exec (.otpCmdWrite m v) s = .next { s with dev := d.memWpDrop })
    ∧ (priv = true ∨ m = .pf0 → exec (.otpLockWrite m v) s = .next { s with
      dev := d.post {
        block := .otpLock, master := m, privileged := priv, address := 0xF010, words := [(v, 0xF)] } })
    ∧ (priv = true ∨ m = .pf0 → d.blockBusy .ethernet = true →
      exec (.ethMdioAccess m v) s = .next { s with dev := d.memWpDrop })
    ∧ (priv = true ∨ m = .pf0 → d.blockBusy .ethernet = false → d.eth.pendingMdio = true →
      exec (.ethMdioAccess m v) s = .next { s with dev := d.memWrDrop })
    ∧ ((priv = true ∨ m = .pf0 → d.eth.pendingMdio = false → d.blockBusy .ethernet = false →
        exec (.ethMdioAccess m v) s = .next { s with
        dev := d.post {
          block := .ethernet, master := m, privileged := priv, address := 0x711C, words := [(v, 0xF)] } })
      ∧ (∀ ch : Fin 4, d.blockBusy .position = false → exec (.posChOptWrite m ch v) s = .next { s with
        dev := d.post {
          block := .position, master := m, privileged := priv, address := 0x902C + 0x40 * ch.val
          words := [(v, 0xF)] } })
      ∧ (∀ (gp : Fin 112) (f : Fin 7), d.hasPort gp.val = true → gp.val / 16 = f.val → d.blockBusy (.die f) = false →
        exec (.prtGeomWrite m gp v) s = .next { s with
          dev := d.post {
            block := .die f, master := m, privileged := priv, address := portReg 0x10000 gp 0
            words := [(v, 0xF)] } }
        ∧ exec (.plsHeatctlWrite m gp v) s = .next { s with
          dev := d.post {
            block := .die f, master := m, privileged := priv, address := portReg 0x20000 gp 8
            words := [(v, 0xF)] } }
        ∧ ∀ k : Fin 17, exec (.plsTsntabWrite m gp k v) s = .next { s with
          dev := d.post {
            block := .die f, master := m, privileged := priv, address := portReg 0x20000 gp (0x40 + 4 * k.val)
            words := [(v, 0xF)] } })))
  ∧ (∀ (s : State) (data : BitVec 16), s.dev.eth.pendingMdio = true →
    exec (.mdioAccessEnd data) s = .next { s with
      dev := s.dev.modEth fun e =>
        { e with
          pendingMdio := false
          data := if e.write then e.data else data } })
  ∧ (∀ (s : State) (v : Fin 512) (enable functionMask : Bool) (d : Dev) (priv : Bool),
    s.dev.reach .pf1 true = (d, some priv) →
    exec (.msixUnmask v enable functionMask) s = .next { s with
      dev := (d.modPci fun p =>
        { p with
          msixEnable := enable, functionMask := functionMask
          vecMask := p.vecMask &&& ~~~(BitVec.ofNat 512 (2 ^ v.val)) }).sendPending })

/-- Writes to memory windows complete (R301, R419 to R421, R431): at once on the hub, posted to a furrow die; a SET or
CLEAR alias is a window like any other. POSTED_WRITE_EFFECT lets the posted write of a block take effect, but not while its
message waits for a CTRL credit of the link to its die: that a posted write takes one is the model's choice (log 70). -/
def Obligations.WindowWritesComplete : Prop :=
  (∀ (s : State) (m : Master) (a : Word) (ws : List (Word × BitVec 4)) (d : Dev) (priv : Bool) (r : Dev × Banks),
    s.dev.reach m true = (d, some priv) → a.toNat ≤ barTop → isWindow a.toNat = true → a.toNat % 4 = 0 →
    (windowBlock a.toNat = none → r = windowStore (d, s.mem) a.toNat ws →
      exec (.memoryWindowWrite m a ws) s = .next { s with dev := r.1, mem := r.2 })
    ∧ ∀ b, windowBlock a.toNat = some b →
      (d.dieHere (a.toNat / 2 ^ 24) = false → r = windowStore (d, s.mem) a.toNat ws →
        exec (.memoryWindowWrite m a ws) s = .next { s with dev := r.1, mem := r.2 })
      ∧ (d.dieHere (a.toNat / 2 ^ 24) = true → d.blockBusy b = true →
        exec (.memoryWindowWrite m a ws) s = .next { s with dev := d.memWpDrop })
      ∧ (d.dieHere (a.toNat / 2 ^ 24) = true → d.blockBusy b = false →
        exec (.memoryWindowWrite m a ws) s = .next { s with
          dev := d.post { block := b, master := m, privileged := priv, address := a.toNat, words := ws } }))
  ∧ (∀ (s : State) (m : Master) (a v : Word) (be : BitVec 4), isAlias a.toNat = true →
    exec (.aliasWrite m a v be) s = exec (.memoryWindowWrite m a [(v, be)]) s)
  ∧ (∀ (s : State) (m : Master) (a v : Word) (be : BitVec 4), isAlias a.toNat = false →
    exec (.aliasWrite m a v be) s = .next s)
  ∧ (∀ (s : State) (m : Master) (a v : Word) (be : BitVec 4) (d : Dev) (priv : Bool) (r : Dev × Banks),
    isAlias a.toNat = true → s.dev.reach m true = (d, some priv) →
    a.toNat ≤ barTop → a.toNat % 4 = 0 → windowBlock a.toNat = none →
    r = windowStore (d, s.mem) a.toNat [(v, be)] →
    exec (.aliasWrite m a v be) s = .next { s with dev := r.1, mem := r.2 })
  ∧ (∀ (s : State) (b : Block) (x : Posted) (r : Dev × Banks), s.dev.mr.posted.find? (fun y => y.block == b) = some x →
    s.dev.accessWaits b = false →
    r = x.effect s.rows ((s.dev.modMr fun y => { y with posted := y.posted.erase x }).accessLeft x.block) s.mem →
    exec (.postedWriteEffect b) s = .next { s with dev := r.1, mem := r.2 })
  ∧ (∀ (s : State) (b : Block), s.dev.mr.posted.find? (fun y => y.block == b) = none ∨ s.dev.accessWaits b = true →
    exec (.postedWriteEffect b) s = .next s)

/-- Direct reads complete (R85, R129, R131, R319, R419, R423). With none of its own writes still posted, a read of a
register by a master that reaches the fabric takes its latches and leaves with the register's value, one in another form
than an aligned word with 0, a read of a memory word with the word, PF1's read of BAR2 with the word it holds (R422, R446;
the layout of the MSI-X table is presumed, log 5); a part held at the memory test answers register reads only; an offset above BAR0 reads 0.
SPI_REG_WRITE shifts the status byte out and writes. -/
def Obligations.DirectReadsComplete : Prop :=
  (∀ (s : State) (m : Master) (a : Word) (d : Dev) (priv : Bool) (o v : Nat), m ≠ .spi →
    s.dev.reach m false = (d, some priv) → a.toNat ≤ barTop → a.toNat % 4 = 0 → placeOf a.toNat = .register o →
    (∀ x ∈ d.mr.posted, x.master ≠ m) → v = d.regSeen s.mem m priv o →
    exec (.latchingRegisterRead m { address := { offset := a } }) s = .next { s with
      dev := (d.takeLatches s.mem m o).emit (.value (BitVec.ofNat 32 v)) })
  ∧ (∀ (s : State) (m : Master) (r : BusRead) (d : Dev) (priv : Bool) (o : Nat), m ≠ .spi →
    s.dev.reach m false = (d, some priv) → r.address.bar2 = false → placeOf r.address.offset.toNat = .register o →
    r.be ≠ 0xF ∨ r.words ≠ 1 →
    exec (.latchingRegisterRead m r) s = .next { s with dev := d.emit (.value 0) })
  ∧ (∀ (s : State) (r : BusRead) (d : Dev) (priv : Bool) (v : Nat), s.dev.reach .pf1 false = (d, some priv) →
    r.address.bar2 = true → r.address.offset.toNat < 0x4000 →
    v = d.bar2Val (r.address.offset.toNat / 4 * 4) →
    exec (.latchingRegisterRead .pf1 r) s = .next { s with dev := d.emit (.value (BitVec.ofNat 32 v)) })
  ∧ (∀ (s : State) (m : Master) (die : Fin 8) (ch : Fin 4) (d : Dev) (priv : Bool) (v : Nat), m ≠ .spi →
    s.dev.reach m false = (d, some priv) → (∀ x ∈ d.mr.posted, x.master ≠ m) →
    v = d.regSeen s.mem m priv (countAddr die ch) →
    exec (.posChCountRead m die ch) s = .next { s with
      dev := (d.takeLatches s.mem m (countAddr die ch)).emit (.value (BitVec.ofNat 32 v)) })
  ∧ (∀ (s : State) (a : Word) (d : Dev) (priv : Bool), s.dev.reach .spi false = (d, some priv) →
    a.toNat ≤ barTop → a.toNat % 4 = 0 → (∀ x ∈ d.mr.posted, x.master ≠ .spi) →
    (∀ o v, placeOf a.toNat = .register o → v = d.regSeen s.mem .spi priv o →
      exec (.spiRegRead a) s = .next { s with
        dev := (d.takeLatches s.mem .spi o).emit (.spiOut (0xA5 :: leBytes 4 v)) })
    ∧ (∀ r, isWindow a.toNat = true → d.sys.bootFail ≠ 4 → r = windowRead d s.mem a.toNat →
      exec (.spiRegRead a) s = .next { s with dev := r.1.emit (.spiOut (0xA5 :: leBytes 4 r.2)) })
    ∧ (isWindow a.toNat = true → d.sys.bootFail = 4 → exec (.spiRegRead a) s = .next { s with dev := d }))
  ∧ (∀ (s : State) (a : Word) (d : Dev) (priv : Bool), s.dev.reach .spi false = (d, some priv) → barTop < a.toNat →
    exec (.spiRegRead a) s = .next { s with dev := d.emit (.spiOut (0xA5 :: leBytes 4 0)) })
  ∧ (∀ (s : State) (a v : Word) (o : Nat) (e d : Dev) (priv : Bool), s.dev.sys.held = false → s.dev.mode ≠ mFallow →
    e = s.dev.emit (.spiOut [s.dev.spiStatusByte]) → e.reach .spi true = (d, some priv) → a.toNat ≤ barTop →
    placeOf a.toNat = .register o →
    exec (.spiRegWrite a v) s = .next { s with
      dev := (busWrite s.rows .spi priv false d s.mem a.toNat v.toNat 0xF).1 })
  ∧ (∀ (s : State) (a v : Word), s.dev.sys.held = false → s.dev.mode = mFallow → s.dev.sys.bootFail ≠ 4 →
    exec (.spiRegRead a) s = .next { s with dev := s.dev.wakeFrom 4 true }
    ∧ exec (.spiRegWrite a v) s = .next { s with dev := s.dev.wakeFrom 4 true })

/-- DMA_CONFIG, DMA_POST, DMA_STATUS and DMA_CONTROL complete. A channel without work takes a configuration and starts
over; descriptors without a fault join the list of a channel that is configured and not halted, answered ST_QUEUED with
the running number of the first and the entries left; the status is Table 6.9; a halted channel resumes at the failing
request or discards its list, and a stop discards it in any state. -/
def Obligations.DmaCommandsComplete : Prop :=
  (∀ (s : State) (p : Packet) (x : Session) (k : Fin 32), Ready specDmaConfig p x s → par p 0 1 = k.val →
    within 0 1 (par p 1 1) → within 0 15 (par p 2 1) → within 0 7 (par p 3 1) → within 0 511 (par p 4 2) →
    reservedZero p 6 2 → s.dev.dma.ch[k].pendingAny = false →
    (s.dev.dma.ch[k].state ≠ 3 → s.dev.dma.ch[k].swathFeed = true →
      s.dev.swathInUse s.dev.dma.ch[k].swath = false) →
    (par p 1 1 = 1 → s.dev.swathBusy (Fin.ofNat 16 (par p 2 1)) = false) →
    exec (.dmaConfig p) s = answered s p ((s.dev.causeGone (idDmaErr k.val)).modCh k fun y => {
      state := 0, swathFeed := par p 1 1 == 1, swath := Fin.ofNat 16 (par p 2 1)
      retryMax := BitVec.ofNat 3 (par p 3 1), vector := BitVec.ofNat 9 (par p 4 2)
      reads := y.reads.filter fun q => q.dead }) [])
  ∧ (∀ (s : State) (p : Packet) (x : Session) (k : Fin 32) (y : Channel) (ds : List Desc) (d : Dev),
    Ready specDmaPost p x s → par p 0 1 = k.val → y = s.dev.dma.ch[k] → y.state ≠ 3 → reservedZero p 1 1 →
    within 1 126 (par p 2 2) → ds = postedDescs (pktParams p) →
    (∀ t ∈ ds, s.dev.descFault y.swathFeed y.swath t = none) → ds.length + y.entries ≤ 256 →
    replyFits p x.macRequired 6 = true → y.state ≠ 2 →
    y.swathFeed = true ∨ (∀ t ∈ ds, s.dev.descBusy t = false) →
    d = (s.dev.modCh k fun z => { z with list := z.list ++ ds }).modCh k Channel.norm →
    exec (.dmaPost p) s = .next { s with
      dev := d.answer p stQueued noField
        (leBytes 4 (y.next.toNat + y.list.length) ++ leBytes 2 (256 - d.dma.ch[k].entries)) })
  ∧ (∀ (s : State) (p : Packet) (x : Session) (k : Fin 32) (y : Channel), Ready specDmaStatus p x s →
    par p 0 1 = k.val → y = s.dev.dma.ch[k] → replyFits p x.macRequired 20 = true →
    exec (.dmaStatus p) s = answered s p s.dev (leBytes 1 y.stateSeen.toNat ++ leBytes 1 y.retries
      ++ leBytes 2 y.entries ++ leBytes 4 y.done.toNat ++ leBytes 4 y.fenced.toNat ++ leBytes 4 y.errIdx.toNat
      ++ leBytes 4 y.errorCode.toNat))
  ∧ (∀ (s : State) (p : Packet) (x : Session) (k : Fin 32), Ready (specDmaControl 0) p x s → par p 0 1 = k.val →
    exec (.dmaControlResume p) s = answered s p (s.dev.dmaResume k) [])
  ∧ (∀ (s : State) (p : Packet) (x : Session) (k : Fin 32), Ready (specDmaControl 1) p x s → par p 0 1 = k.val →
    exec (.dmaControlDiscard p) s =
      answered s p (if s.dev.dma.ch[k].state = 2 then s.dev.dmaDiscard k else s.dev) [])
  ∧ (∀ (s : State) (p : Packet) (x : Session) (k : Fin 32), Ready (specDmaControl 2) p x s → par p 0 1 = k.val →
    exec (.dmaControlStop p) s = answered s p (s.dev.dmaDiscard k) [])

/-- The rows of the DMA engine complete. The channel the discipline serves issues a read; a read's data of the length
asked for fills it and forms entries, whichever read ends first, and DMA_ECC counts what ECC corrected; an abort, an
unsupported request, an ECC word of the cache, a cache that has failed or a timeout is an error with its code, for good while
host memory is out of reach, and the end of a read that a stop has discarded only frees its tag; the write engine's channel sends its next beat; a FENCE whose predecessors are done completes with DMA kind 1, or
fails with its read; the slots every row has passed are free once their die has
told the hub, as far as its messages have found a credit. -/
def Obligations.DmaEngineComplete : Prop :=
  (∀ (s : State) (k : Fin 32) (b d : Dev), b = s.dev.form 64 →
    b.served (fun c => (b.readTurn c).isSome) b.dma.rrFeed b.dma.rrGen = some k → b.readTurn k = some d →
    exec (.dmaReadIssue k) s = .next { s with
      dev := (d.modDma fun x =>
        if d.dma.ch[k].swathFeed then { x with rrFeed := k.val } else { x with rrGen := k.val }).dmaRun k })
  ∧ (∀ (s : State) (k : Fin 32) (n : BitVec 9) (bytes b : List Byte) (corrected : BitVec 16) (q : ReadReq),
    s.dev.dma.ch[k].waiting n = some q → (q.cache = true → (s.dev.src idLpddrFail).cause = false) →
    b = (if q.cache then s.mem.cbytes q.address q.len else bytes) → b.length = q.len →
    exec (.dmaReadCompletion ⟨k, n⟩ (.data bytes corrected)) s = .next { s with
      dev := ((s.dev.modDma fun x => { x with
          ecc := if q.cache then satTo 0xFFFFFFFF (x.ecc + corrected.toNat) else x.ecc }).modCh k fun x =>
        (x.modRead q.half fun y => { y with data := some b }).endDead fun y => y.half == q.half).dmaRun k })
  ∧ (∀ (s : State) (k : Fin 32) (n : BitVec 9) (cache : Bool) (code : BitVec 2) (c : Instr) (q : ReadReq)
      (early : Bool) (mark : Channel → Channel),
    (c = .dmaReadCompletion ⟨k, n⟩ .abort ∧ cache = false ∧ code = 1)
      ∨ (c = .dmaReadCompletion ⟨k, n⟩ .unsupported ∧ cache = false ∧ code = 3)
      ∨ (c = .dmaReadCompletion ⟨k, n⟩ .cacheEcc ∧ cache = true ∧ code = 2)
      ∨ ((∃ bytes fixed, c = .dmaReadCompletion ⟨k, n⟩ (.data bytes fixed)) ∧ cache = true ∧ code = 2
        ∧ (s.dev.src idLpddrFail).cause = true)
      ∨ (c = .dmaCompletionTimeout ⟨k, n⟩ ∧ cache = false ∧ code = 1) →
    s.dev.dma.ch[k].waiting n = some q → q.cache = cache → mark = Channel.failReads (fun r => r.half == q.half) →
    early = s.dev.dma.ch[k].early q.half →
    (q.dead = true → exec c s = .next { s with
      dev := (s.dev.modCh k (Channel.endDead fun r => r.half == q.half)).dmaRun k })
    ∧ (q.dead = false → exec c s = .next { s with
      dev := (if cache = false ∧ s.dev.hostDown = true then s.dev.dmaHostFail k q.num early mark
        else s.dev.dmaError k q.num code early mark).dmaRun k }))
  ∧ (∀ (s : State) (k : Fin 32) (b : Beat) (bs : List Beat) (f d : Dev) (r : Dev × Banks), f = s.dev.form 64 →
    f.writeTurn = some k → f.dma.ch[k].beats = b :: bs →
    d = f.modCh k (fun x => { x with
      beats := bs
      reads := x.reads.filter fun q => !b.frees.contains q.half }) →
    r = (d.modDma fun x =>
      if d.dma.ch[k].swathFeed then { x with turn := if b.last then none else some k, wrFeed := k.val }
      else { x with turn := if b.last then none else some k, wrGen := k.val }).writeBeat s.mem k b →
    exec (.dmaWriteBeat k) s = .next { s with dev := r.1.dmaRun k, mem := r.2 })
  ∧ (∀ (s : State) (k : Fin 32) (x : Channel) (f : FenceWait) (e : FenceEnd), x = s.dev.dma.ch[k] →
    x.fenceDue = some f → x.state ≠ 2 → x.state ≠ 3 →
    (x.lastHost = none ∨ (s.dev.hostDown = false ∧ x.hostDropped = false ∧ e = .ok) →
      exec (.fenceComplete k e) s = .next { s with
        dev := ((s.dev.modCh k fun y => ({ y with
            fences := y.fences.drop 1, fenced := f.num
            retries := if y.retryNum = f.num then 0 else y.retries } : Channel).norm).event
          evDma 1 k.val (leBytes 4 f.num.toNat)).raise x.vector.toNat })
    ∧ (x.lastHost ≠ none → s.dev.hostDown = true ∨ x.hostDropped = true →
      exec (.fenceComplete k e) s = .next { s with dev := s.dev.dmaHostFail k f.num false Channel.failFence })
    ∧ (x.lastHost ≠ none → s.dev.hostDown = false → x.hostDropped = false →
      exec (.fenceComplete k .abort) s = .next { s with dev := s.dev.dmaError k f.num 1 false Channel.failFence }
      ∧ exec (.fenceComplete k .unsupported) s = .next { s with
        dev := s.dev.dmaError k f.num 3 false Channel.failFence }))
  ∧ (∀ (s : State) (gp : Fin 112) (d : Dev) (told waiting : Nat), d = s.dev.tellSlots gp →
    told = (d.ports[gp].slots.filter fun x => x.told).length →
    waiting = (d.dies[dieOf gp]).ctrlWaitUp.count (.slotFreed gp) →
    exec (.lineSlotFreed gp) s = .next { s with
      dev := d.modPort gp fun p => { p with slots := p.slots.drop (told - waiting) } })

/-- SCAN_START, MAP_EDIT, MAP_READ, RAW_READ, BAND_SET, CAL_WRITE and PATTERN_PRINT complete. A scan begins at nozzle 0
of every port of its map and is answered ST_QUEUED; map entries, raw entries, bands and calibration sets are edited,
read and written whole; a pattern is armed at its starting count on every row of its swath. -/
def Obligations.MapCommandsComplete : Prop :=
  (∀ (s : State) (p : Packet) (x : Session) (background : Bool) (ports : List (Fin 112)) (st : BitVec 2)
    (d : Dev),
    Ready (if background then specScanStart 1 mPrint else specScanStart 0 mCalibrate) p x s →
    st = (if background then 2 else 1) → ports = mapPorts (par p 0 14) → s.dev.mapPresent (par p 0 14) = true →
    (∀ gp ∈ ports, s.dev.ports[gp].on = true ∧ s.dev.portEmpty gp = false ∧ s.dev.ports[gp].scan.state = 0
      ∧ s.dev.portContained gp = false
      ∧ (background ∨ ∀ w, s.dev.swathOf gp.val = some w → s.dev.patterned w = false)) →
    reservedZero p 14 2 →
    d = ports.foldl (fun e gp => e.beginScan st e.ports[gp].nozzles false gp) s.dev →
    exec (if background then .scanStartBackground p else .scanStartForeground p) s =
      .next { s with dev := d.answer p stQueued noField [] })
  ∧ (∀ (s : State) (p : Packet) (x : Session) (gp : Fin 112) (r : Dev × Banks), Ready (specMapEdit 0 (lenIs 8)) p x s →
    par p 0 1 = gp.val → s.dev.hasPort gp.val = true → within 0 2 (par p 1 1) →
    (if par p 1 1 = 2 then getF 1 4 (par p 2 1) = 0 ∧ getF 5 2 (par p 2 1) ≠ 3 else Nat.land (par p 2 1) 0x7E = 0) →
    reservedZero p 3 1 → within 1 10240 (par p 4 2) → within 0 10239 (par p 6 2) →
    par p 6 2 + par p 4 2 ≤ s.dev.ports[gp].nozzles →
    r = mapEdits gp.val (par p 1 1) (par p 2 1) (s.dev, s.mem) ((List.range (par p 4 2)).map (par p 6 2 + ·)) →
    exec (.mapEditRun p) s = answered { s with mem := r.2 } p r.1 [])
  ∧ (∀ (s : State) (p : Packet) (x : Session) (gp : Fin 112) (r : Dev × Banks),
    Ready (specMapEdit 1 fun ps => decide (6 ≤ ps.length) && ps.length == 6 + 2 * pU ps 4 2) p x s →
    par p 0 1 = gp.val → s.dev.hasPort gp.val = true → within 0 2 (par p 1 1) →
    (if par p 1 1 = 2 then getF 1 4 (par p 2 1) = 0 ∧ getF 5 2 (par p 2 1) ≠ 3 else Nat.land (par p 2 1) 0x7E = 0) →
    reservedZero p 3 1 → within 1 2027 (par p 4 2) →
    (∀ i < par p 4 2, par p (6 + 2 * i) 2 ≤ 10239 ∧ par p (6 + 2 * i) 2 < s.dev.ports[gp].nozzles) →
    r = mapEdits gp.val (par p 1 1) (par p 2 1) (s.dev, s.mem)
      ((List.range (par p 4 2)).map fun i => par p (6 + 2 * i) 2) →
    exec (.mapEditList p) s = answered { s with mem := r.2 } p r.1 [])
  ∧ (∀ (s : State) (p : Packet) (x : Session) (gp : Fin 112) (raw : Bool) (w : Nat) (r : Dev × List Byte),
    Ready (if raw then specRawRead else specMapRead) p x s → w = (if raw then 2 else 1) →
    par p 0 1 = gp.val → s.dev.hasPort gp.val = true → reservedZero p 1 1 → within 0 10239 (par p 2 2) →
    within 1 (if raw then 2030 else 4060) (par p 4 2) → par p 2 2 + par p 4 2 ≤ s.dev.ports[gp].nozzles →
    replyFits p x.macRequired (w * par p 4 2) = true →
    r = hostRead s.dev s.mem ((if raw then rawAddr else mapAddr) gp.val (par p 2 2)) (w * par p 4 2) →
    exec (if raw then .rawRead p else .mapRead p) s = answered s p r.1 r.2)
  ∧ (∀ (s : State) (p : Packet) (x : Session) (gp : Fin 112), Ready specBandSet p x s →
    par p 0 1 = gp.val → s.dev.hasPort gp.val = true → reservedZero p 1 1 → within 1 7000 (par p 2 2) →
    within 1 7000 (par p 4 2) → within 1 7000 (par p 6 2) → within 1 7000 (par p 8 2) → par p 2 2 < par p 4 2 →
    par p 4 2 < par p 6 2 → par p 6 2 < par p 8 2 → s.dev.ports[gp].scan.state = 0 → s.dev.portInUse gp.val = false →
    exec (.bandSet p) s = answered s p (s.dev.modPort gp fun y => { y with scan := { y.scan with
      bandShort := BitVec.ofNat 16 (par p 2 2), bandLow := BitVec.ofNat 16 (par p 4 2)
      bandHigh := BitVec.ofNat 16 (par p 6 2), bandOpen := BitVec.ofNat 16 (par p 8 2) } }) [])
  ∧ (∀ (s : State) (p : Packet) (x : Session) (gp : Fin 112) (r : Dev × Banks), Ready specCalWrite p x s →
    par p 0 1 = gp.val → s.dev.hasPort gp.val = true → within 0 3 (par p 1 1) →
    -1024 ≤ parI p 2 2 ∧ parI p 2 2 ≤ 1023 → -49152 ≤ parI p 4 4 ∧ parI p 4 4 ≤ 49152 →
    -49152 ≤ parI p 8 4 ∧ parI p 8 4 ≤ 49152 → (parI p 4 4).natAbs + (parI p 8 4).natAbs ≤ 49152 →
    reservedZero p 20 4 → s.dev.calInUse gp.val (par p 1 1) = false →
    r = putRange s.dev s.mem (calAddr gp.val (par p 1 1))
      (((pktParams p).drop 2).take 2 ++ [0, 0] ++ ((pktParams p).drop 4).take 16 ++ List.replicate 12 0) →
    exec (.calWrite p) s = answered { s with mem := r.2 } p r.1 [])
  ∧ (∀ (s : State) (p : Packet) (x : Session) (w : Fin 16) (n : Nat) (y : Swath) (now : EncCopy) (start : Word) (pos : Nat),
    Ready specPatternPrint p x s → par p 0 1 = w.val → y = s.dev.swaths[w] → y.defined = true → par p 2 2 = n →
    now = s.dev.pos.enc[y.channel].copies[0] → start = BitVec.ofNat 32 (par p 4 4) + y.barOffset →
    within 0 3 (par p 1 1) → within 1 65535 n → y.state ≠ 3 → y.pendingRun = none →
    (∀ gp ∈ s.dev.swathPorts w, s.dev.ports[gp].scan.state = 0) → after start now.count = true →
    pos = add40 now.ext (start - now.count).toNat →
    exec (.patternPrint p) s = answered s p (s.dev.modSwath w fun z => { z with
      epoch := y.epoch + 1
      switch := some {
        pos := pos
        run := some {
          epoch := y.epoch + 1, origin := pos, gearNum := y.gearNum, gearDen := y.gearDen, policy := patternPolicy y
          pattern := some (BitVec.ofNat 2 (par p 1 1)), lines := if n = 65535 then none else some n }
        tag := y.epoch + 1 }
      gens := vall (fun (g : LineGen) =>
        { g with armed := true, crossed := false, late := g.behind z.switch }) z.gens }) [])

/-- SWATH_DEFINE, JOB_WRITE, JOB_READ, JOB_SWITCH, JOB_CANCEL and JOB_STATUS complete. A swath is defined or cleared and
answered with its rate limit; a context is written and read back; a valid context arms its job at the boundary asked
for, or at the ASAP boundary; JOB_CANCEL disarms or ends the job; JOB_STATUS answers its table. -/
def Obligations.JobCommandsComplete : Prop :=
  (∀ (s : State) (p : Packet) (x : Session) (w : Fin 16) (take : Bool) (d : Dev), Ready specSwathDefine p x s →
    par p 0 1 = w.val → within 0 3 (par p 1 1) → par p 2 1 ≤ 1 → reservedZero p 3 1 → par p 8 14 ≠ 0 →
    s.dev.mapPresent (par p 8 14) = true → reservedZero p 22 2 → replyFits p x.macRequired 4 = true →
    s.dev.swathBusy w = false →
    (∀ gp : Fin 112, (par p 8 14).testBit gp.val = true → s.dev.swathOf gp.val = none ∨ s.dev.swathOf gp.val = some w) →
    take = (getB 0 (par p 2 1) || !((fins 16).any fun k => s.dev.swaths[k].reference)) →
    d = ({ s.dev with
      swaths := if take then vall (fun (y : Swath) => { y with reference := false }) s.dev.swaths
        else s.dev.swaths } : Dev).modSwath w (fun y => { y with
          defined := true, reference := y.reference || take, channel := Fin.ofNat 4 (par p 1 1)
          barOffset := BitVec.ofNat 32 (par p 4 4), portMap := BitVec.ofNat 112 (par p 8 14)
          state := if y.defined then y.state else 1 }) →
    exec (.swathDefine p) s = answered s p d.refreshRates (leBytes 4 (d.swathHz w)))
  ∧ (∀ (s : State) (p : Packet) (x : Session) (w : Fin 16), Ready specSwathDefine p x s →
    par p 0 1 = w.val → within 0 3 (par p 1 1) → within 2 3 (par p 2 1) → reservedZero p 3 1 → par p 8 14 = 0 →
    reservedZero p 22 2 → replyFits p x.macRequired 4 = true → s.dev.swathBusy w = false →
    s.dev.swaths[w].reference = false ∨ (∀ k : Fin 16, k ≠ w → s.dev.swaths[k].defined = false) →
    exec (.swathDefine p) s = answered s p
      (s.dev.modSwath w fun y => { epoch := y.epoch, gens := y.gens }).refreshRates (leBytes 4 0))
  ∧ (∀ (s : State) (p : Packet) (x : Session) (r : Dev × Banks), Ready specJobWrite p x s → reservedZero p 1 1 →
    within 0 8191 (par p 2 2) → par p 2 2 + ((pktParams p).length - 4) ≤ 8192 → s.dev.ctxInUse (par p 0 1) = false →
    r = putRange s.dev s.mem (ctxBase (par p 0 1) + par p 2 2) ((pktParams p).drop 4) →
    exec (.jobWrite p) s = answered { s with mem := r.2 } p r.1 [])
  ∧ (∀ (s : State) (p : Packet) (x : Session) (r : Dev × List Byte), Ready specJobRead p x s → reservedZero p 1 1 →
    within 0 8191 (par p 2 2) → within 1 4060 (par p 4 2) → par p 2 2 + par p 4 2 ≤ 8192 →
    replyFits p x.macRequired (par p 4 2) = true →
    r = hostRead s.dev s.mem (ctxBase (par p 0 1) + par p 2 2) (par p 4 2) →
    exec (.jobRead p) s = answered s p r.1 r.2)
  ∧ (∀ (s : State) (p : Packet) (x : Session) (d : Dev) (bs : List Byte) (ref : Fin 16) (now asked used : Nat)
      (runs : List (Fin 16 × Run)) (a : Armed), Ready specJobSwitch p x s →
    bs = s.mem.bytes (ctxBase (par p 0 1)) 8192 → d = s.dev.ceIn (ctxBase (par p 0 1)) 8192 →
    d.badWordsIn (ctxBase (par p 0 1)) 8192 = [] → d.refSwath = some ref →
    d.ctxValid (d.sound s.mem) bs (par p 0 1) ref = true → within 0 1 (par p 1 1) →
    reservedZero p 3 1 → now = (d.pos.enc[d.swaths[ref].channel].copies[0]).ext →
    asked = extPos (BitVec.ofNat 8 (par p 2 1)) (BitVec.ofNat 32 (par p 4 4)) → diff40 asked now ≤ 0x7FFFFFFF →
    replyFits p x.macRequired 4 = true → d.armed = none → d.jobActive (par p 0 1) = false →
    runs = (ctxSwaths bs).map (fun k => (k, entryRun bs (par p 0 1) k)) →
    used = (if par p 1 1 = 1 then d.asapBoundary ref now asked (d.switching runs) else asked) →
    par p 1 1 = 1 ∨ (0 ≤ diff40 used now ∧ ∀ y ∈ d.switching runs,
      tooNear 8 (d.ratioFor y.1 y.2) (d.switchPos used y.1) now = false) →
    (d.arm (par p 0 1) used runs).armed = some a →
    exec (.jobSwitch p) s =
      if a.waitAck = [] then answered s p (d.arm (par p 0 1) used runs) (leBytes 4 used)
      else .next { s with dev := (d.arm (par p 0 1) used runs).finish p (.park (.arming (par p 0 1))) })
  ∧ (∀ (s : State) (p : Packet) (x : Session) (d : Dev) (k : Nat × Nat × Nat) (ks : List (Nat × Nat × Nat)),
    Ready specJobSwitch p x s → d = s.dev.ceIn (ctxBase (par p 0 1)) 8192 →
    d.badWordsIn (ctxBase (par p 0 1)) 8192 = k :: ks →
    exec (.jobSwitch p) s = .next { s with
      dev := (d.ueIn (ctxBase (par p 0 1)) 8192).finish p (.status stBadParam 24) })
  ∧ (∀ (s : State) (p : Packet) (x : Session) (a : Armed), Ready (specJobCancel 0) p x s → s.dev.armed = some a →
    a.job = par p 0 1 → a.toSwitch.length = a.swaths.length →
    exec (.jobCancelDisarm p) s = answered s p s.dev.disarmKeep [])
  ∧ (∀ (s : State) (p : Packet) (x : Session) (d : Dev), Ready (specJobCancel 1) p x s →
    s.dev.printing (par p 0 1) = true →
    d = (fins 16).foldl (fun e k =>
      if e.swaths[k].state = 2 && e.swaths[k].job = par p 0 1 then e.endSwath k else e)
        (if ∃ a, s.dev.armed = some a ∧ a.job = par p 0 1 then s.dev.disarmKeep else s.dev) →
    exec (.jobCancelEnd p) s =
      if d.printing (par p 0 1) then .next { s with dev := d.finish p (.park (.jobEnd (par p 0 1))) }
      else answered s p d [])
  ∧ (∀ (s : State) (p : Packet) (x : Session), Ready specJobStatus p x s → replyFits p x.macRequired 72 = true →
    exec (.jobStatus p) s = answered s p s.dev (leBytes 2 (s.dev.activeJob.getD 0xFFFF)
      ++ (match s.dev.armed with
        | some a => leBytes 2 a.job ++ leBytes 4 a.boundary.toNat
        | none => leBytes 2 0xFFFF ++ leBytes 4 0)
      ++ (fins 16).flatMap fun k => leBytes 4 (s.dev.linesOf k)))

/-- The rows that follow the arming of a job. A commit that has left the hub and reaches a die before the switch
position of each swath the arming switches there is near is acknowledged: the die's generators take the switch, and it is
waited for no longer once its answer has left it against a credit. A late one raises the channel's divergence when its
answer has left. A commit that still waits for a credit does nothing yet. A die whose acknowledgement does not come in
time has TINE_LINK detected and is waited for no longer. The model's choices here: that the arming goes on without such a
die (DEDUCED, log 18), and which messages of a die wait for a CTRL credit (log 70). -/
def Obligations.CommitRowsComplete : Prop :=
  (∀ (s : State) (f : Fin 7) (a : Armed) (mine : List (Fin 16)) (d : CtrlMsg → Dev), s.dev.armed = some a → f ∈ a.waitAck →
    CtrlMsg.commit ∉ s.dev.dies[f].ctrlWait →
    mine = (fins 16).filter (fun k => a.switching.contains k && (s.dev.swathDies k).contains f) →
    d = (fun y => s.dev.modDie f fun z => z.sendCtrl true y) →
    (∀ r : Dev, (∀ k ∈ mine, ∀ y, s.dev.swaths[k].switch = some y → tooNear 4 (s.dev.ratioFor k y.run) y.pos
      ((s.dev.pos.enc[s.dev.swaths[k].channel].copies[f.val + 1]'(by omega)).ext) = false) →
      r = mine.foldl (fun d k => (d.modSwath k fun w =>
        { w with gens := vmod w.gens ⟨f.val + 1, by omega⟩ fun g => { g with armed := true } }).refillSwath k) (d .commitAck) →
      exec (.jobCommit f) s = .next { s with dev := if s.dev.dies[f].ctrlCreditsUp = 0 then r else r.ackDie f })
    ∧ ∀ (k : Fin 16) (rest : List (Fin 16)) (r : Dev), mine.filter (fun k => match s.dev.swaths[k].switch with
        | some y => tooNear 4 (s.dev.ratioFor k y.run) y.pos
          ((s.dev.pos.enc[s.dev.swaths[k].channel].copies[f.val + 1]'(by omega)).ext)
        | none => false) = k :: rest →
      r = d (.commitLate s.dev.swaths[k].channel) →
      exec (.jobCommit f) s = .next { s with
        dev := if s.dev.dies[f].ctrlCreditsUp = 0 then r else r.detect (idDiverge s.dev.swaths[k].channel.val) })
  ∧ (∀ (s : State) (f : Fin 7) (a : Armed), s.dev.armed = some a → CtrlMsg.commit ∈ s.dev.dies[f].ctrlWait →
    exec (.jobCommit f) s = .next s)
  ∧ (∀ (s : State) (f : Fin 7) (a : Armed), s.dev.armed = some a → f ∈ a.waitAck →
    exec (.commitAckTimeout f) s = .next { s with dev := (s.dev.detect (idDie f.val oTineLink)).ackDie f })

/-- PORT_CONFIG, PORT_ENABLE, WAVE_WRITE, HEAT_CONFIG, PULSE_AUX and PORT_STATUS complete for every port the variant
has. PORT_CONFIG stores the port's geometry and answers its minimum line period and its rate limit; PORT_ENABLE raises
or lowers HPEN with Enable, or changes nothing; WAVE_WRITE writes entries of a wave set and forms Tmin again;
HEAT_CONFIG and PULSE_AUX store their fields; PORT_STATUS answers Table 6.17. -/
def Obligations.PortCommandsComplete : Prop :=
  (∀ (s : State) (p : Packet) (x : Session) (gp : Fin 112), Ready specPortConfig p x s →
    par p 0 1 = gp.val → s.dev.hasPort gp.val = true → within 0 1 (par p 1 1) → within 64 10240 (par p 2 2) →
    par p 2 2 % 64 = 0 → within 1 64 (par p 4 1) → par p 4 1 % s.dev.ports[gp].nBanks = 0 → par p 5 1 < par p 4 1 →
    within 1 3 (par p 6 1) → reservedZero p 7 1 → within 0 1000 (par p 8 2) → replyFits p x.macRequired 8 = true →
    s.dev.portInUse gp.val = false → s.dev.ports[gp].on = false →
    ∃ d : Dev,
      d = (s.dev.modPort gp fun y => { y with
        group := par p 1 1 == 1, blocks := BitVec.ofNat 8 (par p 2 2 / 64), addrM1 := BitVec.ofNat 6 (par p 4 1 - 1)
        rotStep := BitVec.ofNat 6 (par p 5 1), phases := BitVec.ofNat 2 (par p 6 1)
        slotGap := BitVec.ofNat 10 (par p 8 2), stagger := BitVec.ofNat 16 (par p 10 2) }).newTmin s.mem gp
      ∧ exec (.portConfig p) s =
          answered s p d (leBytes 4 d.ports[gp].tmin ++ leBytes 4 (d.portHz d.ports[gp])))
  ∧ (∀ (s : State) (p : Packet) (x : Session) (gp : Fin 112), Ready specPortEnable p x s →
    par p 0 1 = gp.val → s.dev.hasPort gp.val = true →
    (par p 1 1 = 1 → s.dev.ports[gp].heat.tsnValid = true → s.dev.ports[gp].configured = true →
      s.dev.ports[gp].on = false → exec (.portEnable p) s = answered s p (s.dev.portOn gp) [])
    ∧ (par p 1 1 = 0 → s.dev.ports[gp].on = true ∨ s.dev.ports[gp].powered = true → s.dev.portInUse gp.val = false →
      s.dev.ports[gp].scan.state = 0 → exec (.portEnable p) s = answered s p (s.dev.portOff gp) [])
    ∧ (par p 1 1 = 0 → s.dev.ports[gp].on = false → s.dev.ports[gp].powered = false →
      exec (.portEnable p) s = answered s p s.dev [])
    ∧ (par p 1 1 = 1 → s.dev.ports[gp].heat.tsnValid = true → s.dev.ports[gp].configured = true →
      s.dev.ports[gp].on = true → exec (.portEnable p) s = answered s p s.dev []))
  ∧ (∀ (s : State) (p : Packet) (x : Session) (gp : Fin 112) (r : Dev × Banks), Ready specWaveWrite p x s →
    par p 0 1 = gp.val → s.dev.hasPort gp.val = true → within 0 3 (par p 1 1) → within 0 63 (par p 2 1) →
    within 1 64 (par p 3 1) → (∀ i < par p 3 1, within 1 3 (par p (4 + 8 * i + 6) 2)) →
    par p 2 1 + par p 3 1 ≤ 64 → s.dev.waveInUse gp.val (par p 1 1) = false →
    r = putRange s.dev s.mem (waveAddr gp.val (par p 1 1) (par p 2 1)) ((pktParams p).drop 4) →
    r.2.tminOf gp.val s.dev.ports[gp] ≤ s.dev.ports[gp].tmin ∨
      (∀ w, s.dev.swathOf gp.val = some w → s.dev.swaths[w].state ≠ 2 ∧ s.dev.swaths[w].state ≠ 3) →
    exec (.waveWrite p) s = answered { s with mem := r.2 } p (r.1.newTmin r.2 gp) [])
  ∧ (∀ (s : State) (p : Packet) (x : Session) (gp : Fin 112), Ready specHeatConfig p x s →
    par p 0 1 = gp.val → s.dev.hasPort gp.val = true → within 0 2 (par p 1 1) →
    -400 ≤ parI p 2 2 ∧ parI p 2 2 ≤ 1250 → -400 ≤ parI p 4 2 ∧ parI p 4 2 ≤ 1250 →
    -400 ≤ parI p 6 2 ∧ parI p 6 2 ≤ 1250 → -400 ≤ parI p 8 2 ∧ parI p 8 2 ≤ 1250 → parI p 4 2 < parI p 6 2 →
    parI p 6 2 < parI p 8 2 → within 0 200 (par p 10 2) →
    exec (.heatConfig p) s = answered s p ((s.dev.modPort gp fun y => { y with heat := { y.heat with
      hotAction := BitVec.ofNat 2 (par p 1 1), bandBase := parI p 2 2, warm := parI p 4 2, hotTh := parI p 6 2
      critTh := parI p 8 2, hyst := par p 10 2, fresh := true } }).refreshRates) [])
  ∧ (∀ (s : State) (p : Packet) (x : Session) (gp : Fin 112), Ready specPulseAux p x s →
    par p 0 1 = gp.val → s.dev.hasPort gp.val = true → within 0 1 (par p 1 1) → within 1 1000 (par p 2 2) →
    within 0 7 (par p 4 1) → reservedZero p 5 1 → within 20 1000 (par p 6 2) →
    exec (.pulseAux p) s = answered s p (s.dev.modPort gp fun y => { y with heat := { y.heat with
      keepWarm := par p 1 1 == 1, keepWarmNs := BitVec.ofNat 10 (par p 2 2)
      spitPattern := BitVec.ofNat 3 (par p 4 1), headlandMinUs := BitVec.ofNat 10 (par p 6 2) } }) [])
  ∧ (∀ (s : State) (p : Packet) (x : Session) (gp : Fin 112) (y : Port), Ready specPortStatus p x s →
    par p 0 1 = gp.val → s.dev.hasPort gp.val = true → y = s.dev.ports[gp] → replyFits p x.macRequired 28 = true →
    exec (.portStatus p) s = answered s p s.dev
      (leBytes 1 (s.dev.portState gp) ++ leBytes 1 y.heat.band.toNat ++ leBytes 2 (sfld 0 16 y.heat.temp)
        ++ leBytes 4 y.tmin ++ leBytes 4 y.underruns ++ leBytes 4 y.drops
        ++ leBytes 8 (if y.headValid then y.headId.toNat else 0) ++ leBytes 4 y.lines.toNat))

/-- A row's line completes its five moments. ROW_LINE_PROCESS gives the first waiting line whose data is complete the
levels of stages 2 to 5 and counts those lost, and a word of the line in error leaves it incomplete; LINE_COMMIT gives
the next line the start last predicted for it, on the grid, and stops a background piece at its next slot boundary;
LINE_START starts it at E(L), no earlier than S(L), within the window tolerance, or takes it blank on a HOT port under
HOT_ACTION 0; FIRE_WINDOW_CLOSE takes a started, a blanked or a passed line from the queue, counts a missed one, and takes
off a token whose run has ended; LINE_BOUNDARY ends the row's sequence, renews its band and lets what waited for the
boundary take effect. Every one reads the memory as internal readers see it (`State.banks`). -/
def Obligations.FiringRowsComplete : Prop :=
  (∀ (s : State) (gp : Fin 112) (row : RowId) (w : Fin 16) (r : Run) (t : Token) (d : Dev) (y : List Nat × Nat × Bool),
    (s.dev.ports[gp].row row).queue.find? (s.dev.tokenReady gp) = some t →
    s.dev.runOf gp t.epoch = some (w, r) →
    d = (s.dev.lineReads gp r t.line).foldl (fun d x => d.ueIn x.1 x.2) s.dev →
    y = d.rowLine (s.banks) w gp row r t.line →
    (r.pattern.isSome ∨ s.dev.badWordsIn (lineAddr gp.val t.line) (s.dev.ports[gp].nozzles / 4) = [] →
      exec (.rowLineProcess gp row) s = .next { s with
        dev := (d.modPort gp fun p => { p with lost := min 0xFFFFFFFF (p.lost + y.2.1) }).modRow gp row fun q =>
          { q with
            queue := modToken (d.tokenReady gp) (fun t => { t with processed := some y.1, dots := y.2.2 }) q.queue } })
    ∧ (r.pattern = none → s.dev.badWordsIn (lineAddr gp.val t.line) (s.dev.ports[gp].nozzles / 4) ≠ [] →
      exec (.rowLineProcess gp row) s = .next { s with
        dev := d.modPort gp fun p => { p with
          slots := p.slots.map fun x =>
            if x.epoch = r.epoch ∧ x.line = t.line then { x with complete := false } else x } }))
  ∧ (∀ (s : State) (gp : Fin 112) (row : RowId) (w : Fin 16) (r : Run) (t : Token) (pred : Option Rat)
      (full skip : Bool) (d : Dev),
    (s.dev.ports[gp].row row).queue.find? (fun t => t.start.isNone) = some t → s.dev.runOf gp t.epoch = some (w, r) →
    s.dev.swathReversed w gp = false → pred = s.dev.predToken (s.banks) gp row t →
    pred.isSome ∨ s.dev.lineAhead (s.banks) w gp row r t.line < 0 → full = s.dev.lineComplete gp r t.line →
    skip = ((s.dev.ports[gp].row row).waitData && !full) →
    d = (if skip || s.dev.mute gp then s.dev else s.dev.stopPiece gp fun x => x.slotNs) →
    ∀ reached, exec (.lineCommit gp row reached) s = .next { s with
      dev := (d.togglePort gp fun n => 0x203 + 4 * n).modRow gp row fun q =>
        { q with
          waitData := q.waitData && !full
          queue := modToken (fun t => t.start.isNone) (fun z => { z with
            start := some (pred.getD (d.fireNow gp))
            complete := full && z.processed.isSome
            skip := skip
            missed := !reached || pred.isNone || (full && z.processed.isNone) }) q.queue } })
  ∧ (∀ (s : State) (gp : Fin 112) (row : RowId) (w : Fin 16) (r : Run) (t : Token) (ts : List Token) (x : Rat),
    (s.dev.ports[gp].row row).queue = t :: ts → s.dev.runOf gp t.epoch = some (w, r) → t.start = some x →
    t.started = false → t.blanked = false → t.missed = false → (s.dev.ports[gp].row row).firing = false →
    s.dev.swathReversed w gp = false →
    (s.dev.passOver w gp t = true → exec (.lineStart gp row) s = .next { s with
      dev := s.dev.modRow gp row fun q =>
        { q with queue := modToken (fun _ => true) (fun t => { t with skip := true }) q.queue } })
    ∧ (∀ e, s.dev.passOver w gp t = false →
      (s.dev.ports[gp].row row).earliest s.dev.ports[gp].piece x = some e → e ≤ x + r.policy.windowTolNs →
      x ≤ e
      ∧ (s.dev.ports[gp].blanking = false →
        exec (.lineStart gp row) s = .next { s with dev := s.dev.startLine (s.banks) w gp row r t e })
      ∧ (s.dev.ports[gp].blanking = true →
        exec (.lineStart gp row) s = .next { s with dev := s.dev.hotBlankLine gp row t })))
  ∧ (∀ (s : State) (gp : Fin 112) (row : RowId) (w : Fin 16) (r : Run) (t : Token) (ts : List Token) (d d2 : Dev),
    (s.dev.ports[gp].row row).queue = t :: ts → s.dev.runOf gp t.epoch = some (w, r) → t.start.isSome = true →
    d = s.dev.modRow gp row (fun q => { q with queue := q.queue.drop 1 }) →
    d2 = (if t.started || t.blanked then d
      else if s.dev.passOver w gp t then d.modRow gp row fun q => q.mark t.epoch t.line
      else d.missLine w gp r t.line) →
    exec (.fireWindowClose gp row) s = .next { s with
      dev := (((d2.refillSwath w).endByLength w).pruneRuns w).tellSlots gp })
  ∧ (∀ (s : State) (gp : Fin 112) (row : RowId) (w : Fin 16) (t : Token) (ts : List Token) (d : Dev),
    (s.dev.ports[gp].row row).queue = t :: ts → s.dev.runOf gp t.epoch = none → s.dev.swathOf gp.val = some w →
    t.start.isSome = true → d = s.dev.modRow gp row (fun q => { q with queue := q.queue.drop 1 }) →
    exec (.fireWindowClose gp row) s = .next { s with dev := ((d.refillSwath w).pruneRuns w).tellSlots gp })
  ∧ (∀ (s : State) (gp : Fin 112) (row : RowId) (d : Dev), (s.dev.ports[gp].row row).firing = true →
    d = s.dev.modRow gp row (fun q =>
      { q with firing := false, busyUntil := none, dots := false, band := s.dev.ports[gp].heat.band }) →
    exec (.lineBoundary gp row) s = .next { s with
      dev := ((d.afterStop gp).tellSlots gp).openWindow (s.banks) gp })

/-- KEEP_WARM_PIECE, SPIT_BURST, SCAN_ELEMENT and TSN_CONVERSION complete. A keep-warm piece that is due and fits gives
every healthy nozzle of both rows one pulse, on the 250 ps grid, and starts its period over; a burst that is due starts
the first of the lines that fit and counts it; an element is selected, measured, and its raw value and map byte are
written, or it is abandoned when the window closes on it, which is then over; a conversion's temperature comes from the
table, rejected below code 65 and above 15291. That a burst that is due holds back a keep-warm piece and an element, and
that neither starts in the sequence of a line, is the model's choice (log 75). -/
def Obligations.PieceRowsComplete : Prop :=
  (∀ (s : State) (gp : Fin 112) (d d2 : Dev) (p : Port) (m : Banks) (slot : Nat),
    m = s.banks → d = s.dev.closeWindow m gp → p = d.ports[gp] →
    slot = max (p.heat.keepWarmNs.toNat + max p.slotGap.toNat 2) (p.nRows * p.tx) → d.pieceFree gp = true →
    d.keepWarmDue gp = true → d.spitDue gp = false → d.fits m gp (p.slotsPerPhase * slot) = true →
    d2 = p.rowIds.foldl (fun x row => x.emit (.keepWarm gp.val row
      (p.slotPlan row (d.fireGrid gp) 0 slot [(0, 0, p.heat.keepWarmNs.toNat)]
        (m.pieceRow gp.val p row 1 fun _ => true)))) d →
    exec (.keepWarmPiece gp) s = .next { s with
      dev := (d2.startPiece gp false slot (p.slotsPerPhase * slot) 1).modPort gp fun p =>
        { p with heat := { p.heat with kwLast := some s.dev.sys.now } } })
  ∧ (∀ (s : State) (gp : Fin 112) (d d2 d3 : Dev) (p : Port) (m : Banks) (pat left k : Nat) (z : Piece),
    m = s.banks → d = s.dev.closeWindow m gp → p = d.ports[gp] → pat = p.heat.spitPattern.toNat →
    d.pieceFree gp = true → d.spitDue gp = true →
    left = (if p.heat.spitLeft = 0 then spitLines pat else p.heat.spitLeft) → k = d.spitFit m gp left → k ≠ 0 →
    z = { spit := true, start := d.fireGrid gp, pattern := p.heat.spitPattern, lineAt := d.fireGrid gp
          slotNs := p.slotNs, lineNs := p.tmin, stop := d.fireGrid gp + ((k * p.tmin : Nat) : Rat) } →
    d2 = d.modPort gp (fun q => { q.endPiece with
      piece := some z
      heat := { q.endPiece.heat with
        spitLeft := left, spitDone := true
        spitLast := if p.heat.spitLeft = 0 then some d.sys.now else q.endPiece.heat.spitLast } }) →
    d3 = p.rowIds.foldl (fun x row => x.emit (.spit gp.val row (spitLevel pat)
      (x.spitRow m gp (d.fireGrid gp) pat row))) d2 →
    exec (.spitBurst gp) s = .next { s with
      dev := d3.modPort gp fun q => { q with heat := { q.heat with
        spits := satInc q.heat.spits, spitLeft := q.heat.spitLeft - 1 } } })
  ∧ (∀ (s : State) (gp : Fin 112) (code : BitVec 14) (c : Scan) (x y : Dev × Banks) (b : Nat × Bool)
    (d d0 d1 : Dev),
    d0 = s.dev.closeWindow s.mem gp → c = d0.ports[gp].scan → c.state = 1 ∨ (c.state = 2 ∧ d0.elementFree s.mem gp = true) →
    d1 = (d0.emit (.testWord gp.val (BitVec.ofNat 16 (0x8000 + getF 0 14 c.next)))).modDie
      ⟨gp.val / 16, by omega⟩ Die.sendData →
    b = scanByte ((d0.sound s.mem).byte (mapAddr gp.val c.next)).toNat (classOf c (rawOf code.toNat)) →
    x = putRange d1 s.mem (rawAddr gp.val c.next) (leBytes 2 (rawOf code.toNat)) →
    y = putRange x.1 x.2 (mapAddr gp.val c.next) [BitVec.ofNat 8 b.1] →
    d = y.1.modPort gp (fun p => { p with scan := { p.scan with
      next := c.next + 1, measured := c.measured + 1
      newMasked := if b.2 then c.newMasked + 1 else c.newMasked } }) →
    ∀ closed, closed = false ∨ c.state = 1 ∨ d0.alwaysOpen gp = true →
    exec (.scanElement gp code closed) s = .next { s with
      dev := if c.limit ≤ c.next + 1 then d.endScan gp else d
      mem := y.2 })
  ∧ (∀ (s : State) (gp : Fin 112) (code : BitVec 14) (d0 : Dev), d0 = s.dev.closeWindow s.mem gp →
    d0.ports[gp].scan.state = 2 → d0.elementFree s.mem gp = true → d0.alwaysOpen gp = false →
    exec (.scanElement gp code true) s = .next { s with
      dev := (d0.emit (.testWord gp.val (BitVec.ofNat 16 (0x8000 + getF 0 14 d0.ports[gp].scan.next)))).modPort gp fun p =>
        { p with
          heat := { p.heat with headland := false }
          scan := { p.scan with aborts := satInc p.scan.aborts } } })
  ∧ (∀ (s : State) (gp : Fin 112) (code : BitVec 14) (d : Dev), s.dev.ports[gp].on = true → s.dev.sys.held = false →
    s.dev.mode ≠ mFallow → s.dev.hasPort gp.val = true →
    d = s.dev.modPort gp (fun p => { p with heat := { p.heat with code := code } }) →
    (within 65 15291 code.toNat →
      exec (.tsnConversion gp code) s = .next { s with dev := d.goodConversion gp code.toNat })
    ∧ (code.toNat ≤ 64 → exec (.tsnConversion gp code) s = .next { s with dev := d.badConversion gp false })
    ∧ (15292 ≤ code.toNat → exec (.tsnConversion gp code) s = .next { s with dev := d.badConversion gp true }))

/-- ENC_CONFIG, ENC_READ, ENCOUT_CONFIG and ENC_PRESET complete, and the rows that finish them. Every field of ENC_CONFIG
but a new Mode or Interp applies at once, and a command with such a one is answered when ENC_MODE_CHANGE has applied the
two and started every copy over; ENC_READ answers Table 6.21; a preset shifts the hub's copy and the runs of the channel,
and is answered once every die has applied the offset and its acknowledgement has left it. The model's choices here: what
a new Interp alone leaves (its index flag, its amplitude window, DIR, the time of the last count change) and that the
presets on their way are applied before the mode changes (log 22), and which messages wait for a CTRL credit (log 70). -/
def Obligations.EncoderCommandsComplete : Prop :=
  (∀ (s : State) (p : Packet) (x : Session) (ch : Fin 4) (e : Enc) (g : EncCfg), Ready specEncConfig p x s →
    par p 0 1 = ch.val → within 0 4 (par p 1 1) → within 0 1 (par p 2 1) → within 1 255 (par p 3 1) →
    within 1 4096 (par p 4 2) → within 50 5000 (par p 6 2) → within 1 4095 (par p 8 2) → within 2 4095 (par p 10 2) →
    par p 8 2 < par p 10 2 → reservedZero p 12 4 → s.dev.encInUse ch = false → e = s.dev.pos.enc[ch] →
    g = {
      mode := BitVec.ofNat 3 (par p 1 1), term := par p 2 1 == 1, winN := BitVec.ofNat 8 (par p 3 1)
      interp := BitVec.ofNat 13 (par p 4 2), bandwidth := BitVec.ofNat 13 (par p 6 2)
      winLo := BitVec.ofNat 12 (par p 8 2), winHi := BitVec.ofNat 12 (par p 10 2) } →
    (e.nextCfg = none → g.mode = e.cfg.mode → g.interp = e.cfg.interp →
      exec (.encConfig p) s = answered s p (s.dev.modEnc ch fun y => { y with cfg := g, nextCfg := none }) [])
    ∧ (e.nextCfg.isSome = true ∨ g.mode ≠ e.cfg.mode ∨ g.interp ≠ e.cfg.interp →
      exec (.encConfig p) s = .next { s with
        dev := (s.dev.modEnc ch fun y => { y with
          cfg := { g with mode := y.cfg.mode, interp := y.cfg.interp }, nextCfg := some g }).finish p (.park (.encMode ch)) }))
  ∧ (∀ (s : State) (ch : Fin 4) (g : EncCfg) (was : Vector EncCopy 8) (same : Bool) (d0 d1 d2 d3 : Dev),
    s.dev.pos.enc[ch].nextCfg = some g → s.dev.counting = true → d0 = s.dev.presetsEnd ch →
    was = d0.pos.enc[ch].copies → same = (g.mode == d0.pos.enc[ch].cfg.mode) →
    d1 = d0.modEnc ch (fun e => { e with
        cfg := { e.cfg with mode := g.mode, interp := g.interp }
        nextCfg := none
        copies := vallIdx (fun i c => c.zeroed d0.sys.now same (g.mode == 4) (g.mode != 0 && 1 ≤ i && d0.hasDie (i - 1)))
          e.copies }) →
    d2 = (if (d1.hub ch).dir = (was[(0 : Fin 8)]).dir then d1 else d1.posEvent ch 0) →
    d3 = (fins 8).foldl (fun d k => d.turned ch k (was[k]).dir)
      (((if same then d2 else d2.causeGone (idSincosAmp ch.val)).normal (idEncSeq ch.val)).outputs ch) →
    exec (.encModeChange ch) s = .next { s with
      dev := (d3.ses.work.filter fun w => w.park == some (.encMode ch)).foldl
        (fun d w => d.answer w.packet stOk noField []) d3 })
  ∧ (∀ (s : State) (p : Packet) (x : Session) (ch : Fin 4) (c : EncCopy), Ready specEncRead p x s →
    par p 0 1 = ch.val → c = s.dev.hub ch → replyFits p x.macRequired 24 = true →
    exec (.encRead p) s = answered s p s.dev (leBytes 4 c.count.toNat ++ leBytes 1 c.wrap.toNat
      ++ leBytes 1 (fld 0 1 (bit c.dir) + fld 1 1 (bit c.indexSeen) + fld 2 1 (bit c.unreferenced)
        + fld 3 1 (bit c.sincosAmp))
      ++ [0, 0] ++ leBytes 4 (satInt32 (roundAway c.v)).toNat ++ leBytes 4 (satInt32 (roundAway c.acc)).toNat
      ++ leBytes 8 c.ts.toNat))
  ∧ (∀ (s : State) (p : Packet) (x : Session) (o ch : Fin 4), Ready specEncoutConfig p x s →
    par p 0 1 = o.val → par p 1 1 = ch.val → within 1 256 (par p 2 2) → within 0 1 (par p 4 1) → reservedZero p 5 3 →
    exec (.encoutConfig p) s = answered s p ((s.dev.modPos fun y => { y with
      out := vmod y.out o fun _ => { s.dev.pos.out[o] with
        source := ch, enable := par p 4 1 == 1, divider := BitVec.ofNat 9 (par p 2 2)
        origin := s.dev.outCount ch } }).outputs ch) [])
  ∧ (∀ (s : State) (p : Packet) (x : Session) (ch : Fin 4) (e : Enc) (off : Nat) (d0 d : Dev) (dies : List (Fin 7)),
    Ready specEncPreset p x s → par p 0 1 = ch.val → reservedZero p 2 2 → e = s.dev.pos.enc[ch] →
    s.dev.encInUse ch = false →
    off = (extPos (BitVec.ofNat 8 (par p 1 1)) (BitVec.ofNat 32 (par p 4 4)) + 2 ^ 40 - (s.dev.hub ch).ext) % 2 ^ 40 →
    d0 = (s.dev.modCopy ch 0 fun c => c.preset (e.cfg.mode == 4) off).outputs ch →
    dies = (fins 7).filter (fun f => s.dev.hasDie f.val) →
    d = dies.foldl (fun d f => d.modDie f fun x => x.sendCtrl false (.preset ch)) (((fins 16).filter fun w =>
      d0.swaths[w].channel == ch).foldl (fun d w => d.modSwath w fun y => { y with
        gens := vmod y.gens 0 fun g => { g with pos := g.pos + toSigned 40 off } }) d0) →
    exec (.encPreset p) s =
      if dies = [] then answered s p d []
      else .next { s with
        dev := (d.modEnc ch fun y => { y with
          presets := y.presets ++ [{ offset := BitVec.ofNat 40 off, apply := dies }] }).finish p (.park (.preset ch)) })
  ∧ (∀ (s : State) (ch : Fin 4) (f : Fin 7) (e : Enc) (z : Preset) (zs : List Preset) (d : Dev),
    e = s.dev.pos.enc[ch] → e.presets.filter (fun y => y.apply.contains f) = z :: zs →
    (zs.length < s.dev.dies[f].ctrlWait.count (.preset ch) → exec (.presetOffset ch f) s = .next s)
    ∧ (s.dev.dies[f].ctrlWait.count (.preset ch) ≤ zs.length →
      d = (((s.dev.modCopy ch (copyOf f) fun c => c.preset (e.cfg.mode == 4) z.offset.toNat).modDie f fun y =>
        y.sendCtrl true (.presetAck ch)).modEnc ch fun y => { y with
          presets := modPreset (fun q => q.apply.contains f) (fun q => { q with
            apply := q.apply.filter (· != f)
            ack := if s.dev.dies[f].ctrlCreditsUp = 0 then q.ack ++ [f] else q.ack }) y.presets }) →
      exec (.presetOffset ch f) s = .next { s with dev := d.presetDone ch e.presets.length }))

/-- The encoder rows complete. A legal edge of a counting channel moves every die's copy by one count in the direction
the mode gives it; an illegal double change is ENC_SEQ and no count; an edge outside the specification is counted by
each die or not, and one whose direction signal is not stable in a direction of each die's own; an index edge copies the
count; a sin/cos quadrant steps; a sample inside the window sets the count, and the fine counts of a snapshot are recorded
and compared where a report waits for them; the observer's tick predicts and corrects, and stillness sets its speed to 0.
M saturating at 4,095 is the model's choice (log 71). -/
def Obligations.EncoderEdgesComplete : Prop :=
  (∀ (s : State) (ch : Fin 4) (a b close : Bool) (c : EncCopy) (step : Nat) (d : Dev), s.dev.counting = true →
    s.dev.encMode ch = 1 → c = s.dev.hub ch → step = (quadIndex a b + 4 - quadIndex c.a c.b) % 4 →
    d = s.dev.setLevels ch a b →
    (step = 1 ∨ step = 3 → exec (.quadratureEdge ch a b close) s = .next { s with
      dev := ((d.normal (idEncSeq ch.val)).edgeAll s.banks ch (step == 1) (!close)).outputs ch })
    ∧ (step = 2 → exec (.quadratureEdge ch a b close) s = .next { s with dev := (d.seqError ch).outputs ch })
    ∧ (step = 0 → exec (.quadratureEdge ch a b close) s = .next { s with dev := d }))
  ∧ (∀ (s : State) (ch : Fin 4) (a b close : Bool), s.dev.counting = true → s.dev.encMode ch ≠ 1 →
    exec (.quadratureEdge ch a b close) s = .next { s with dev := (s.dev.setLevels ch a b).outputs ch })
  ∧ (∀ (s : State) (ch : Fin 4) (a b : Bool) (d : Dev), s.dev.counting = true → s.dev.encMode ch = 2 →
    d = s.dev.setLevels ch a b →
    (a = false ∨ (s.dev.hub ch).a = true → ∀ unstable close,
      exec (.stepDirEdge ch ⟨a, b⟩ ⟨unstable, close⟩) s = .next { s with dev := d.outputs ch })
    ∧ (a = true → (s.dev.hub ch).a = false →
      exec (.stepDirEdge ch ⟨a, b⟩ ⟨false, false⟩) s =
          .next { s with dev := (d.copyDies.foldl (Dev.countEdge s.banks ch b) d).outputs ch }
      ∧ exec (.stepDirEdge ch ⟨a, b⟩ ⟨false, true⟩) s = .next { s with dev := (d.edgeAll s.banks ch b false).outputs ch }
      ∧ exec (.stepDirEdge ch ⟨a, b⟩ ⟨true, false⟩) s = .next { s with
          dev := ((d.copyDies.foldl
            (fun e k => Dev.countEdge s.banks ch (Config.freeBool (s.dev.sys.fresh + k.val)) e k) d).useFresh 16).outputs ch }
      ∧ exec (.stepDirEdge ch ⟨a, b⟩ ⟨true, true⟩) s = .next { s with
          dev := ((((d.copyDies.filter fun k => Config.freeBool (s.dev.sys.fresh + 8 + k.val)).foldl
            (fun e k => Dev.countEdge s.banks ch (Config.freeBool (s.dev.sys.fresh + k.val)) e k) d).useFresh 16).detect
              (idEncSeq ch.val + 3)).outputs ch }))
  ∧ (∀ (s : State) (ch : Fin 4) (a b close : Bool) (c : EncCopy) (d : Dev), s.dev.counting = true →
    s.dev.encMode ch = 3 → c = s.dev.hub ch → d = s.dev.setLevels ch a b →
    (a = true → c.a = false → b = false ∨ c.b = true →
      exec (.upDownEdge ch ⟨a, b⟩ close) s = .next { s with dev := (d.edgeAll s.banks ch true (!close)).outputs ch })
    ∧ (b = true → c.b = false → a = false ∨ c.a = true →
      exec (.upDownEdge ch ⟨a, b⟩ close) s = .next { s with dev := (d.edgeAll s.banks ch false (!close)).outputs ch })
    ∧ (a = true → c.a = false → b = true → c.b = false →
      exec (.upDownEdge ch ⟨a, b⟩ close) s = .next { s with
        dev := ((d.edgeAll s.banks ch true (!close)).edgeAll s.banks ch false (!close)).outputs ch })
    ∧ (a = false ∨ c.a = true → b = false ∨ c.b = true →
      exec (.upDownEdge ch ⟨a, b⟩ close) s = .next { s with dev := d.outputs ch }))
  ∧ (∀ (s : State) (ch : Fin 4) (z : Bool) (d : Dev), s.dev.counting = true →
    d = (s.dev.allCopies ch fun c => { c with z := z }).outputs ch →
    (z = true → (s.dev.hub ch).z = false → s.dev.encMode ch ≠ 0 →
      exec (.indexEdge ⟨ch, z⟩) s = .next { s with
        dev := (((d.allCopies ch fun c => { c with index := c.count, indexSeen := true }).posEvent ch 2).toggle 0 (0x205 + 8 * ch.val)).indexHoming ch })
    ∧ (z = false ∨ (s.dev.hub ch).z = true ∨ s.dev.encMode ch = 0 →
      exec (.indexEdge ⟨ch, z⟩) s = .next { s with dev := d }))
  ∧ (∀ (s : State) (ch : Fin 4) (cosHigh sinHigh : Bool) (q step : Nat) (d : Dev), s.dev.counting = true →
    s.dev.encMode ch = 4 → q = quadrantOf cosHigh sinHigh → step = (q + 4 - (s.dev.hub ch).quadrant.toNat) % 4 →
    d = s.dev.allCopies ch (fun c => { c with cosHigh := cosHigh, sinHigh := sinHigh }) →
    (step = 1 ∨ step = 3 → exec (.sincosQuadrantChange ch cosHigh sinHigh) s = .next { s with
      dev := (d.copyDies.foldl (Dev.quadrantStep s.banks ch q (step == 1)) (d.normal (idEncSeq ch.val))).outputs ch })
    ∧ (step = 2 → exec (.sincosQuadrantChange ch cosHigh sinHigh) s = .next { s with
      dev := ((d.modEnc ch fun e => { e with
        copies := vall (fun (c : EncCopy) => { c with quadrant := BitVec.ofNat 2 q }) e.copies }).seqError ch).outputs ch })
    ∧ (step = 0 → exec (.sincosQuadrantChange ch cosHigh sinHigh) s = .next { s with dev := d }))
  ∧ (∀ (s : State) (ch : Fin 4) (sin cos : BitVec 14) (g : EncCfg) (sq : Nat) (out : Bool) (d d2 d3 : Dev),
    s.dev.counting = true → s.dev.encMode ch = 4 → g = s.dev.pos.enc[ch].cfg →
    sq = sin.toInt.natAbs ^ 2 + cos.toInt.natAbs ^ 2 →
    out = decide (sq < g.winLo.toNat * 16384 ∨ g.winHi.toNat * 16384 < sq) →
    d = s.dev.modEnc ch (fun e => { e with
      copies := vall (fun (x : EncCopy) => { x with
        m := ampOf sq
        outside := if out then min 256 (x.outside + 1) else 0
        inside := if out then 0 else min 256 (x.inside + 1) }) e.copies }) →
    d2 = (if out then d
      else d.copyDies.foldl (Dev.useSample s.banks ch (turnsOf sin.toInt cos.toInt)) d) →
    d3 = d2.modEnc ch (fun e => { e with
      copies := vall (fun (x : EncCopy) => if x.fineDue then
        { x with fineDue := false, fine := some (d2.pos.snapNumber, x.gen, x.count) } else x) e.copies }) →
    exec (.sincosSample ch sin cos) s = .next { s with
      dev := (((fins 7).filter fun f => (d3.pos.enc[ch].copies[copyOf f]).fineOwed).foldl (fun d f =>
        (d.modCopy ch (copyOf f) fun c => { c with fineOwed := false }).compareFine f ch) d3).amplitude ch out })
  ∧ (∀ (s : State) (die : Fin 8) (ch : Fin 4) (d : Dev), s.dev.counting = true → die ∈ s.dev.copyDies →
    within 1 3 (s.dev.encMode ch) →
    (die = 0 → d = s.dev) → (∀ f : Fin 7, die = copyOf f → d = s.dev.latchTimebase f) →
    exec (.observerUpdate die ch) s = .next { s with
      dev := (d.modCopy ch die fun c => c.observe d.pos.enc[ch].cfg.omega d.sys.now c.tickErr).observerRan s.banks ch die }
    ∧ exec (.observerStill die ch) s = .next { s with
      dev := (s.dev.modCopy ch die fun c =>
        { c with
          x := max (c.pos : Rat) (min (c.pos + 1 : Rat) c.x), v := 0, acc := 0, t := s.dev.sys.now
          still := true }).observerRan s.banks ch die })

/-- The rows by which the dies agree complete. A strobe latches every enabled channel on every die under the next
number; a report that has left its die and whose counts agree within the guard has its fine counts compared, at once or
once they are recorded, and one that does not agree is POS_DIVERGE; a late one is POS_DIVERGE of kind 1; a copy being
brought into agreement takes the hub's count; the record of a plain switch that has left its die is compared with the
hub's of the same switch. -/
def Obligations.AgreementRowsComplete : Prop :=
  (∀ (s : State) (guards : List (Fin 8 × Fin 4)) (n : Word), s.dev.counting = true → n = s.dev.pos.snapNext →
    ∃ t, exec (.snapshotStrobe guards) s = .next t ∧ t.dev.pos.snapNumber = n ∧ t.dev.pos.snapNext = n + 1
      ∧ (∀ (ch : Fin 4) (k : Fin 8), s.dev.encMode ch ≠ 0 → k ∈ s.dev.copyDies →
          (t.dev.pos.enc[ch].copies[k]).latch = some (n, (s.dev.pos.enc[ch].copies[k]).gen,
            if s.dev.encMode ch = 4 then (s.dev.pos.enc[ch].copies[k]).quadCount
              else (s.dev.pos.enc[ch].copies[k]).count,
            guards.contains (k, ch)))
      ∧ (∀ (ch : Fin 4) (k : Fin 8), (t.dev.pos.enc[ch].copies[k]).count = (s.dev.pos.enc[ch].copies[k]).count)
      ∧ t.mem = s.mem ∧ t.rows = s.rows)
  ∧ (∀ (s : State) (f : Fin 7) (ch : Fin 4) (e : Enc) (n g u v : Word) (ga gb : Bool) (d : Dev), e = s.dev.pos.enc[ch] →
    s.dev.counting = true → s.dev.hasDie f.val = true → CtrlMsg.snapshot ch ∉ s.dev.dies[f].ctrlWaitUp →
    (e.copies[copyOf f]).syncing = false →
    (e.copies[copyOf f]).latch = some (n, (e.copies[0]).gen, u, ga) →
    (e.copies[0]).latch = some (n, (e.copies[0]).gen, v, gb) →
    d = s.dev.modCopy ch (copyOf f) (fun c => { c with latch := none }) →
    (agree (if ga || gb then 1 else 0) u v = true → (e.copies[copyOf f]).fineDue = false →
      exec (.snapshotReport f ch) s = .next { s with dev := (d.compareFine f ch).dieReady f })
    ∧ (agree (if ga || gb then 1 else 0) u v = true → (e.copies[copyOf f]).fineDue = true →
      exec (.snapshotReport f ch) s = .next { s with
        dev := (d.modCopy ch (copyOf f) fun c => { c with fineOwed := true }).dieReady f })
    ∧ (agree (if ga || gb then 1 else 0) u v = false →
      exec (.snapshotReport f ch) s = .next { s with dev := (d.diverge ch f 0 n v u).dieReady f }))
  ∧ (∀ (s : State) (f : Fin 7), s.dev.counting = true → s.dev.hasDie f.val = true →
    ((∀ ch : Fin 4, (s.dev.pos.enc[ch].copies[copyOf f]).latch = none) → exec (.snapshotLate f) s = .next s)
    ∧ (∀ (ch : Fin 4) (n v : Word) (g : BitVec 8) (x : Word × Bool),
      (s.dev.pos.enc[ch].copies[copyOf f]).latch = some (n, g, x) →
      (∀ k : Fin 4, k ≠ ch → (s.dev.pos.enc[k].copies[copyOf f]).latch = none) →
      (∀ y, (s.dev.hub ch).latch = some y → v = y.2.2.1) → ((s.dev.hub ch).latch = none → v = (s.dev.hub ch).count) →
      exec (.snapshotLate f) s = .next { s with
        dev := (s.dev.modCopy ch (copyOf f) fun c => { c with latch := none }).diverge ch f 1 n v 0 }))
  ∧ (∀ (s : State) (f : Fin 7), s.dev.hasDie f.val = true → s.dev.dieSyncing f = true →
    exec (.frwResyncTimeout f) s = .next { s with dev := (s.dev.dieDone f).detect (idDie f.val oResync) })
  ∧ (∀ (s : State) (f : Fin 7) (ch : Fin 4), s.dev.hasDie f.val = true →
    (s.dev.pos.enc[ch].copies[copyOf f]).syncing = true →
    exec (.resyncNoEdge f ch) s = .next { s with
      dev := ((s.dev.modCopy ch (copyOf f) fun c =>
        { c.sync (s.dev.hub ch) 0 with latch := none, fineOwed := false }).turned ch (copyOf f)
          (s.dev.pos.enc[ch].copies[copyOf f]).dir).dieReady f })
  ∧ (∀ (s : State) (f : Fin 7) (w : Fin 16) (y : Swath) (c : EncCfg) (k : Nat) (u n v snap : Word)
      (rest : List (Nat × Word × Word)) (d : Dev), s.dev.hasDie f.val = true →
    y = s.dev.swaths[w] → (y.gens[copyOf f]).records = (k, u, n) :: rest →
    (y.gens[0]).records.find? (fun z => z.1 == k) = some (k, v, snap) →
    s.dev.dies[f].ctrlWaitUp.count (.switchRecord w) ≤ rest.length → c = s.dev.pos.enc[y.channel].cfg →
    d = s.dev.modSwath w (fun q => { q with gens := vmod q.gens (copyOf f) fun g => { g with records := rest } }) →
    exec (.switchRecordReport f w) s =
      if agree (if c.mode = 4 then c.fineTol else 0) u v then .next { s with dev := d }
      else .next { s with dev := d.diverge y.channel f 2 snap v u })

/-- The transport commands complete on a variant with transport axes: TAX_CONFIG and TAX_ADVANCE store their fields on a
disabled axis; TAX_ENABLE starts a ready axis or disables one; TAX_SPEED queues a set-point, or waits while the queue of
an enabled axis is full; TAX_MASTER and BUS_CONFIG store theirs, BUS_CONFIG leaving LIMITED; TAX_STATUS answers
Table 6.23. -/
def Obligations.TransportCommandsComplete : Prop :=
  (∀ (s : State) (p : Packet) (x : Session) (n : Fin 4), Ready specTaxConfig p x s → s.dev.hasTax = true →
    par p 0 1 = n.val → within 1 32 (par p 1 1) → within 0 4 (par p 2 1) → within 0 1 (par p 3 1) →
    within 8000 40000 (par p 4 2) → within 5 500 (par p 6 2) → 2 * par p 6 2 * par p 4 2 < 100000000 →
    within 200 5000 (par p 8 2) → 2 * par p 8 2 * par p 4 2 < 1000000000 → within 1 30000 (par p 10 2) →
    within 0 0x7FFFFFFF (par p 12 4) → within 0 0x7FFFFFFF (par p 16 4) → within 1 1000000 (par p 20 4) →
    s.dev.mot.tax[n].on = false →
    exec (.taxConfig p) s = answered s p (s.dev.modTax n fun t => { t with
      configured := true, polePairs := par p 1 1, angleSrc := par p 2 1, coast := par p 3 1 == 1, pwmHz := par p 4 2
      deadTime := par p 6 2, tMinNs := par p 8 2, ratedRpm := par p 10 2, kp := par p 12 4, ki := par p 16 4
      accelMax := par p 20 4 }) [])
  ∧ (∀ (s : State) (p : Packet) (x : Session) (n : Fin 4), Ready specTaxAdvance p x s → s.dev.hasTax = true →
    par p 0 1 = n.val → reservedZero p 1 1 → s.dev.mot.tax[n].on = false →
    exec (.taxAdvance p) s = answered s p (s.dev.modTax n fun t => { t with
      advance := vallIdx (fun i _ => BitVec.ofNat 16 (par p (2 + 2 * i) 2)) t.advance }) [])
  ∧ (∀ (s : State) (p : Packet) (x : Session) (n : Fin 4), Ready specTaxEnable p x s → s.dev.hasTax = true →
    par p 0 1 = n.val →
    (par p 1 1 = 0 → exec (.taxEnable p) s = answered s p (s.dev.taxDisable n) [])
    ∧ (par p 1 1 = 1 → s.dev.taxReady n = true → s.dev.mot.bus.configured = true →
      s.dev.mot.tax[n].on = false ∨ s.dev.mot.tax[n].state = 0 →
      exec (.taxEnable p) s = answered s p (s.dev.taxStart n) [])
    ∧ (par p 1 1 = 1 → s.dev.taxReady n = true → s.dev.mot.bus.configured = true → s.dev.mot.tax[n].on = true →
      s.dev.mot.tax[n].state ≠ 0 → exec (.taxEnable p) s = answered s p s.dev []))
  ∧ (∀ (s : State) (p : Packet) (x : Session) (n : Fin 4) (t : Tax), Ready specTaxSpeed p x s → s.dev.hasTax = true →
    par p 0 1 = n.val → t = s.dev.mot.tax[n] → reservedZero p 1 3 →
    -(100 * t.ratedRpm : Nat) ≤ parI p 4 4 ∧ parI p 4 4 ≤ (100 * t.ratedRpm : Nat) → within 0 1000000 (par p 8 4) →
    exec (.taxSpeed p) s =
      if t.on && 16 ≤ t.queue.length then .next { s with dev := s.dev.finish p (.park .axisQueue) }
      else answered s p (s.dev.modTax n fun y => y.push (speedCmd (pktParams p))) [])
  ∧ (∀ (s : State) (p : Packet) (x : Session) (n : Fin 4), Ready specTaxMaster p x s → s.dev.hasTax = true →
    par p 0 1 = n.val → reservedZero p 1 1 → within 1 0xFFFFFFFF (par p 4 4) →
    (∀ k : Fin 4, k ≠ n → s.dev.mot.tax[k].masterOf &&& BitVec.ofNat 16 (par p 2 2) = 0) →
    s.dev.mot.tax[n].on = false → (∀ w : Fin 16, (par p 2 2).testBit w.val = true → s.dev.swathInUse w = false) →
    exec (.taxMaster p) s = answered s p (s.dev.modTax n fun t =>
      { t with masterOf := BitVec.ofNat 16 (par p 2 2), countsPerRev := par p 4 4 }) [])
  ∧ (∀ (s : State) (p : Packet) (x : Session) (d : Dev), Ready specBusConfig p x s →
    within 0 4095 (par p 6 2) → par p 0 2 < par p 2 2 → par p 2 2 < par p 4 2 → par p 4 2 < par p 6 2 →
    (∀ n : Fin 4, s.dev.mot.tax[n].on = false) →
    d = s.dev.modBus (fun b => { b with
      configured := true, brkOff := BitVec.ofNat 12 (par p 0 2), brkOn := BitVec.ofNat 12 (par p 2 2)
      ovWarn := BitVec.ofNat 12 (par p 4 2), ovTrip := BitVec.ofNat 12 (par p 6 2)
      state := if b.state = 2 then 0 else b.state
      regenLimit := b.regenLimit && b.state != 2
      runOn := 0, runOff := 0, runWarn := 0, runTrip := 0 }) →
    exec (.busConfig p) s = answered s p (if s.dev.mot.bus.state = 2 then d.causeGone 0x00B else d) [])
  ∧ (∀ (s : State) (p : Packet) (x : Session) (n : Fin 4) (t : Tax) (b : Bus), Ready specTaxStatus p x s →
    s.dev.hasTax = true → par p 0 1 = n.val → t = s.dev.mot.tax[n] → b = s.dev.mot.bus →
    replyFits p x.macRequired 20 = true →
    exec (.taxStatus p) s = answered s p s.dev (leBytes 1 t.state.toNat
      ++ leBytes 1 (fld 0 1 (bit t.capActive) + fld 1 1 (bit t.dutyClamp) + fld 2 1 (bit b.gate)) ++ [0, 0]
      ++ leBytes 4 (rpmWord t.speed).toNat ++ leBytes 4 (rpmWord t.capped).toNat ++ leBytes 2 (mA16 t.iq)
      ++ leBytes 2 (mA16 t.id) ++ leBytes 2 b.code.toNat ++ [0, 0]))

/-- The rows of a transport axis and of its bus complete. A control period takes a set-point, applies the cap and, with
its gates on, samples and runs the loops, a late one leaving the duties in force and counted; a lost rotor, by either
condition of R345, is TRANSPORT kind 1 and a recatch or a coast; the recatch that fails, the hold of the I/f start that
lasts too long, the alignment that ends, the target that is reached and the short circuit that ends have the effects the
rules give; a bus sample steps the chopper and the overvoltage sources, and axes that ramp down under the regeneration
limit turn their gates off. That an enabled axis in TEST still takes a set-point, that a disabled one only follows its cap,
and that no threshold acts on a bus sample before BUS_CONFIG, is the model's choice (DEDUCED, log 20). -/
def Obligations.TransportRowsComplete : Prop :=
  (∀ (s : State) (n : Fin 4) (iu iv iw vu vv vw : BitVec 12) (late : Bool) (d0 d d2 d3 d4 : Dev) (xs : List Rat),
    s.dev.hasTax = true → s.dev.sys.held = false → s.dev.mode ≠ mFallow → s.dev.mot.tax[n].on = true →
    s.dev.mot.tax[n].configured = true →
    d0 = (if late then (s.dev.modTax n fun t => { t with late := satInc t.late }).detect (idTaxLate n.val)
      else s.dev.normal (idTaxLate n.val)) →
    d = (d0.takeSetpoint n).applyCap n → xs = [iu, iv, iw].map s.dev.mot.tax[n].amps →
    d2 = d.taxSample n (xs.getD 0 0) (xs.getD 1 0) (xs.getD 2 0) →
    d3 = (if late then (d2.taxLoops n xs vu vv vw).modTax n fun t => { t with duty := d2.mot.tax[n].duty }
      else d2.taxLoops n xs vu vv vw) →
    (s.dev.mot.tax[n].state = 0 ∨ d.mode = mTest →
      exec (.taxControlPeriod n iu iv iw vu vv vw late) s = .next { s with dev := d })
    ∧ (s.dev.mot.tax[n].state ≠ 0 → d.mode ≠ mTest → d2.mot.tax[n].state = 0 →
      exec (.taxControlPeriod n iu iv iw vu vv vw late) s = .next { s with dev := d2 })
    ∧ (s.dev.mot.tax[n].state ≠ 0 → d.mode ≠ mTest → d2.mot.tax[n].state ≠ 0 →
      d4 = d3.emit (.gates n.val d3.mot.tax[n].gateNs) →
      exec (.taxControlPeriod n iu iv iw vu vv vw late) s = .next { s with
        dev := if d3.mot.tax[n].stopping && (d3.mot.bus.regenLimit || (d3.mot.tax[n].low3 d3.mot.tax[n].speed
          && (d3.mot.tax[n].state = 1 || d3.mot.tax[n].state = 2))) then d4.taxDisable n else d4 }))
  ∧ (∀ (s : State) (n : Fin 4) (iu iv iw vu vv vw : BitVec 12) (late : Bool), s.dev.hasTax = true →
    s.dev.sys.held = false → s.dev.mode ≠ mFallow → s.dev.mot.tax[n].on = false → s.dev.mot.tax[n].configured = true →
    exec (.taxControlPeriod n iu iv iw vu vv vw late) s = .next { s with dev := s.dev.applyCap n })
  ∧ (∀ (s : State) (n : Fin 4), s.dev.mot.tax[n].state = 2 → s.dev.mot.tax[n].angleSrc = 0 →
    s.dev.mot.tax[n].residHigh = true
      ∨ s.dev.mot.tax[n].emf < twoPi * |s.dev.mot.tax[n].w| * s.dev.mot.tax[n].psiWb / 2 →
    exec (.rotorLoss n) s = .next { s with
      dev := if s.dev.mot.tax[n].coast then (s.dev.taxEvent n 1).modTax n fun t => { t.gatesOff with state := 4 }
        else (s.dev.taxEvent n 1).modTax n fun t =>
          t.recatchFrom (s.dev.taxEvent n 1).sys.now (s.dev.taxEvent n 1).sys.now false })
  ∧ (∀ (s : State) (n : Fin 4), s.dev.mot.tax[n].state = 3 →
    exec (.taxLost n) s = .next { s with dev := (s.dev.modTax n Tax.gatesOff).detect (idTaxLost n.val) })
  ∧ (∀ (s : State) (n : Fin 4), s.dev.mot.tax[n].state = 1 → s.dev.mot.tax[n].aligning = false →
    s.dev.mot.tax[n].angleSrc = 0 → |s.dev.mot.tax[n].olFreq| = (4 * s.dev.mot.tax[n].ratedRpm : Nat) / (100 : Rat) →
    exec (.taxLost n) s = .next { s with dev := s.dev.detect (idTaxLost n.val) })
  ∧ (∀ (s : State) (n : Fin 4) (c : EncCopy) (h : 1 ≤ s.dev.mot.tax[n].angleSrc ∧ s.dev.mot.tax[n].angleSrc ≤ 4),
    s.dev.mot.tax[n].aligning = true → c = s.dev.pos.enc[s.dev.mot.tax[n].angleSrc - 1].copies[0] →
    exec (.encoderAlignDone n) s = .next { s with
      dev := s.dev.modTax n fun t =>
        { t with
          aligning := false, zero := c.count, state := 2, integ := 0, speed := t.encRpm c, ref := t.encRpm c } })
  ∧ (∀ (s : State) (n : Fin 4) (t : Tax), t = s.dev.mot.tax[n] →
    t.state = 2 ∨ (t.state = 1 ∧ t.aligning = false) → t.ref = t.capped →
    |t.speed - t.ref| ≤ (t.ratedRpm : Rat) / 100 →
    exec (.targetSpeedReached n) s = .next { s with dev := s.dev.taxEvent n 0 })
  ∧ (∀ (s : State) (n : Fin 4), s.dev.mot.tax[n].state = 5 →
    exec (.activeShortCircuitEnd n) s = .next { s with dev := s.dev.taxDisable n })
  ∧ (∀ (s : State) (code brake : BitVec 12) (d : Dev), s.dev.hasTax = true → s.dev.sys.held = false → s.dev.mode ≠ mFallow →
    d = ((s.dev.modBus fun b => b.sample code brake).chopper).overvoltage →
    exec (.busSample code brake) s = .next { s with
      dev := if s.dev.mot.bus.configured then
          if d.mot.bus.regenLimit then (fins 4).foldl (fun d n => if d.mot.tax[n].stopping then d.taxDisable n else d) d
          else d
        else s.dev.modBus fun b => { b with code := code } })

/-- The auxiliary commands complete on a variant with auxiliary axes. AUX_CONFIG stores its fields on a disabled axis;
AUX_ENABLE energises a ready axis or disables one; moves, stops and profiles join the queue of an energised axis, or
wait while it is full; a follow-on move waits behind the motion under way; AUX_HOME begins a homing, which an active limit ends at once;
AUX_GEAR engages, waits
for its count, stops or disarms, an engagement being refused while the axis is stalled (the model's choice, log 21);
AUX_STATUS answers Table 6.26. -/
def Obligations.AuxiliaryCommandsComplete : Prop :=
  (∀ (s : State) (p : Packet) (x : Session) (n : Fin 8), Ready specAuxConfig p x s → s.dev.hasAux = true →
    par p 0 1 = n.val → within 0 100 (par p 1 1) → within 20 64 (par p 2 1) → within 10 170 (par p 3 1) →
    within 1 65535 (par p 4 2) → within 1 65535 (par p 6 2) → within 1 10000 (par p 8 2) → within 0 4095 (par p 10 2) →
    within 4 1000 (par p 12 2) → reservedZero p 14 2 → s.dev.mot.aux[n].on = false →
    exec (.auxConfig p) s = answered s p (s.dev.modAux n fun a => { a with
      configured := true, idlePct := BitVec.ofNat 8 (par p 1 1), pwmKhz := BitVec.ofNat 8 (par p 2 1)
      stallDeg := BitVec.ofNat 8 (par p 3 1), rmOhm := BitVec.ofNat 16 (par p 4 2), ke := BitVec.ofNat 16 (par p 6 2)
      irunMa := BitVec.ofNat 16 (par p 8 2), idleDelay := BitVec.ofNat 12 (par p 10 2)
      stepsPerRev := BitVec.ofNat 10 (par p 12 2) }) [])
  ∧ (∀ (s : State) (p : Packet) (x : Session) (n : Fin 8), Ready specAuxEnable p x s → s.dev.hasAux = true →
    par p 0 1 = n.val →
    (par p 1 1 = 0 → exec (.auxEnable p) s = answered s p ((s.dev.auxOff n).dropAux n) [])
    ∧ (par p 1 1 = 1 → s.dev.auxReady n = true →
      exec (.auxEnable p) s = answered s p (s.dev.modAux n fun a => { a with
        enable := Tv.mk3 1
        state := if a.state = 0 && !(s.dev.contained (.aux n) || s.dev.mode = mTest) then 1 else a.state
        stepStart := a.pos }) []))
  ∧ (∀ (s : State) (p : Packet) (x : Session) (n : Fin 8) (a : Aux) (r : Dev × Finish), s.dev.hasAux = true →
    par p 0 1 = n.val → a = s.dev.mot.aux[n] → a.live = true → reservedZero p 1 3 → within 1 16777215 (par p 8 4) →
    within 1 16777215 (par p 12 4) → within 1 16777215 (par p 16 4) → a.moving = false → a.state ≠ 4 →
    (Ready (specAuxMove 0) p x s → (parI p 4 4 - a.pos.toInt).natAbs ≤ 0x7FFFFFFF → a.posValid = true →
      r = s.dev.queueAux n (auxCmdOf 0x92 0 (pktParams p)) →
      exec (.auxMoveAbsolute p) s = .next { s with dev := r.1.finish p r.2 })
    ∧ (Ready (specAuxMove 1) p x s → (parI p 4 4 - a.pos.toInt).natAbs ≤ 0x7FFFFFFF → a.posValid = true →
      r = s.dev.queueAux n (auxCmdOf 0x92 0 (pktParams p)) →
      exec (.auxMoveFollowOn p) s = .next { s with dev := r.1.finish p r.2 })
    ∧ (Ready (specAuxMove 2) p x s → (parI p 4 4).natAbs ≤ 0x7FFFFFFF →
      r = (s.dev.leaveStall n).queueAux n (auxCmdOf 0x92 2 (pktParams p)) →
      exec (.auxMoveRelative p) s = .next { s with dev := r.1.finish p r.2 }))
  ∧ (∀ (s : State) (p : Packet) (x : Session) (n : Fin 8) (a : Aux) (start : Word), Ready (specAuxMove 1) p x s →
    s.dev.hasAux = true → par p 0 1 = n.val → a = s.dev.mot.aux[n] → a.live = true → reservedZero p 1 3 →
    within 1 16777215 (par p 8 4) → within 1 16777215 (par p 12 4) → within 1 16777215 (par p 16 4) →
    a.moving = true → (a.presentMove = none → start = a.pos) →
    (∀ rel m, a.presentMove = some (rel, m) → start = if rel then a.pos + m.target else m.target) →
    (parI p 4 4 - start.toInt).natAbs ≤ 0x7FFFFFFF → a.followOn = none → a.state ≠ 4 →
    exec (.auxMoveFollowOn p) s = answered s p (s.dev.modAux n fun b => { b with
      followOn := some {
        target := BitVec.ofNat 32 (par p 4 4), vmax := par p 8 4, accel := par p 12 4, decel := par p 16 4 } }) [])
  ∧ (∀ (s : State) (p : Packet) (x : Session) (n : Fin 8), Ready specAuxProfile p x s → s.dev.hasAux = true →
    par p 0 1 = n.val → s.dev.mot.aux[n].live = true → reservedZero p 1 3 → within 1 16777215 (par p 4 4) →
    within 1 16777215 (par p 8 4) → within 1 16777215 (par p 12 4) → replyFits p x.macRequired 8 = true →
    exec (.auxProfile p) s = .next { s with
      dev := if 16 ≤ s.dev.mot.aux[n].queue.length then s.dev.finish p (.park .axisQueue)
        else (s.dev.modAux n fun a => a.push (auxCmdOf 0x93 0 (pktParams p))).finish p (.park .profile) })
  ∧ (∀ (s : State) (p : Packet) (x : Session) (n : Fin 8) (now : Bool) (r : Dev × Finish),
    Ready (specAuxStop (if now then 1 else 0)) p x s → s.dev.hasAux = true → par p 0 1 = n.val →
    s.dev.mot.aux[n].live = true → r = s.dev.queueAux n (auxCmdOf 0x94 (if now then 1 else 0) (pktParams p)) →
    exec (if now then .stopNow p else .stopRamp p) s = .next { s with dev := r.1.finish p r.2 })
  ∧ (∀ (s : State) (p : Packet) (x : Session) (n : Fin 8) (a : Aux) (d d2 : Dev) (h : Homing), Ready specAuxHome p x s →
    s.dev.hasAux = true → par p 0 1 = n.val → a = s.dev.mot.aux[n] → a.live = true →
    (Ctx.mk s p x).needMethod n = .ok () → a.moving = false → a.state ≠ 4 →
    d = (s.dev.leaveStall n).modMot (fun m =>
      m.setDebounce (par p 3 1 :: (if par p 1 1 = 0 then [par p 2 1] else [])) (par p 5 1)) →
    h = {
      method := par p 1 1, switch := par p 2 1, limit := par p 3 1, negative := par p 4 1 == 1
      debounceMs := par p 5 1, chatterN := par p 6 1, chatterWinMs := par p 7 1, fastV := par p 8 4
      slowV := par p 12 4, backoff := par p 16 4, accel := par p 20 4
      step := if par p 1 1 ≠ 0 then 5 else if d.mot.switchOn (par p 2 1) then 4 else 2 } →
    d2 = d.modAux n (fun b => { b with
      posValid := false, followOn := none, gearNext := none, state := 3, homing := some h, stallRun := 0, loadSum := 0
      loadN := 0, loadLow := false, stepStart := b.pos }) →
    ((par p 3 1 ≤ 15 → d.mot.switchOn (par p 3 1) = false) → exec (.auxHome p) s = answered s p d2 [])
    ∧ (par p 3 1 ≤ 15 → d.mot.switchOn (par p 3 1) = true →
      exec (.auxHome p) s = .next { s with dev := (d2.answer p stOk noField []).homeFail n }))
  ∧ (∀ (s : State) (p : Packet) (x : Session) (n : Fin 8) (ch : Fin 4) (a : Aux) (g : Gear), Ready specAuxGear p x s →
    s.dev.hasAux = true → par p 0 1 = n.val → a = s.dev.mot.aux[n] → a.live = true → par p 1 1 = ch.val →
    s.dev.pos.enc[ch].cfg.mode ≠ 0 → within 0 3 (par p 2 1) → reservedZero p 3 1 → par p 4 4 ≠ 0 →
    within 1 0xFFFFFFFF (par p 8 4) →
    g = { channel := ch, num := parI p 4 4, den := par p 8 4, c0 := BitVec.ofNat 32 (par p 12 4) } →
    (getB 0 (par p 2 1) = true → getB 1 (par p 2 1) = true → a.state = 4 ∨ (a.moving = false ∧ a.state ≠ 5) →
      exec (.auxGear p) s = answered s p (s.dev.modAux n fun b => { b with gearNext := some g }) [])
    ∧ (getB 0 (par p 2 1) = true → getB 1 (par p 2 1) = false → a.state = 4 ∨ (a.moving = false ∧ a.state ≠ 5) →
      exec (.auxGear p) s = answered s p (s.dev.modAux n fun b =>
        b.engage (fun k => s.dev.pos.enc[k].copies[0].count) g s.dev.pos.enc[ch].copies[0].count) [])
    ∧ (getB 0 (par p 2 1) = false → a.gear.isSome = true →
      exec (.auxGear p) s = answered s p (s.dev.modAux n fun b => b.beginStop none) [])
    ∧ (getB 0 (par p 2 1) = false → a.gear = none →
      exec (.auxGear p) s = answered s p (s.dev.modAux n fun b => { b with gearNext := none }) []))
  ∧ (∀ (s : State) (p : Packet) (x : Session) (n : Fin 8) (a : Aux), Ready specAuxStatus p x s → s.dev.hasAux = true →
    par p 0 1 = n.val → a = s.dev.mot.aux[n] → replyFits p x.macRequired 16 = true →
    exec (.auxStatus p) s = answered s p s.dev (leBytes 1 a.state.toNat
      ++ leBytes 1 (fld 0 1 (bit a.posValid) + fld 1 1 (bit a.accelOverridden) + fld 2 1 (bit a.followOn.isSome)
        + fld 3 1 (bit a.idle))
      ++ leBytes 2 a.load ++ leBytes 4 a.pos.toNat ++ leBytes 4 a.speedWord.toNat ++ [0, 0, 0, 0]))

/-- The rows of an auxiliary axis complete: a control period of an energised axis whose currents lie within 1.25 times
IrunMa takes one set-point, advances the motion and drives the windings; one of an axis without current answers the
commands that wait on it (the model's choice, DEDUCED, log 21); the current falls at standstill; a read of the switches, which every variant has, debounces
each and reaches every axis that homes. -/
def Obligations.AuxiliaryRowsComplete : Prop :=
  (∀ (s : State) (n : Fin 8) (ia ib : BitVec 12) (a : Aux) (d d2 : Dev), s.dev.hasAux = true → s.dev.sys.held = false →
    s.dev.mode ≠ mFallow → a = s.dev.mot.aux[n] → a.live = true → |a.amps ia| ≤ a.irunMa.toNat * 125 / 100000 →
    |a.amps ib| ≤ a.irunMa.toNat * 125 / 100000 → d = (s.dev.auxTake n).auxAdvance n → d.mot.aux[n].live = true →
    d2 = d.fullStep n a.pos → d2.mot.aux[n].live = true →
    exec (.auxControlPeriod n ia ib) s = .next { s with
      dev := d2.modAux n fun b => b.wind d2.mot.vAux (a.amps ia) (a.amps ib) })
  ∧ (∀ (s : State) (n : Fin 8), s.dev.mot.aux[n].live = true → s.dev.mot.aux[n].speed = 0 →
    s.dev.mot.aux[n].moving = false →
    exec (.idleCurrent n) s = .next { s with dev := s.dev.modAux n fun a => { a with idle := true } })
  ∧ (∀ (s : State) (n : Fin 8) (ia ib : BitVec 12), s.dev.hasAux = true → s.dev.sys.held = false →
    s.dev.mode ≠ mFallow → s.dev.mot.aux[n].live = false →
    exec (.auxControlPeriod n ia ib) s = .next { s with dev := s.dev.dropAux n })
  ∧ (∀ (s : State) (levels : BitVec 16) (toggled : List Nat) (d : Dev), s.dev.sys.held = false →
    s.dev.mode ≠ mFallow →
    toggled = (List.range 16).filter (fun i =>
      s.dev.mot.switches.toList[i]?.any fun (w : Switch) => w.raw != levels.getLsbD i) →
    d = s.dev.modMot (fun m => { m with
      switches := vallIdx (fun i w => w.read (levels.getLsbD i) (s.dev.mot.swPol.getLsbD i)) m.switches
      switchEdge := vallIdx (fun i x => if toggled.contains i
        then s.dev.mot.aux.toList.map (fun (a : Aux) => a.pos) else x) m.switchEdge }) →
    exec (.switchRead levels) s = .next { s with dev := (fins 8).foldl (fun d n => d.homeSwitches n toggled) d })
end

