-- ==== Sys2Proof/Laws/State.lean ====
section
/-! SUPPORT. What each update of the device changes and what it leaves, field by field; what an element of an updated
vector is. -/

namespace Sys2Proof.Machine

@[simp] theorem vmod_same {α : Type} {n : Nat} (v : Vector α n) (i : Fin n) (f : α → α) :
    (vmod v i f)[i.val] = f v[i.val] := by
  simp [vmod]

theorem vmod_other {α : Type} {n : Nat} (v : Vector α n) (i j : Fin n) (f : α → α) (h : i ≠ j) :
    (vmod v i f)[j] = v[j] := by
  have h' : i.val ≠ j.val := fun e => h (Fin.ext e)
  simp [vmod, h']

/-- An element of a vector of which one was changed. -/
theorem vmod_get {α : Type} {n : Nat} (v : Vector α n) (i j : Fin n) (f : α → α) :
    (vmod v i f)[j] = if i = j then f v[j] else v[j] := by
  split
  · next h => subst h; exact vmod_same v i f
  · next h => exact vmod_other v i j f h

/-- Two changes of one element. -/
theorem vmod_vmod {α : Type} {n : Nat} (v : Vector α n) (i : Fin n) (f g : α → α) :
    vmod (vmod v i f) i g = vmod v i fun x => g (f x) := by
  simp [vmod]

/-- Two changes of one port. -/
theorem Dev.modPort_modPort (d : Dev) (gp : Fin 112) (f g : Port → Port) :
    (d.modPort gp f).modPort gp g = d.modPort gp fun p => g (f p) := by
  simp only [Dev.modPort, vmod_vmod]

@[simp] theorem vall_get {α : Type} {n : Nat} (v : Vector α n) (i : Nat) (h : i < n) (f : α → α) :
    (vall f v)[i] = f v[i] := by
  simp [vall]

@[simp] theorem vallIdx_get {α : Type} {n : Nat} (v : Vector α n) (i : Nat) (h : i < n) (f : Nat → α → α) :
    (vallIdx f v)[i] = f i v[i] := by
  simp [vallIdx]

@[simp] theorem mem_fins {n : Nat} (i : Fin n) : i ∈ fins n := List.mem_finRange i

/-- Three equal copies vote for their value. -/
@[simp] theorem mk3_val {n : Nat} (v : BitVec n) : (Tv.mk3 v).val = v := by simp [Tv.mk3, Tv.val]

variable (d : Dev)

@[simp] theorem Dev.modSys_sys (f : Sys → Sys) :
    (d.modSys f).sys = f d.sys := rfl
@[simp] theorem Dev.modSys_ses (f : Sys → Sys) : (d.modSys f).ses = d.ses := rfl
@[simp] theorem Dev.modSys_ev (f : Sys → Sys) : (d.modSys f).ev = d.ev := rfl
@[simp] theorem Dev.modSys_pos (f : Sys → Sys) : (d.modSys f).pos = d.pos := rfl
@[simp] theorem Dev.modSys_armed (f : Sys → Sys) : (d.modSys f).armed = d.armed := rfl
@[simp] theorem Dev.modSys_activeJob (f : Sys → Sys) : (d.modSys f).activeJob = d.activeJob := rfl
@[simp] theorem Dev.modSys_activeSwaths (f : Sys → Sys) : (d.modSys f).activeSwaths = d.activeSwaths := rfl
@[simp] theorem Dev.modSys_swaths (f : Sys → Sys) : (d.modSys f).swaths = d.swaths := rfl
@[simp] theorem Dev.modSys_ports (f : Sys → Sys) : (d.modSys f).ports = d.ports := rfl
@[simp] theorem Dev.modSys_dma (f : Sys → Sys) : (d.modSys f).dma = d.dma := rfl
@[simp] theorem Dev.modSys_mot (f : Sys → Sys) : (d.modSys f).mot = d.mot := rfl
@[simp] theorem Dev.modSys_flt (f : Sys → Sys) : (d.modSys f).flt = d.flt := rfl
@[simp] theorem Dev.modSys_otp (f : Sys → Sys) : (d.modSys f).otp = d.otp := rfl
@[simp] theorem Dev.modSys_mr (f : Sys → Sys) : (d.modSys f).mr = d.mr := rfl
@[simp] theorem Dev.modSys_pci (f : Sys → Sys) : (d.modSys f).pci = d.pci := rfl
@[simp] theorem Dev.modSys_eth (f : Sys → Sys) : (d.modSys f).eth = d.eth := rfl
@[simp] theorem Dev.modSys_tmx (f : Sys → Sys) : (d.modSys f).tmx = d.tmx := rfl
@[simp] theorem Dev.modSys_dies (f : Sys → Sys) : (d.modSys f).dies = d.dies := rfl
@[simp] theorem Dev.modSys_sent (f : Sys → Sys) : (d.modSys f).sent = d.sent := rfl

@[simp] theorem Dev.modSes_sys (f : Sessions → Sessions) : (d.modSes f).sys = d.sys := rfl
@[simp] theorem Dev.modSes_ses (f : Sessions → Sessions) :
    (d.modSes f).ses = f d.ses := rfl
@[simp] theorem Dev.modSes_ev (f : Sessions → Sessions) : (d.modSes f).ev = d.ev := rfl
@[simp] theorem Dev.modSes_pos (f : Sessions → Sessions) : (d.modSes f).pos = d.pos := rfl
@[simp] theorem Dev.modSes_armed (f : Sessions → Sessions) : (d.modSes f).armed = d.armed := rfl
@[simp] theorem Dev.modSes_activeJob (f : Sessions → Sessions) : (d.modSes f).activeJob = d.activeJob := rfl
@[simp] theorem Dev.modSes_activeSwaths (f : Sessions → Sessions) : (d.modSes f).activeSwaths = d.activeSwaths := rfl
@[simp] theorem Dev.modSes_swaths (f : Sessions → Sessions) : (d.modSes f).swaths = d.swaths := rfl
@[simp] theorem Dev.modSes_ports (f : Sessions → Sessions) : (d.modSes f).ports = d.ports := rfl
@[simp] theorem Dev.modSes_dma (f : Sessions → Sessions) : (d.modSes f).dma = d.dma := rfl
@[simp] theorem Dev.modSes_mot (f : Sessions → Sessions) : (d.modSes f).mot = d.mot := rfl
@[simp] theorem Dev.modSes_flt (f : Sessions → Sessions) : (d.modSes f).flt = d.flt := rfl
@[simp] theorem Dev.modSes_otp (f : Sessions → Sessions) : (d.modSes f).otp = d.otp := rfl
@[simp] theorem Dev.modSes_mr (f : Sessions → Sessions) : (d.modSes f).mr = d.mr := rfl
@[simp] theorem Dev.modSes_pci (f : Sessions → Sessions) : (d.modSes f).pci = d.pci := rfl
@[simp] theorem Dev.modSes_eth (f : Sessions → Sessions) : (d.modSes f).eth = d.eth := rfl
@[simp] theorem Dev.modSes_tmx (f : Sessions → Sessions) : (d.modSes f).tmx = d.tmx := rfl
@[simp] theorem Dev.modSes_dies (f : Sessions → Sessions) : (d.modSes f).dies = d.dies := rfl
@[simp] theorem Dev.modSes_sent (f : Sessions → Sessions) : (d.modSes f).sent = d.sent := rfl

@[simp] theorem Dev.modEv_sys (f : Events → Events) : (d.modEv f).sys = d.sys := rfl
@[simp] theorem Dev.modEv_ses (f : Events → Events) : (d.modEv f).ses = d.ses := rfl
@[simp] theorem Dev.modEv_ev (f : Events → Events) :
    (d.modEv f).ev = f d.ev := rfl
@[simp] theorem Dev.modEv_pos (f : Events → Events) : (d.modEv f).pos = d.pos := rfl
@[simp] theorem Dev.modEv_armed (f : Events → Events) : (d.modEv f).armed = d.armed := rfl
@[simp] theorem Dev.modEv_activeJob (f : Events → Events) : (d.modEv f).activeJob = d.activeJob := rfl
@[simp] theorem Dev.modEv_activeSwaths (f : Events → Events) : (d.modEv f).activeSwaths = d.activeSwaths := rfl
@[simp] theorem Dev.modEv_swaths (f : Events → Events) : (d.modEv f).swaths = d.swaths := rfl
@[simp] theorem Dev.modEv_ports (f : Events → Events) : (d.modEv f).ports = d.ports := rfl
@[simp] theorem Dev.modEv_dma (f : Events → Events) : (d.modEv f).dma = d.dma := rfl
@[simp] theorem Dev.modEv_mot (f : Events → Events) : (d.modEv f).mot = d.mot := rfl
@[simp] theorem Dev.modEv_flt (f : Events → Events) : (d.modEv f).flt = d.flt := rfl
@[simp] theorem Dev.modEv_otp (f : Events → Events) : (d.modEv f).otp = d.otp := rfl
@[simp] theorem Dev.modEv_mr (f : Events → Events) : (d.modEv f).mr = d.mr := rfl
@[simp] theorem Dev.modEv_pci (f : Events → Events) : (d.modEv f).pci = d.pci := rfl
@[simp] theorem Dev.modEv_eth (f : Events → Events) : (d.modEv f).eth = d.eth := rfl
@[simp] theorem Dev.modEv_tmx (f : Events → Events) : (d.modEv f).tmx = d.tmx := rfl
@[simp] theorem Dev.modEv_dies (f : Events → Events) : (d.modEv f).dies = d.dies := rfl
@[simp] theorem Dev.modEv_sent (f : Events → Events) : (d.modEv f).sent = d.sent := rfl

@[simp] theorem Dev.modRing_sys (f : List RingEntry → List RingEntry) : (d.modRing f).sys = d.sys := rfl
@[simp] theorem Dev.modRing_ses (f : List RingEntry → List RingEntry) : (d.modRing f).ses = d.ses := rfl
@[simp] theorem Dev.modRing_ev (f : List RingEntry → List RingEntry) :
    (d.modRing f).ev = { d.ev with ring := f d.ev.ring } := rfl
@[simp] theorem Dev.modRing_pos (f : List RingEntry → List RingEntry) : (d.modRing f).pos = d.pos := rfl
@[simp] theorem Dev.modRing_armed (f : List RingEntry → List RingEntry) : (d.modRing f).armed = d.armed := rfl
@[simp] theorem Dev.modRing_activeJob (f : List RingEntry → List RingEntry) : (d.modRing f).activeJob = d.activeJob := rfl
@[simp] theorem Dev.modRing_activeSwaths (f : List RingEntry → List RingEntry) : (d.modRing f).activeSwaths = d.activeSwaths := rfl
@[simp] theorem Dev.modRing_swaths (f : List RingEntry → List RingEntry) : (d.modRing f).swaths = d.swaths := rfl
@[simp] theorem Dev.modRing_ports (f : List RingEntry → List RingEntry) : (d.modRing f).ports = d.ports := rfl
@[simp] theorem Dev.modRing_dma (f : List RingEntry → List RingEntry) : (d.modRing f).dma = d.dma := rfl
@[simp] theorem Dev.modRing_mot (f : List RingEntry → List RingEntry) : (d.modRing f).mot = d.mot := rfl
@[simp] theorem Dev.modRing_flt (f : List RingEntry → List RingEntry) : (d.modRing f).flt = d.flt := rfl
@[simp] theorem Dev.modRing_otp (f : List RingEntry → List RingEntry) : (d.modRing f).otp = d.otp := rfl
@[simp] theorem Dev.modRing_mr (f : List RingEntry → List RingEntry) : (d.modRing f).mr = d.mr := rfl
@[simp] theorem Dev.modRing_pci (f : List RingEntry → List RingEntry) : (d.modRing f).pci = d.pci := rfl
@[simp] theorem Dev.modRing_eth (f : List RingEntry → List RingEntry) : (d.modRing f).eth = d.eth := rfl
@[simp] theorem Dev.modRing_tmx (f : List RingEntry → List RingEntry) : (d.modRing f).tmx = d.tmx := rfl
@[simp] theorem Dev.modRing_dies (f : List RingEntry → List RingEntry) : (d.modRing f).dies = d.dies := rfl
@[simp] theorem Dev.modRing_sent (f : List RingEntry → List RingEntry) : (d.modRing f).sent = d.sent := rfl

@[simp] theorem Dev.modPos_sys (f : Position → Position) : (d.modPos f).sys = d.sys := rfl
@[simp] theorem Dev.modPos_ses (f : Position → Position) : (d.modPos f).ses = d.ses := rfl
@[simp] theorem Dev.modPos_ev (f : Position → Position) : (d.modPos f).ev = d.ev := rfl
@[simp] theorem Dev.modPos_pos (f : Position → Position) :
    (d.modPos f).pos = f d.pos := rfl
@[simp] theorem Dev.modPos_armed (f : Position → Position) : (d.modPos f).armed = d.armed := rfl
@[simp] theorem Dev.modPos_activeJob (f : Position → Position) : (d.modPos f).activeJob = d.activeJob := rfl
@[simp] theorem Dev.modPos_activeSwaths (f : Position → Position) : (d.modPos f).activeSwaths = d.activeSwaths := rfl
@[simp] theorem Dev.modPos_swaths (f : Position → Position) : (d.modPos f).swaths = d.swaths := rfl
@[simp] theorem Dev.modPos_ports (f : Position → Position) : (d.modPos f).ports = d.ports := rfl
@[simp] theorem Dev.modPos_dma (f : Position → Position) : (d.modPos f).dma = d.dma := rfl
@[simp] theorem Dev.modPos_mot (f : Position → Position) : (d.modPos f).mot = d.mot := rfl
@[simp] theorem Dev.modPos_flt (f : Position → Position) : (d.modPos f).flt = d.flt := rfl
@[simp] theorem Dev.modPos_otp (f : Position → Position) : (d.modPos f).otp = d.otp := rfl
@[simp] theorem Dev.modPos_mr (f : Position → Position) : (d.modPos f).mr = d.mr := rfl
@[simp] theorem Dev.modPos_pci (f : Position → Position) : (d.modPos f).pci = d.pci := rfl
@[simp] theorem Dev.modPos_eth (f : Position → Position) : (d.modPos f).eth = d.eth := rfl
@[simp] theorem Dev.modPos_tmx (f : Position → Position) : (d.modPos f).tmx = d.tmx := rfl
@[simp] theorem Dev.modPos_dies (f : Position → Position) : (d.modPos f).dies = d.dies := rfl
@[simp] theorem Dev.modPos_sent (f : Position → Position) : (d.modPos f).sent = d.sent := rfl

@[simp] theorem Dev.modMot_sys (f : Motion → Motion) : (d.modMot f).sys = d.sys := rfl
@[simp] theorem Dev.modMot_ses (f : Motion → Motion) : (d.modMot f).ses = d.ses := rfl
@[simp] theorem Dev.modMot_ev (f : Motion → Motion) : (d.modMot f).ev = d.ev := rfl
@[simp] theorem Dev.modMot_pos (f : Motion → Motion) : (d.modMot f).pos = d.pos := rfl
@[simp] theorem Dev.modMot_armed (f : Motion → Motion) : (d.modMot f).armed = d.armed := rfl
@[simp] theorem Dev.modMot_activeJob (f : Motion → Motion) : (d.modMot f).activeJob = d.activeJob := rfl
@[simp] theorem Dev.modMot_activeSwaths (f : Motion → Motion) : (d.modMot f).activeSwaths = d.activeSwaths := rfl
@[simp] theorem Dev.modMot_swaths (f : Motion → Motion) : (d.modMot f).swaths = d.swaths := rfl
@[simp] theorem Dev.modMot_ports (f : Motion → Motion) : (d.modMot f).ports = d.ports := rfl
@[simp] theorem Dev.modMot_dma (f : Motion → Motion) : (d.modMot f).dma = d.dma := rfl
@[simp] theorem Dev.modMot_mot (f : Motion → Motion) :
    (d.modMot f).mot = f d.mot := rfl
@[simp] theorem Dev.modMot_flt (f : Motion → Motion) : (d.modMot f).flt = d.flt := rfl
@[simp] theorem Dev.modMot_otp (f : Motion → Motion) : (d.modMot f).otp = d.otp := rfl
@[simp] theorem Dev.modMot_mr (f : Motion → Motion) : (d.modMot f).mr = d.mr := rfl
@[simp] theorem Dev.modMot_pci (f : Motion → Motion) : (d.modMot f).pci = d.pci := rfl
@[simp] theorem Dev.modMot_eth (f : Motion → Motion) : (d.modMot f).eth = d.eth := rfl
@[simp] theorem Dev.modMot_tmx (f : Motion → Motion) : (d.modMot f).tmx = d.tmx := rfl
@[simp] theorem Dev.modMot_dies (f : Motion → Motion) : (d.modMot f).dies = d.dies := rfl
@[simp] theorem Dev.modMot_sent (f : Motion → Motion) : (d.modMot f).sent = d.sent := rfl

@[simp] theorem Dev.modFlt_sys (f : Faults → Faults) : (d.modFlt f).sys = d.sys := rfl
@[simp] theorem Dev.modFlt_ses (f : Faults → Faults) : (d.modFlt f).ses = d.ses := rfl
@[simp] theorem Dev.modFlt_ev (f : Faults → Faults) : (d.modFlt f).ev = d.ev := rfl
@[simp] theorem Dev.modFlt_pos (f : Faults → Faults) : (d.modFlt f).pos = d.pos := rfl
@[simp] theorem Dev.modFlt_armed (f : Faults → Faults) : (d.modFlt f).armed = d.armed := rfl
@[simp] theorem Dev.modFlt_activeJob (f : Faults → Faults) : (d.modFlt f).activeJob = d.activeJob := rfl
@[simp] theorem Dev.modFlt_activeSwaths (f : Faults → Faults) : (d.modFlt f).activeSwaths = d.activeSwaths := rfl
@[simp] theorem Dev.modFlt_swaths (f : Faults → Faults) : (d.modFlt f).swaths = d.swaths := rfl
@[simp] theorem Dev.modFlt_ports (f : Faults → Faults) : (d.modFlt f).ports = d.ports := rfl
@[simp] theorem Dev.modFlt_dma (f : Faults → Faults) : (d.modFlt f).dma = d.dma := rfl
@[simp] theorem Dev.modFlt_mot (f : Faults → Faults) : (d.modFlt f).mot = d.mot := rfl
@[simp] theorem Dev.modFlt_flt (f : Faults → Faults) :
    (d.modFlt f).flt = f d.flt := rfl
@[simp] theorem Dev.modFlt_otp (f : Faults → Faults) : (d.modFlt f).otp = d.otp := rfl
@[simp] theorem Dev.modFlt_mr (f : Faults → Faults) : (d.modFlt f).mr = d.mr := rfl
@[simp] theorem Dev.modFlt_pci (f : Faults → Faults) : (d.modFlt f).pci = d.pci := rfl
@[simp] theorem Dev.modFlt_eth (f : Faults → Faults) : (d.modFlt f).eth = d.eth := rfl
@[simp] theorem Dev.modFlt_tmx (f : Faults → Faults) : (d.modFlt f).tmx = d.tmx := rfl
@[simp] theorem Dev.modFlt_dies (f : Faults → Faults) : (d.modFlt f).dies = d.dies := rfl
@[simp] theorem Dev.modFlt_sent (f : Faults → Faults) : (d.modFlt f).sent = d.sent := rfl

@[simp] theorem Dev.modOtp_sys (f : Otp → Otp) : (d.modOtp f).sys = d.sys := rfl
@[simp] theorem Dev.modOtp_ses (f : Otp → Otp) : (d.modOtp f).ses = d.ses := rfl
@[simp] theorem Dev.modOtp_ev (f : Otp → Otp) : (d.modOtp f).ev = d.ev := rfl
@[simp] theorem Dev.modOtp_pos (f : Otp → Otp) : (d.modOtp f).pos = d.pos := rfl
@[simp] theorem Dev.modOtp_armed (f : Otp → Otp) : (d.modOtp f).armed = d.armed := rfl
@[simp] theorem Dev.modOtp_activeJob (f : Otp → Otp) : (d.modOtp f).activeJob = d.activeJob := rfl
@[simp] theorem Dev.modOtp_activeSwaths (f : Otp → Otp) : (d.modOtp f).activeSwaths = d.activeSwaths := rfl
@[simp] theorem Dev.modOtp_swaths (f : Otp → Otp) : (d.modOtp f).swaths = d.swaths := rfl
@[simp] theorem Dev.modOtp_ports (f : Otp → Otp) : (d.modOtp f).ports = d.ports := rfl
@[simp] theorem Dev.modOtp_dma (f : Otp → Otp) : (d.modOtp f).dma = d.dma := rfl
@[simp] theorem Dev.modOtp_mot (f : Otp → Otp) : (d.modOtp f).mot = d.mot := rfl
@[simp] theorem Dev.modOtp_flt (f : Otp → Otp) : (d.modOtp f).flt = d.flt := rfl
@[simp] theorem Dev.modOtp_otp (f : Otp → Otp) :
    (d.modOtp f).otp = f d.otp := rfl
@[simp] theorem Dev.modOtp_mr (f : Otp → Otp) : (d.modOtp f).mr = d.mr := rfl
@[simp] theorem Dev.modOtp_pci (f : Otp → Otp) : (d.modOtp f).pci = d.pci := rfl
@[simp] theorem Dev.modOtp_eth (f : Otp → Otp) : (d.modOtp f).eth = d.eth := rfl
@[simp] theorem Dev.modOtp_tmx (f : Otp → Otp) : (d.modOtp f).tmx = d.tmx := rfl
@[simp] theorem Dev.modOtp_dies (f : Otp → Otp) : (d.modOtp f).dies = d.dies := rfl
@[simp] theorem Dev.modOtp_sent (f : Otp → Otp) : (d.modOtp f).sent = d.sent := rfl

@[simp] theorem Dev.modMr_sys (f : MemRegs → MemRegs) : (d.modMr f).sys = d.sys := rfl
@[simp] theorem Dev.modMr_ses (f : MemRegs → MemRegs) : (d.modMr f).ses = d.ses := rfl
@[simp] theorem Dev.modMr_ev (f : MemRegs → MemRegs) : (d.modMr f).ev = d.ev := rfl
@[simp] theorem Dev.modMr_pos (f : MemRegs → MemRegs) : (d.modMr f).pos = d.pos := rfl
@[simp] theorem Dev.modMr_armed (f : MemRegs → MemRegs) : (d.modMr f).armed = d.armed := rfl
@[simp] theorem Dev.modMr_activeJob (f : MemRegs → MemRegs) : (d.modMr f).activeJob = d.activeJob := rfl
@[simp] theorem Dev.modMr_activeSwaths (f : MemRegs → MemRegs) : (d.modMr f).activeSwaths = d.activeSwaths := rfl
@[simp] theorem Dev.modMr_swaths (f : MemRegs → MemRegs) : (d.modMr f).swaths = d.swaths := rfl
@[simp] theorem Dev.modMr_ports (f : MemRegs → MemRegs) : (d.modMr f).ports = d.ports := rfl
@[simp] theorem Dev.modMr_dma (f : MemRegs → MemRegs) : (d.modMr f).dma = d.dma := rfl
@[simp] theorem Dev.modMr_mot (f : MemRegs → MemRegs) : (d.modMr f).mot = d.mot := rfl
@[simp] theorem Dev.modMr_flt (f : MemRegs → MemRegs) : (d.modMr f).flt = d.flt := rfl
@[simp] theorem Dev.modMr_otp (f : MemRegs → MemRegs) : (d.modMr f).otp = d.otp := rfl
@[simp] theorem Dev.modMr_mr (f : MemRegs → MemRegs) :
    (d.modMr f).mr = f d.mr := rfl
@[simp] theorem Dev.modMr_pci (f : MemRegs → MemRegs) : (d.modMr f).pci = d.pci := rfl
@[simp] theorem Dev.modMr_eth (f : MemRegs → MemRegs) : (d.modMr f).eth = d.eth := rfl
@[simp] theorem Dev.modMr_tmx (f : MemRegs → MemRegs) : (d.modMr f).tmx = d.tmx := rfl
@[simp] theorem Dev.modMr_dies (f : MemRegs → MemRegs) : (d.modMr f).dies = d.dies := rfl
@[simp] theorem Dev.modMr_sent (f : MemRegs → MemRegs) : (d.modMr f).sent = d.sent := rfl

@[simp] theorem Dev.modPci_sys (f : Pci → Pci) : (d.modPci f).sys = d.sys := rfl
@[simp] theorem Dev.modPci_ses (f : Pci → Pci) : (d.modPci f).ses = d.ses := rfl
@[simp] theorem Dev.modPci_ev (f : Pci → Pci) : (d.modPci f).ev = d.ev := rfl
@[simp] theorem Dev.modPci_pos (f : Pci → Pci) : (d.modPci f).pos = d.pos := rfl
@[simp] theorem Dev.modPci_armed (f : Pci → Pci) : (d.modPci f).armed = d.armed := rfl
@[simp] theorem Dev.modPci_activeJob (f : Pci → Pci) : (d.modPci f).activeJob = d.activeJob := rfl
@[simp] theorem Dev.modPci_activeSwaths (f : Pci → Pci) : (d.modPci f).activeSwaths = d.activeSwaths := rfl
@[simp] theorem Dev.modPci_swaths (f : Pci → Pci) : (d.modPci f).swaths = d.swaths := rfl
@[simp] theorem Dev.modPci_ports (f : Pci → Pci) : (d.modPci f).ports = d.ports := rfl
@[simp] theorem Dev.modPci_dma (f : Pci → Pci) : (d.modPci f).dma = d.dma := rfl
@[simp] theorem Dev.modPci_mot (f : Pci → Pci) : (d.modPci f).mot = d.mot := rfl
@[simp] theorem Dev.modPci_flt (f : Pci → Pci) : (d.modPci f).flt = d.flt := rfl
@[simp] theorem Dev.modPci_otp (f : Pci → Pci) : (d.modPci f).otp = d.otp := rfl
@[simp] theorem Dev.modPci_mr (f : Pci → Pci) : (d.modPci f).mr = d.mr := rfl
@[simp] theorem Dev.modPci_pci (f : Pci → Pci) :
    (d.modPci f).pci = f d.pci := rfl
@[simp] theorem Dev.modPci_eth (f : Pci → Pci) : (d.modPci f).eth = d.eth := rfl
@[simp] theorem Dev.modPci_tmx (f : Pci → Pci) : (d.modPci f).tmx = d.tmx := rfl
@[simp] theorem Dev.modPci_dies (f : Pci → Pci) : (d.modPci f).dies = d.dies := rfl
@[simp] theorem Dev.modPci_sent (f : Pci → Pci) : (d.modPci f).sent = d.sent := rfl

@[simp] theorem Dev.modEth_sys (f : Eth → Eth) : (d.modEth f).sys = d.sys := rfl
@[simp] theorem Dev.modEth_ses (f : Eth → Eth) : (d.modEth f).ses = d.ses := rfl
@[simp] theorem Dev.modEth_ev (f : Eth → Eth) : (d.modEth f).ev = d.ev := rfl
@[simp] theorem Dev.modEth_pos (f : Eth → Eth) : (d.modEth f).pos = d.pos := rfl
@[simp] theorem Dev.modEth_armed (f : Eth → Eth) : (d.modEth f).armed = d.armed := rfl
@[simp] theorem Dev.modEth_activeJob (f : Eth → Eth) : (d.modEth f).activeJob = d.activeJob := rfl
@[simp] theorem Dev.modEth_activeSwaths (f : Eth → Eth) : (d.modEth f).activeSwaths = d.activeSwaths := rfl
@[simp] theorem Dev.modEth_swaths (f : Eth → Eth) : (d.modEth f).swaths = d.swaths := rfl
@[simp] theorem Dev.modEth_ports (f : Eth → Eth) : (d.modEth f).ports = d.ports := rfl
@[simp] theorem Dev.modEth_dma (f : Eth → Eth) : (d.modEth f).dma = d.dma := rfl
@[simp] theorem Dev.modEth_mot (f : Eth → Eth) : (d.modEth f).mot = d.mot := rfl
@[simp] theorem Dev.modEth_flt (f : Eth → Eth) : (d.modEth f).flt = d.flt := rfl
@[simp] theorem Dev.modEth_otp (f : Eth → Eth) : (d.modEth f).otp = d.otp := rfl
@[simp] theorem Dev.modEth_mr (f : Eth → Eth) : (d.modEth f).mr = d.mr := rfl
@[simp] theorem Dev.modEth_pci (f : Eth → Eth) : (d.modEth f).pci = d.pci := rfl
@[simp] theorem Dev.modEth_eth (f : Eth → Eth) :
    (d.modEth f).eth = f d.eth := rfl
@[simp] theorem Dev.modEth_tmx (f : Eth → Eth) : (d.modEth f).tmx = d.tmx := rfl
@[simp] theorem Dev.modEth_dies (f : Eth → Eth) : (d.modEth f).dies = d.dies := rfl
@[simp] theorem Dev.modEth_sent (f : Eth → Eth) : (d.modEth f).sent = d.sent := rfl

@[simp] theorem Dev.modDma_sys (f : Dma → Dma) : (d.modDma f).sys = d.sys := rfl
@[simp] theorem Dev.modDma_ses (f : Dma → Dma) : (d.modDma f).ses = d.ses := rfl
@[simp] theorem Dev.modDma_ev (f : Dma → Dma) : (d.modDma f).ev = d.ev := rfl
@[simp] theorem Dev.modDma_pos (f : Dma → Dma) : (d.modDma f).pos = d.pos := rfl
@[simp] theorem Dev.modDma_armed (f : Dma → Dma) : (d.modDma f).armed = d.armed := rfl
@[simp] theorem Dev.modDma_activeJob (f : Dma → Dma) : (d.modDma f).activeJob = d.activeJob := rfl
@[simp] theorem Dev.modDma_activeSwaths (f : Dma → Dma) : (d.modDma f).activeSwaths = d.activeSwaths := rfl
@[simp] theorem Dev.modDma_swaths (f : Dma → Dma) : (d.modDma f).swaths = d.swaths := rfl
@[simp] theorem Dev.modDma_ports (f : Dma → Dma) : (d.modDma f).ports = d.ports := rfl
@[simp] theorem Dev.modDma_dma (f : Dma → Dma) :
    (d.modDma f).dma = f d.dma := rfl
@[simp] theorem Dev.modDma_mot (f : Dma → Dma) : (d.modDma f).mot = d.mot := rfl
@[simp] theorem Dev.modDma_flt (f : Dma → Dma) : (d.modDma f).flt = d.flt := rfl
@[simp] theorem Dev.modDma_otp (f : Dma → Dma) : (d.modDma f).otp = d.otp := rfl
@[simp] theorem Dev.modDma_mr (f : Dma → Dma) : (d.modDma f).mr = d.mr := rfl
@[simp] theorem Dev.modDma_pci (f : Dma → Dma) : (d.modDma f).pci = d.pci := rfl
@[simp] theorem Dev.modDma_eth (f : Dma → Dma) : (d.modDma f).eth = d.eth := rfl
@[simp] theorem Dev.modDma_tmx (f : Dma → Dma) : (d.modDma f).tmx = d.tmx := rfl
@[simp] theorem Dev.modDma_dies (f : Dma → Dma) : (d.modDma f).dies = d.dies := rfl
@[simp] theorem Dev.modDma_sent (f : Dma → Dma) : (d.modDma f).sent = d.sent := rfl

@[simp] theorem Dev.modPort_sys (i : Fin 112) (f : Port → Port) : (d.modPort i f).sys = d.sys := rfl
@[simp] theorem Dev.modPort_ses (i : Fin 112) (f : Port → Port) : (d.modPort i f).ses = d.ses := rfl
@[simp] theorem Dev.modPort_ev (i : Fin 112) (f : Port → Port) : (d.modPort i f).ev = d.ev := rfl
@[simp] theorem Dev.modPort_pos (i : Fin 112) (f : Port → Port) : (d.modPort i f).pos = d.pos := rfl
@[simp] theorem Dev.modPort_armed (i : Fin 112) (f : Port → Port) : (d.modPort i f).armed = d.armed := rfl
@[simp] theorem Dev.modPort_activeJob (i : Fin 112) (f : Port → Port) : (d.modPort i f).activeJob = d.activeJob := rfl
@[simp] theorem Dev.modPort_activeSwaths (i : Fin 112) (f : Port → Port) : (d.modPort i f).activeSwaths = d.activeSwaths := rfl
@[simp] theorem Dev.modPort_swaths (i : Fin 112) (f : Port → Port) : (d.modPort i f).swaths = d.swaths := rfl
@[simp] theorem Dev.modPort_ports (i : Fin 112) (f : Port → Port) :
    (d.modPort i f).ports = vmod d.ports i f := rfl
@[simp] theorem Dev.modPort_dma (i : Fin 112) (f : Port → Port) : (d.modPort i f).dma = d.dma := rfl
@[simp] theorem Dev.modPort_mot (i : Fin 112) (f : Port → Port) : (d.modPort i f).mot = d.mot := rfl
@[simp] theorem Dev.modPort_flt (i : Fin 112) (f : Port → Port) : (d.modPort i f).flt = d.flt := rfl
@[simp] theorem Dev.modPort_otp (i : Fin 112) (f : Port → Port) : (d.modPort i f).otp = d.otp := rfl
@[simp] theorem Dev.modPort_mr (i : Fin 112) (f : Port → Port) : (d.modPort i f).mr = d.mr := rfl
@[simp] theorem Dev.modPort_pci (i : Fin 112) (f : Port → Port) : (d.modPort i f).pci = d.pci := rfl
@[simp] theorem Dev.modPort_eth (i : Fin 112) (f : Port → Port) : (d.modPort i f).eth = d.eth := rfl
@[simp] theorem Dev.modPort_tmx (i : Fin 112) (f : Port → Port) : (d.modPort i f).tmx = d.tmx := rfl
@[simp] theorem Dev.modPort_dies (i : Fin 112) (f : Port → Port) : (d.modPort i f).dies = d.dies := rfl
@[simp] theorem Dev.modPort_sent (i : Fin 112) (f : Port → Port) : (d.modPort i f).sent = d.sent := rfl

@[simp] theorem Dev.modSwath_sys (i : Fin 16) (f : Swath → Swath) : (d.modSwath i f).sys = d.sys := rfl
@[simp] theorem Dev.modSwath_ses (i : Fin 16) (f : Swath → Swath) : (d.modSwath i f).ses = d.ses := rfl
@[simp] theorem Dev.modSwath_ev (i : Fin 16) (f : Swath → Swath) : (d.modSwath i f).ev = d.ev := rfl
@[simp] theorem Dev.modSwath_pos (i : Fin 16) (f : Swath → Swath) : (d.modSwath i f).pos = d.pos := rfl
@[simp] theorem Dev.modSwath_armed (i : Fin 16) (f : Swath → Swath) : (d.modSwath i f).armed = d.armed := rfl
@[simp] theorem Dev.modSwath_activeJob (i : Fin 16) (f : Swath → Swath) : (d.modSwath i f).activeJob = d.activeJob := rfl
@[simp] theorem Dev.modSwath_activeSwaths (i : Fin 16) (f : Swath → Swath) : (d.modSwath i f).activeSwaths = d.activeSwaths := rfl
@[simp] theorem Dev.modSwath_swaths (i : Fin 16) (f : Swath → Swath) :
    (d.modSwath i f).swaths = vmod d.swaths i f := rfl
@[simp] theorem Dev.modSwath_ports (i : Fin 16) (f : Swath → Swath) : (d.modSwath i f).ports = d.ports := rfl
@[simp] theorem Dev.modSwath_dma (i : Fin 16) (f : Swath → Swath) : (d.modSwath i f).dma = d.dma := rfl
@[simp] theorem Dev.modSwath_mot (i : Fin 16) (f : Swath → Swath) : (d.modSwath i f).mot = d.mot := rfl
@[simp] theorem Dev.modSwath_flt (i : Fin 16) (f : Swath → Swath) : (d.modSwath i f).flt = d.flt := rfl
@[simp] theorem Dev.modSwath_otp (i : Fin 16) (f : Swath → Swath) : (d.modSwath i f).otp = d.otp := rfl
@[simp] theorem Dev.modSwath_mr (i : Fin 16) (f : Swath → Swath) : (d.modSwath i f).mr = d.mr := rfl
@[simp] theorem Dev.modSwath_pci (i : Fin 16) (f : Swath → Swath) : (d.modSwath i f).pci = d.pci := rfl
@[simp] theorem Dev.modSwath_eth (i : Fin 16) (f : Swath → Swath) : (d.modSwath i f).eth = d.eth := rfl
@[simp] theorem Dev.modSwath_tmx (i : Fin 16) (f : Swath → Swath) : (d.modSwath i f).tmx = d.tmx := rfl
@[simp] theorem Dev.modSwath_dies (i : Fin 16) (f : Swath → Swath) : (d.modSwath i f).dies = d.dies := rfl
@[simp] theorem Dev.modSwath_sent (i : Fin 16) (f : Swath → Swath) : (d.modSwath i f).sent = d.sent := rfl

@[simp] theorem Dev.modDie_sys (i : Fin 7) (f : Die → Die) : (d.modDie i f).sys = d.sys := rfl
@[simp] theorem Dev.modDie_ses (i : Fin 7) (f : Die → Die) : (d.modDie i f).ses = d.ses := rfl
@[simp] theorem Dev.modDie_ev (i : Fin 7) (f : Die → Die) : (d.modDie i f).ev = d.ev := rfl
@[simp] theorem Dev.modDie_pos (i : Fin 7) (f : Die → Die) : (d.modDie i f).pos = d.pos := rfl
@[simp] theorem Dev.modDie_armed (i : Fin 7) (f : Die → Die) : (d.modDie i f).armed = d.armed := rfl
@[simp] theorem Dev.modDie_activeJob (i : Fin 7) (f : Die → Die) : (d.modDie i f).activeJob = d.activeJob := rfl
@[simp] theorem Dev.modDie_activeSwaths (i : Fin 7) (f : Die → Die) : (d.modDie i f).activeSwaths = d.activeSwaths := rfl
@[simp] theorem Dev.modDie_swaths (i : Fin 7) (f : Die → Die) : (d.modDie i f).swaths = d.swaths := rfl
@[simp] theorem Dev.modDie_ports (i : Fin 7) (f : Die → Die) : (d.modDie i f).ports = d.ports := rfl
@[simp] theorem Dev.modDie_dma (i : Fin 7) (f : Die → Die) : (d.modDie i f).dma = d.dma := rfl
@[simp] theorem Dev.modDie_mot (i : Fin 7) (f : Die → Die) : (d.modDie i f).mot = d.mot := rfl
@[simp] theorem Dev.modDie_flt (i : Fin 7) (f : Die → Die) : (d.modDie i f).flt = d.flt := rfl
@[simp] theorem Dev.modDie_otp (i : Fin 7) (f : Die → Die) : (d.modDie i f).otp = d.otp := rfl
@[simp] theorem Dev.modDie_mr (i : Fin 7) (f : Die → Die) : (d.modDie i f).mr = d.mr := rfl
@[simp] theorem Dev.modDie_pci (i : Fin 7) (f : Die → Die) : (d.modDie i f).pci = d.pci := rfl
@[simp] theorem Dev.modDie_eth (i : Fin 7) (f : Die → Die) : (d.modDie i f).eth = d.eth := rfl
@[simp] theorem Dev.modDie_tmx (i : Fin 7) (f : Die → Die) : (d.modDie i f).tmx = d.tmx := rfl
@[simp] theorem Dev.modDie_dies (i : Fin 7) (f : Die → Die) :
    (d.modDie i f).dies = vmod d.dies i f := rfl
@[simp] theorem Dev.modDie_sent (i : Fin 7) (f : Die → Die) : (d.modDie i f).sent = d.sent := rfl

@[simp] theorem Dev.modCh_sys (i : Fin 32) (f : Channel → Channel) : (d.modCh i f).sys = d.sys := rfl
@[simp] theorem Dev.modCh_ses (i : Fin 32) (f : Channel → Channel) : (d.modCh i f).ses = d.ses := rfl
@[simp] theorem Dev.modCh_ev (i : Fin 32) (f : Channel → Channel) : (d.modCh i f).ev = d.ev := rfl
@[simp] theorem Dev.modCh_pos (i : Fin 32) (f : Channel → Channel) : (d.modCh i f).pos = d.pos := rfl
@[simp] theorem Dev.modCh_armed (i : Fin 32) (f : Channel → Channel) : (d.modCh i f).armed = d.armed := rfl
@[simp] theorem Dev.modCh_activeJob (i : Fin 32) (f : Channel → Channel) : (d.modCh i f).activeJob = d.activeJob := rfl
@[simp] theorem Dev.modCh_activeSwaths (i : Fin 32) (f : Channel → Channel) : (d.modCh i f).activeSwaths = d.activeSwaths := rfl
@[simp] theorem Dev.modCh_swaths (i : Fin 32) (f : Channel → Channel) : (d.modCh i f).swaths = d.swaths := rfl
@[simp] theorem Dev.modCh_ports (i : Fin 32) (f : Channel → Channel) : (d.modCh i f).ports = d.ports := rfl
@[simp] theorem Dev.modCh_dma (i : Fin 32) (f : Channel → Channel) :
    (d.modCh i f).dma = { d.dma with ch := vmod d.dma.ch i f } := rfl
@[simp] theorem Dev.modCh_mot (i : Fin 32) (f : Channel → Channel) : (d.modCh i f).mot = d.mot := rfl
@[simp] theorem Dev.modCh_flt (i : Fin 32) (f : Channel → Channel) : (d.modCh i f).flt = d.flt := rfl
@[simp] theorem Dev.modCh_otp (i : Fin 32) (f : Channel → Channel) : (d.modCh i f).otp = d.otp := rfl
@[simp] theorem Dev.modCh_mr (i : Fin 32) (f : Channel → Channel) : (d.modCh i f).mr = d.mr := rfl
@[simp] theorem Dev.modCh_pci (i : Fin 32) (f : Channel → Channel) : (d.modCh i f).pci = d.pci := rfl
@[simp] theorem Dev.modCh_eth (i : Fin 32) (f : Channel → Channel) : (d.modCh i f).eth = d.eth := rfl
@[simp] theorem Dev.modCh_tmx (i : Fin 32) (f : Channel → Channel) : (d.modCh i f).tmx = d.tmx := rfl
@[simp] theorem Dev.modCh_dies (i : Fin 32) (f : Channel → Channel) : (d.modCh i f).dies = d.dies := rfl
@[simp] theorem Dev.modCh_sent (i : Fin 32) (f : Channel → Channel) : (d.modCh i f).sent = d.sent := rfl

@[simp] theorem Dev.modEnc_sys (i : Fin 4) (f : Enc → Enc) : (d.modEnc i f).sys = d.sys := rfl
@[simp] theorem Dev.modEnc_ses (i : Fin 4) (f : Enc → Enc) : (d.modEnc i f).ses = d.ses := rfl
@[simp] theorem Dev.modEnc_ev (i : Fin 4) (f : Enc → Enc) : (d.modEnc i f).ev = d.ev := rfl
@[simp] theorem Dev.modEnc_pos (i : Fin 4) (f : Enc → Enc) :
    (d.modEnc i f).pos = { d.pos with enc := vmod d.pos.enc i f } := rfl
@[simp] theorem Dev.modEnc_armed (i : Fin 4) (f : Enc → Enc) : (d.modEnc i f).armed = d.armed := rfl
@[simp] theorem Dev.modEnc_activeJob (i : Fin 4) (f : Enc → Enc) : (d.modEnc i f).activeJob = d.activeJob := rfl
@[simp] theorem Dev.modEnc_activeSwaths (i : Fin 4) (f : Enc → Enc) : (d.modEnc i f).activeSwaths = d.activeSwaths := rfl
@[simp] theorem Dev.modEnc_swaths (i : Fin 4) (f : Enc → Enc) : (d.modEnc i f).swaths = d.swaths := rfl
@[simp] theorem Dev.modEnc_ports (i : Fin 4) (f : Enc → Enc) : (d.modEnc i f).ports = d.ports := rfl
@[simp] theorem Dev.modEnc_dma (i : Fin 4) (f : Enc → Enc) : (d.modEnc i f).dma = d.dma := rfl
@[simp] theorem Dev.modEnc_mot (i : Fin 4) (f : Enc → Enc) : (d.modEnc i f).mot = d.mot := rfl
@[simp] theorem Dev.modEnc_flt (i : Fin 4) (f : Enc → Enc) : (d.modEnc i f).flt = d.flt := rfl
@[simp] theorem Dev.modEnc_otp (i : Fin 4) (f : Enc → Enc) : (d.modEnc i f).otp = d.otp := rfl
@[simp] theorem Dev.modEnc_mr (i : Fin 4) (f : Enc → Enc) : (d.modEnc i f).mr = d.mr := rfl
@[simp] theorem Dev.modEnc_pci (i : Fin 4) (f : Enc → Enc) : (d.modEnc i f).pci = d.pci := rfl
@[simp] theorem Dev.modEnc_eth (i : Fin 4) (f : Enc → Enc) : (d.modEnc i f).eth = d.eth := rfl
@[simp] theorem Dev.modEnc_tmx (i : Fin 4) (f : Enc → Enc) : (d.modEnc i f).tmx = d.tmx := rfl
@[simp] theorem Dev.modEnc_dies (i : Fin 4) (f : Enc → Enc) : (d.modEnc i f).dies = d.dies := rfl
@[simp] theorem Dev.modEnc_sent (i : Fin 4) (f : Enc → Enc) : (d.modEnc i f).sent = d.sent := rfl

@[simp] theorem Dev.modCopy_sys (i : Fin 4) (k : Fin 8) (f : EncCopy → EncCopy) : (d.modCopy i k f).sys = d.sys := rfl
@[simp] theorem Dev.modCopy_ses (i : Fin 4) (k : Fin 8) (f : EncCopy → EncCopy) : (d.modCopy i k f).ses = d.ses := rfl
@[simp] theorem Dev.modCopy_ev (i : Fin 4) (k : Fin 8) (f : EncCopy → EncCopy) : (d.modCopy i k f).ev = d.ev := rfl
@[simp] theorem Dev.modCopy_pos (i : Fin 4) (k : Fin 8) (f : EncCopy → EncCopy) :
    (d.modCopy i k f).pos = { d.pos with enc := vmod d.pos.enc i fun e => { e with copies := vmod e.copies k f } } := rfl
@[simp] theorem Dev.modCopy_armed (i : Fin 4) (k : Fin 8) (f : EncCopy → EncCopy) : (d.modCopy i k f).armed = d.armed := rfl
@[simp] theorem Dev.modCopy_activeJob (i : Fin 4) (k : Fin 8) (f : EncCopy → EncCopy) : (d.modCopy i k f).activeJob = d.activeJob := rfl
@[simp] theorem Dev.modCopy_activeSwaths (i : Fin 4) (k : Fin 8) (f : EncCopy → EncCopy) : (d.modCopy i k f).activeSwaths = d.activeSwaths := rfl
@[simp] theorem Dev.modCopy_swaths (i : Fin 4) (k : Fin 8) (f : EncCopy → EncCopy) : (d.modCopy i k f).swaths = d.swaths := rfl
@[simp] theorem Dev.modCopy_ports (i : Fin 4) (k : Fin 8) (f : EncCopy → EncCopy) : (d.modCopy i k f).ports = d.ports := rfl
@[simp] theorem Dev.modCopy_dma (i : Fin 4) (k : Fin 8) (f : EncCopy → EncCopy) : (d.modCopy i k f).dma = d.dma := rfl
@[simp] theorem Dev.modCopy_mot (i : Fin 4) (k : Fin 8) (f : EncCopy → EncCopy) : (d.modCopy i k f).mot = d.mot := rfl
@[simp] theorem Dev.modCopy_flt (i : Fin 4) (k : Fin 8) (f : EncCopy → EncCopy) : (d.modCopy i k f).flt = d.flt := rfl
@[simp] theorem Dev.modCopy_otp (i : Fin 4) (k : Fin 8) (f : EncCopy → EncCopy) : (d.modCopy i k f).otp = d.otp := rfl
@[simp] theorem Dev.modCopy_mr (i : Fin 4) (k : Fin 8) (f : EncCopy → EncCopy) : (d.modCopy i k f).mr = d.mr := rfl
@[simp] theorem Dev.modCopy_pci (i : Fin 4) (k : Fin 8) (f : EncCopy → EncCopy) : (d.modCopy i k f).pci = d.pci := rfl
@[simp] theorem Dev.modCopy_eth (i : Fin 4) (k : Fin 8) (f : EncCopy → EncCopy) : (d.modCopy i k f).eth = d.eth := rfl
@[simp] theorem Dev.modCopy_tmx (i : Fin 4) (k : Fin 8) (f : EncCopy → EncCopy) : (d.modCopy i k f).tmx = d.tmx := rfl
@[simp] theorem Dev.modCopy_dies (i : Fin 4) (k : Fin 8) (f : EncCopy → EncCopy) : (d.modCopy i k f).dies = d.dies := rfl
@[simp] theorem Dev.modCopy_sent (i : Fin 4) (k : Fin 8) (f : EncCopy → EncCopy) : (d.modCopy i k f).sent = d.sent := rfl

@[simp] theorem Dev.modTax_sys (i : Fin 4) (f : Tax → Tax) : (d.modTax i f).sys = d.sys := rfl
@[simp] theorem Dev.modTax_ses (i : Fin 4) (f : Tax → Tax) : (d.modTax i f).ses = d.ses := rfl
@[simp] theorem Dev.modTax_ev (i : Fin 4) (f : Tax → Tax) : (d.modTax i f).ev = d.ev := rfl
@[simp] theorem Dev.modTax_pos (i : Fin 4) (f : Tax → Tax) : (d.modTax i f).pos = d.pos := rfl
@[simp] theorem Dev.modTax_armed (i : Fin 4) (f : Tax → Tax) : (d.modTax i f).armed = d.armed := rfl
@[simp] theorem Dev.modTax_activeJob (i : Fin 4) (f : Tax → Tax) : (d.modTax i f).activeJob = d.activeJob := rfl
@[simp] theorem Dev.modTax_activeSwaths (i : Fin 4) (f : Tax → Tax) : (d.modTax i f).activeSwaths = d.activeSwaths := rfl
@[simp] theorem Dev.modTax_swaths (i : Fin 4) (f : Tax → Tax) : (d.modTax i f).swaths = d.swaths := rfl
@[simp] theorem Dev.modTax_ports (i : Fin 4) (f : Tax → Tax) : (d.modTax i f).ports = d.ports := rfl
@[simp] theorem Dev.modTax_dma (i : Fin 4) (f : Tax → Tax) : (d.modTax i f).dma = d.dma := rfl
@[simp] theorem Dev.modTax_mot (i : Fin 4) (f : Tax → Tax) :
    (d.modTax i f).mot = { d.mot with tax := vmod d.mot.tax i f } := rfl
@[simp] theorem Dev.modTax_flt (i : Fin 4) (f : Tax → Tax) : (d.modTax i f).flt = d.flt := rfl
@[simp] theorem Dev.modTax_otp (i : Fin 4) (f : Tax → Tax) : (d.modTax i f).otp = d.otp := rfl
@[simp] theorem Dev.modTax_mr (i : Fin 4) (f : Tax → Tax) : (d.modTax i f).mr = d.mr := rfl
@[simp] theorem Dev.modTax_pci (i : Fin 4) (f : Tax → Tax) : (d.modTax i f).pci = d.pci := rfl
@[simp] theorem Dev.modTax_eth (i : Fin 4) (f : Tax → Tax) : (d.modTax i f).eth = d.eth := rfl
@[simp] theorem Dev.modTax_tmx (i : Fin 4) (f : Tax → Tax) : (d.modTax i f).tmx = d.tmx := rfl
@[simp] theorem Dev.modTax_dies (i : Fin 4) (f : Tax → Tax) : (d.modTax i f).dies = d.dies := rfl
@[simp] theorem Dev.modTax_sent (i : Fin 4) (f : Tax → Tax) : (d.modTax i f).sent = d.sent := rfl

@[simp] theorem Dev.modAux_sys (i : Fin 8) (f : Aux → Aux) : (d.modAux i f).sys = d.sys := rfl
@[simp] theorem Dev.modAux_ses (i : Fin 8) (f : Aux → Aux) : (d.modAux i f).ses = d.ses := rfl
@[simp] theorem Dev.modAux_ev (i : Fin 8) (f : Aux → Aux) : (d.modAux i f).ev = d.ev := rfl
@[simp] theorem Dev.modAux_pos (i : Fin 8) (f : Aux → Aux) : (d.modAux i f).pos = d.pos := rfl
@[simp] theorem Dev.modAux_armed (i : Fin 8) (f : Aux → Aux) : (d.modAux i f).armed = d.armed := rfl
@[simp] theorem Dev.modAux_activeJob (i : Fin 8) (f : Aux → Aux) : (d.modAux i f).activeJob = d.activeJob := rfl
@[simp] theorem Dev.modAux_activeSwaths (i : Fin 8) (f : Aux → Aux) : (d.modAux i f).activeSwaths = d.activeSwaths := rfl
@[simp] theorem Dev.modAux_swaths (i : Fin 8) (f : Aux → Aux) : (d.modAux i f).swaths = d.swaths := rfl
@[simp] theorem Dev.modAux_ports (i : Fin 8) (f : Aux → Aux) : (d.modAux i f).ports = d.ports := rfl
@[simp] theorem Dev.modAux_dma (i : Fin 8) (f : Aux → Aux) : (d.modAux i f).dma = d.dma := rfl
@[simp] theorem Dev.modAux_mot (i : Fin 8) (f : Aux → Aux) :
    (d.modAux i f).mot = { d.mot with aux := vmod d.mot.aux i f } := rfl
@[simp] theorem Dev.modAux_flt (i : Fin 8) (f : Aux → Aux) : (d.modAux i f).flt = d.flt := rfl
@[simp] theorem Dev.modAux_otp (i : Fin 8) (f : Aux → Aux) : (d.modAux i f).otp = d.otp := rfl
@[simp] theorem Dev.modAux_mr (i : Fin 8) (f : Aux → Aux) : (d.modAux i f).mr = d.mr := rfl
@[simp] theorem Dev.modAux_pci (i : Fin 8) (f : Aux → Aux) : (d.modAux i f).pci = d.pci := rfl
@[simp] theorem Dev.modAux_eth (i : Fin 8) (f : Aux → Aux) : (d.modAux i f).eth = d.eth := rfl
@[simp] theorem Dev.modAux_tmx (i : Fin 8) (f : Aux → Aux) : (d.modAux i f).tmx = d.tmx := rfl
@[simp] theorem Dev.modAux_dies (i : Fin 8) (f : Aux → Aux) : (d.modAux i f).dies = d.dies := rfl
@[simp] theorem Dev.modAux_sent (i : Fin 8) (f : Aux → Aux) : (d.modAux i f).sent = d.sent := rfl

@[simp] theorem Dev.modBus_sys (f : Bus → Bus) : (d.modBus f).sys = d.sys := rfl
@[simp] theorem Dev.modBus_ses (f : Bus → Bus) : (d.modBus f).ses = d.ses := rfl
@[simp] theorem Dev.modBus_ev (f : Bus → Bus) : (d.modBus f).ev = d.ev := rfl
@[simp] theorem Dev.modBus_pos (f : Bus → Bus) : (d.modBus f).pos = d.pos := rfl
@[simp] theorem Dev.modBus_armed (f : Bus → Bus) : (d.modBus f).armed = d.armed := rfl
@[simp] theorem Dev.modBus_activeJob (f : Bus → Bus) : (d.modBus f).activeJob = d.activeJob := rfl
@[simp] theorem Dev.modBus_activeSwaths (f : Bus → Bus) : (d.modBus f).activeSwaths = d.activeSwaths := rfl
@[simp] theorem Dev.modBus_swaths (f : Bus → Bus) : (d.modBus f).swaths = d.swaths := rfl
@[simp] theorem Dev.modBus_ports (f : Bus → Bus) : (d.modBus f).ports = d.ports := rfl
@[simp] theorem Dev.modBus_dma (f : Bus → Bus) : (d.modBus f).dma = d.dma := rfl
@[simp] theorem Dev.modBus_mot (f : Bus → Bus) :
    (d.modBus f).mot = { d.mot with bus := f d.mot.bus } := rfl
@[simp] theorem Dev.modBus_flt (f : Bus → Bus) : (d.modBus f).flt = d.flt := rfl
@[simp] theorem Dev.modBus_otp (f : Bus → Bus) : (d.modBus f).otp = d.otp := rfl
@[simp] theorem Dev.modBus_mr (f : Bus → Bus) : (d.modBus f).mr = d.mr := rfl
@[simp] theorem Dev.modBus_pci (f : Bus → Bus) : (d.modBus f).pci = d.pci := rfl
@[simp] theorem Dev.modBus_eth (f : Bus → Bus) : (d.modBus f).eth = d.eth := rfl
@[simp] theorem Dev.modBus_tmx (f : Bus → Bus) : (d.modBus f).tmx = d.tmx := rfl
@[simp] theorem Dev.modBus_dies (f : Bus → Bus) : (d.modBus f).dies = d.dies := rfl
@[simp] theorem Dev.modBus_sent (f : Bus → Bus) : (d.modBus f).sent = d.sent := rfl

@[simp] theorem Dev.modSrc_sys (id : Nat) (f : Source → Source) : (d.modSrc id f).sys = d.sys := rfl
@[simp] theorem Dev.modSrc_ses (id : Nat) (f : Source → Source) : (d.modSrc id f).ses = d.ses := rfl
@[simp] theorem Dev.modSrc_ev (id : Nat) (f : Source → Source) : (d.modSrc id f).ev = d.ev := rfl
@[simp] theorem Dev.modSrc_pos (id : Nat) (f : Source → Source) : (d.modSrc id f).pos = d.pos := rfl
@[simp] theorem Dev.modSrc_armed (id : Nat) (f : Source → Source) : (d.modSrc id f).armed = d.armed := rfl
@[simp] theorem Dev.modSrc_activeJob (id : Nat) (f : Source → Source) : (d.modSrc id f).activeJob = d.activeJob := rfl
@[simp] theorem Dev.modSrc_activeSwaths (id : Nat) (f : Source → Source) : (d.modSrc id f).activeSwaths = d.activeSwaths := rfl
@[simp] theorem Dev.modSrc_swaths (id : Nat) (f : Source → Source) : (d.modSrc id f).swaths = d.swaths := rfl
@[simp] theorem Dev.modSrc_ports (id : Nat) (f : Source → Source) : (d.modSrc id f).ports = d.ports := rfl
@[simp] theorem Dev.modSrc_dma (id : Nat) (f : Source → Source) : (d.modSrc id f).dma = d.dma := rfl
@[simp] theorem Dev.modSrc_mot (id : Nat) (f : Source → Source) : (d.modSrc id f).mot = d.mot := rfl
@[simp] theorem Dev.modSrc_flt (id : Nat) (f : Source → Source) :
    (d.modSrc id f).flt = { d.flt with src := d.flt.src.modify id f } := rfl
@[simp] theorem Dev.modSrc_otp (id : Nat) (f : Source → Source) : (d.modSrc id f).otp = d.otp := rfl
@[simp] theorem Dev.modSrc_mr (id : Nat) (f : Source → Source) : (d.modSrc id f).mr = d.mr := rfl
@[simp] theorem Dev.modSrc_pci (id : Nat) (f : Source → Source) : (d.modSrc id f).pci = d.pci := rfl
@[simp] theorem Dev.modSrc_eth (id : Nat) (f : Source → Source) : (d.modSrc id f).eth = d.eth := rfl
@[simp] theorem Dev.modSrc_tmx (id : Nat) (f : Source → Source) : (d.modSrc id f).tmx = d.tmx := rfl
@[simp] theorem Dev.modSrc_dies (id : Nat) (f : Source → Source) : (d.modSrc id f).dies = d.dies := rfl
@[simp] theorem Dev.modSrc_sent (id : Nat) (f : Source → Source) : (d.modSrc id f).sent = d.sent := rfl

@[simp] theorem Dev.modSession_sys (id : BitVec 8) (f : Session → Session) : (d.modSession id f).sys = d.sys := rfl
@[simp] theorem Dev.modSession_ses (id : BitVec 8) (f : Session → Session) :
    (d.modSession id f).ses = { d.ses with openS := d.ses.openS.map fun x => if x.id = id then f x else x } := rfl
@[simp] theorem Dev.modSession_ev (id : BitVec 8) (f : Session → Session) : (d.modSession id f).ev = d.ev := rfl
@[simp] theorem Dev.modSession_pos (id : BitVec 8) (f : Session → Session) : (d.modSession id f).pos = d.pos := rfl
@[simp] theorem Dev.modSession_armed (id : BitVec 8) (f : Session → Session) : (d.modSession id f).armed = d.armed := rfl
@[simp] theorem Dev.modSession_activeJob (id : BitVec 8) (f : Session → Session) : (d.modSession id f).activeJob = d.activeJob := rfl
@[simp] theorem Dev.modSession_activeSwaths (id : BitVec 8) (f : Session → Session) : (d.modSession id f).activeSwaths = d.activeSwaths := rfl
@[simp] theorem Dev.modSession_swaths (id : BitVec 8) (f : Session → Session) : (d.modSession id f).swaths = d.swaths := rfl
@[simp] theorem Dev.modSession_ports (id : BitVec 8) (f : Session → Session) : (d.modSession id f).ports = d.ports := rfl
@[simp] theorem Dev.modSession_dma (id : BitVec 8) (f : Session → Session) : (d.modSession id f).dma = d.dma := rfl
@[simp] theorem Dev.modSession_mot (id : BitVec 8) (f : Session → Session) : (d.modSession id f).mot = d.mot := rfl
@[simp] theorem Dev.modSession_flt (id : BitVec 8) (f : Session → Session) : (d.modSession id f).flt = d.flt := rfl
@[simp] theorem Dev.modSession_otp (id : BitVec 8) (f : Session → Session) : (d.modSession id f).otp = d.otp := rfl
@[simp] theorem Dev.modSession_mr (id : BitVec 8) (f : Session → Session) : (d.modSession id f).mr = d.mr := rfl
@[simp] theorem Dev.modSession_pci (id : BitVec 8) (f : Session → Session) : (d.modSession id f).pci = d.pci := rfl
@[simp] theorem Dev.modSession_eth (id : BitVec 8) (f : Session → Session) : (d.modSession id f).eth = d.eth := rfl
@[simp] theorem Dev.modSession_tmx (id : BitVec 8) (f : Session → Session) : (d.modSession id f).tmx = d.tmx := rfl
@[simp] theorem Dev.modSession_dies (id : BitVec 8) (f : Session → Session) : (d.modSession id f).dies = d.dies := rfl
@[simp] theorem Dev.modSession_sent (id : BitVec 8) (f : Session → Session) : (d.modSession id f).sent = d.sent := rfl

@[simp] theorem Dev.modRow_sys (gp : Fin 112) (r : RowId) (f : Row → Row) : (d.modRow gp r f).sys = d.sys := rfl
@[simp] theorem Dev.modRow_ses (gp : Fin 112) (r : RowId) (f : Row → Row) : (d.modRow gp r f).ses = d.ses := rfl
@[simp] theorem Dev.modRow_ev (gp : Fin 112) (r : RowId) (f : Row → Row) : (d.modRow gp r f).ev = d.ev := rfl
@[simp] theorem Dev.modRow_pos (gp : Fin 112) (r : RowId) (f : Row → Row) : (d.modRow gp r f).pos = d.pos := rfl
@[simp] theorem Dev.modRow_armed (gp : Fin 112) (r : RowId) (f : Row → Row) : (d.modRow gp r f).armed = d.armed := rfl
@[simp] theorem Dev.modRow_activeJob (gp : Fin 112) (r : RowId) (f : Row → Row) : (d.modRow gp r f).activeJob = d.activeJob := rfl
@[simp] theorem Dev.modRow_activeSwaths (gp : Fin 112) (r : RowId) (f : Row → Row) : (d.modRow gp r f).activeSwaths = d.activeSwaths := rfl
@[simp] theorem Dev.modRow_swaths (gp : Fin 112) (r : RowId) (f : Row → Row) : (d.modRow gp r f).swaths = d.swaths := rfl
@[simp] theorem Dev.modRow_dma (gp : Fin 112) (r : RowId) (f : Row → Row) : (d.modRow gp r f).dma = d.dma := rfl
@[simp] theorem Dev.modRow_mot (gp : Fin 112) (r : RowId) (f : Row → Row) : (d.modRow gp r f).mot = d.mot := rfl
@[simp] theorem Dev.modRow_flt (gp : Fin 112) (r : RowId) (f : Row → Row) : (d.modRow gp r f).flt = d.flt := rfl
@[simp] theorem Dev.modRow_otp (gp : Fin 112) (r : RowId) (f : Row → Row) : (d.modRow gp r f).otp = d.otp := rfl
@[simp] theorem Dev.modRow_mr (gp : Fin 112) (r : RowId) (f : Row → Row) : (d.modRow gp r f).mr = d.mr := rfl
@[simp] theorem Dev.modRow_pci (gp : Fin 112) (r : RowId) (f : Row → Row) : (d.modRow gp r f).pci = d.pci := rfl
@[simp] theorem Dev.modRow_eth (gp : Fin 112) (r : RowId) (f : Row → Row) : (d.modRow gp r f).eth = d.eth := rfl
@[simp] theorem Dev.modRow_tmx (gp : Fin 112) (r : RowId) (f : Row → Row) : (d.modRow gp r f).tmx = d.tmx := rfl
@[simp] theorem Dev.modRow_dies (gp : Fin 112) (r : RowId) (f : Row → Row) : (d.modRow gp r f).dies = d.dies := rfl
@[simp] theorem Dev.modRow_sent (gp : Fin 112) (r : RowId) (f : Row → Row) : (d.modRow gp r f).sent = d.sent := rfl

@[simp] theorem Dev.emit_sys (e : Emission) : (d.emit e).sys = d.sys := rfl
@[simp] theorem Dev.emit_ses (e : Emission) : (d.emit e).ses = d.ses := rfl
@[simp] theorem Dev.emit_ev (e : Emission) : (d.emit e).ev = d.ev := rfl
@[simp] theorem Dev.emit_pos (e : Emission) : (d.emit e).pos = d.pos := rfl
@[simp] theorem Dev.emit_armed (e : Emission) : (d.emit e).armed = d.armed := rfl
@[simp] theorem Dev.emit_activeJob (e : Emission) : (d.emit e).activeJob = d.activeJob := rfl
@[simp] theorem Dev.emit_activeSwaths (e : Emission) : (d.emit e).activeSwaths = d.activeSwaths := rfl
@[simp] theorem Dev.emit_swaths (e : Emission) : (d.emit e).swaths = d.swaths := rfl
@[simp] theorem Dev.emit_ports (e : Emission) : (d.emit e).ports = d.ports := rfl
@[simp] theorem Dev.emit_dma (e : Emission) : (d.emit e).dma = d.dma := rfl
@[simp] theorem Dev.emit_mot (e : Emission) : (d.emit e).mot = d.mot := rfl
@[simp] theorem Dev.emit_flt (e : Emission) : (d.emit e).flt = d.flt := rfl
@[simp] theorem Dev.emit_otp (e : Emission) : (d.emit e).otp = d.otp := rfl
@[simp] theorem Dev.emit_mr (e : Emission) : (d.emit e).mr = d.mr := rfl
@[simp] theorem Dev.emit_pci (e : Emission) : (d.emit e).pci = d.pci := rfl
@[simp] theorem Dev.emit_eth (e : Emission) : (d.emit e).eth = d.eth := rfl
@[simp] theorem Dev.emit_tmx (e : Emission) : (d.emit e).tmx = d.tmx := rfl
@[simp] theorem Dev.emit_dies (e : Emission) : (d.emit e).dies = d.dies := rfl
@[simp] theorem Dev.emit_sent (e : Emission) :
    (d.emit e).sent = d.sent ++ [e] := rfl

end Sys2Proof.Machine
end

