-- ==== Sys2Proof/Laws/Commands.lean ====
section
/-! SUPPORT. What a command row answers once its packet is ready: the body's result, or the refusal it gives. -/

namespace Sys2Proof.Laws

open Machine

variable {sp : CmdSpec} {p : Packet} {x : Session} {s : State}

/-- The command to execute next has been received. -/
theorem queued_of_taken {d : Dev} (h : d.taken p = true) : d.queued p = true := by
  unfold Dev.taken at h
  split at h
  · next e he =>
    have hp := List.find?_some he
    have hm := List.mem_of_find?_eq_some he
    simp only [Dev.queued, Bool.or_eq_true, List.any_eq_true, Bool.and_eq_true]
    exact .inl ⟨e, hm, h, hp⟩
  · cases h

theorem take_of_ready (h : Judged sp p x s) : s.dev.take p = (s.dev, true) := by
  obtain ⟨h1, h2, h3, _, _, h6, _⟩ := h
  simp only [Dev.take, h1, h2, h3, h6, queued_of_taken h6]
  rfl

theorem packet_of_ready (h : Judged sp p x s) : sp.packet p = p := by
  obtain ⟨_, _, _, h4, h5, _⟩ := h
  simp [CmdSpec.packet, ← h4, ← h5]

theorem judge_of_ready (h : Judged sp p x s) : s.judge sp p x = .ok () := by
  obtain ⟨_, _, _, _, _, _, _, h8, h9, h10, h11⟩ := h
  simp [State.judge, need, h8, h9, h10, h11]
  rfl

/-- A ready command whose body succeeds, its reply within the transport's room. -/
theorem runCmd_ok {α : Type} {body : Ctx → Chk (Dev × α × Finish)} {keep : State → α} {d : Dev} {a : α} {f : Finish}
    (h : Judged sp p x s) (hb : body ⟨s, p, x⟩ = .ok (d, a, f)) (hf : replyFits p x.macRequired f.size = true) :
    runCmd sp body keep p s = (d.finish p f, a) := by
  have h7 := h.2.2.2.2.2.2.1
  simp only [runCmd, packet_of_ready h, take_of_ready h, h7, judge_of_ready h]
  simp [hb, Ctx.fits, hf]

/-- A ready command whose body refuses commits nothing. -/
theorem runCmd_error {α : Type} {body : Ctx → Chk (Dev × α × Finish)} {keep : State → α} {e : Nat × Nat}
    (h : Judged sp p x s) (hb : body ⟨s, p, x⟩ = .error e) :
    runCmd sp body keep p s = (s.dev.answer p e.1 e.2 [], keep s) := by
  have h7 := h.2.2.2.2.2.2.1
  simp only [runCmd, packet_of_ready h, take_of_ready h, h7, judge_of_ready h]
  simp [hb]

theorem cmdDev_ok {body : Ctx → Chk (Dev × Finish)} {d : Dev} {f : Finish}
    (h : Judged sp p x s) (hb : body ⟨s, p, x⟩ = .ok (d, f)) (hf : replyFits p x.macRequired f.size = true) :
    cmdDev sp body p s = d.finish p f := by
  unfold cmdDev
  rw [runCmd_ok (d := d) (a := ()) (f := f) h (by simp [hb]) hf]

theorem cmdMem_ok {body : Ctx → Chk (Dev × Banks × Finish)} {d : Dev} {m : Banks} {f : Finish}
    (h : Judged sp p x s) (hb : body ⟨s, p, x⟩ = .ok (d, m, f)) (hf : replyFits p x.macRequired f.size = true) :
    cmdMem sp body p s = (d.finish p f, m) :=
  runCmd_ok h hb hf

/-- A device command answered ST_OK. -/
theorem onDev_ok {body : Ctx → Chk (Dev × Finish)} {d : Dev} {r : List Byte}
    (h : Judged sp p x s) (hb : body ⟨s, p, x⟩ = .ok (d, .ok r)) (hf : replyFits p x.macRequired r.length = true) :
    onDev (cmdDev sp body p) s = answered s p d r := by
  simp only [onDev, cmdDev_ok h hb hf]
  rfl

/-- A memory command answered ST_OK. -/
theorem onMem_ok {body : Ctx → Chk (Dev × Banks × Finish)} {d : Dev} {m : Banks} {r : List Byte}
    (h : Judged sp p x s) (hb : body ⟨s, p, x⟩ = .ok (d, m, .ok r)) (hf : replyFits p x.macRequired r.length = true) :
    onMem (cmdMem sp body p) s = answered { s with mem := m } p d r := by
  simp only [onMem, cmdMem_ok h hb hf]
  rfl

/-- A device command whose body refuses. -/
theorem onDev_error {body : Ctx → Chk (Dev × Finish)} {code offset : Nat}
    (h : Judged sp p x s) (hb : body ⟨s, p, x⟩ = .error (code, offset)) :
    onDev (cmdDev sp body p) s = refused s p code offset := by
  simp only [onDev, cmdDev]
  rw [runCmd_error (e := (code, offset)) h (by rw [hb]; rfl)]

/-- A memory command whose body refuses. -/
theorem onMem_error {body : Ctx → Chk (Dev × Banks × Finish)} {code offset : Nat}
    (h : Judged sp p x s) (hb : body ⟨s, p, x⟩ = .error (code, offset)) :
    onMem (cmdMem sp body p) s = refused s p code offset := by
  simp only [onMem, cmdMem]
  rw [runCmd_error (e := (code, offset)) h hb]

/-! ## The checks of a body -/

theorem need_of {b : Bool} {c o : Nat} (h : b = true) : need b c o = .ok () := by simp [need, h]

theorem needP_of {b : Bool} {o : Nat} (h : b = true) : needP b o = .ok () := need_of h

theorem needFree_of {b : Bool} (h : b = true) : needFree b = .ok () := need_of h

theorem needRange_of {ps : List Byte} {o n lo hi : Nat} (h : within lo hi (pU ps o n)) :
    needRange ps o n lo hi = .ok () := by
  apply needP_of
  simp [h.1, h.2]

theorem needRangeI_of {ps : List Byte} {o n : Nat} {lo hi : Int} (h : lo ≤ pI ps o n ∧ pI ps o n ≤ hi) :
    needRangeI ps o n lo hi = .ok () := by
  apply needP_of
  simp [h.1, h.2]

theorem needZero_of {ps : List Byte} : ∀ {n o : Nat}, (∀ i < n, ps.getD (o + i) 0 = 0) → needZero ps o n = .ok ()
  | 0, _, _ => rfl
  | n + 1, o, h => by
    have h0 : ps.getD o 0 = 0 := h 0 (by omega)
    simp only [needZero, h0]
    apply needZero_of
    intro i hi
    have := h (i + 1) (by omega)
    rwa [show o + 1 + i = o + (i + 1) by omega]

theorem needP_error {b : Bool} {o : Nat} (h : b = false) : needP b o = .error (stBadParam, 24 + o) := by
  simp [needP, need, h]

theorem needRange_error {ps : List Byte} {o n lo hi : Nat} (h : ¬ within lo hi (pU ps o n)) :
    needRange ps o n lo hi = .error (stBadParam, 24 + o) := by
  simp only [within] at h
  simp [needRange, needP, need, h]

/-- A port, an axis or an encoder channel that the variant lacks is refused at its field (R6, R139). -/
theorem needPort_error {c : Ctx} (h : c.d.hasPort (pU c.ps 0 1) = false) : c.needPort = .error (stBadParam, 24) := by
  simp only [Ctx.needPort]
  by_cases h2 : within 0 111 (pU c.ps 0 1)
  · rw [needRange_of h2, needP_error h]; rfl
  · rw [needRange_error h2]; rfl

theorem needTax_error {c : Ctx} (h : c.d.hasTax = false ∨ 4 ≤ pU c.ps 0 1) : c.needTax = .error (stBadParam, 24) := by
  simp only [Ctx.needTax]
  cases h2 : c.d.hasTax
  · rw [needP_error rfl]; rfl
  · rw [needP_of rfl]
    simp only [h2, Bool.true_eq_false, false_or] at h
    simp only [bind, Except.bind]
    rw [dif_neg (by omega)]; rfl

theorem needAux_error {c : Ctx} (h : c.d.hasAux = false ∨ 8 ≤ pU c.ps 0 1) : c.needAux = .error (stBadParam, 24) := by
  simp only [Ctx.needAux]
  cases h2 : c.d.hasAux
  · rw [needP_error rfl]; rfl
  · rw [needP_of rfl]
    simp only [h2, Bool.true_eq_false, false_or] at h
    simp only [bind, Except.bind]
    rw [dif_neg (by omega)]; rfl

theorem needEnc_error {c : Ctx} (h : 4 ≤ pU c.ps 0 1) : c.needEnc = .error (stBadParam, 24) := by
  simp only [Ctx.needEnc]
  rw [dif_neg (by omega)]; rfl

@[simp] theorem leBytes_length : ∀ n v : Nat, (leBytes n v).length = n
  | 0, _ => rfl
  | n + 1, v => by simp [leBytes, leBytes_length n]

end Sys2Proof.Laws
end

