-- ==== Sys2Proof/Laws/Events.lean ====
section
/-! SUPPORT. What replies and event records leave alone: `stillPart`, the device without the few fields they change. -/

namespace Sys2Proof.Laws

open Machine

variable {d e : Dev}

/-! ## The parts that two such devices share -/

theorem still_sys (h : stillPart d = stillPart e) : d.sys = e.sys :=
  (congrArg Dev.sys h : (stillPart d).sys = (stillPart e).sys)
theorem still_pos (h : stillPart d = stillPart e) : d.pos = e.pos :=
  (congrArg Dev.pos h : (stillPart d).pos = (stillPart e).pos)
theorem still_armed (h : stillPart d = stillPart e) : d.armed = e.armed :=
  (congrArg Dev.armed h : (stillPart d).armed = (stillPart e).armed)
theorem still_swaths (h : stillPart d = stillPart e) : d.swaths = e.swaths :=
  (congrArg Dev.swaths h : (stillPart d).swaths = (stillPart e).swaths)
theorem still_ports (h : stillPart d = stillPart e) : d.ports = e.ports :=
  (congrArg Dev.ports h : (stillPart d).ports = (stillPart e).ports)
theorem still_dma (h : stillPart d = stillPart e) : d.dma = e.dma :=
  (congrArg Dev.dma h : (stillPart d).dma = (stillPart e).dma)
theorem still_mot (h : stillPart d = stillPart e) : d.mot = e.mot :=
  (congrArg Dev.mot h : (stillPart d).mot = (stillPart e).mot)
theorem still_flt (h : stillPart d = stillPart e) : d.flt = e.flt :=
  (congrArg Dev.flt h : (stillPart d).flt = (stillPart e).flt)
theorem still_otp (h : stillPart d = stillPart e) : d.otp = e.otp :=
  (congrArg Dev.otp h : (stillPart d).otp = (stillPart e).otp)
theorem still_mr (h : stillPart d = stillPart e) : d.mr = e.mr :=
  (congrArg Dev.mr h : (stillPart d).mr = (stillPart e).mr)
theorem still_tmx (h : stillPart d = stillPart e) : d.tmx = e.tmx :=
  (congrArg Dev.tmx h : (stillPart d).tmx = (stillPart e).tmx)
theorem still_dies (h : stillPart d = stillPart e) : d.dies = e.dies :=
  (congrArg Dev.dies h : (stillPart d).dies = (stillPart e).dies)
theorem still_power (h : stillPart d = stillPart e) : d.pci.power = e.pci.power :=
  (congrArg (fun x : Dev => x.pci.power) h : (stillPart d).pci.power = (stillPart e).pci.power)

/-! ## Updates of the fields that are left out -/

@[simp] theorem still_emit (x : Emission) : stillPart (d.emit x) = stillPart d := rfl

@[simp] theorem still_modEv (f : Events → Events) : stillPart (d.modEv f) = stillPart d := rfl

@[simp] theorem still_modSession (id : BitVec 8) (f : Session → Session) :
    stillPart (d.modSession id f) = stillPart d := rfl

theorem still_modSes {f : Sessions → Sessions} (h : ∀ t, stillSes (f t) = stillSes t) :
    stillPart (d.modSes f) = stillPart d := by
  simp only [stillPart, Dev.modSes, h]

@[simp] theorem still_raise (v : Nat) : stillPart (d.raise v) = stillPart d := by
  unfold Dev.raise
  split <;> rfl

@[simp] theorem still_datagram (kind : Nat) (v : Via) (r : Reply) : stillPart (d.datagram kind v r) = stillPart d := by
  unfold Dev.datagram
  split
  · split <;> rfl
  · rfl

/-! ## Event records -/

@[simp] theorem still_push (x : Session) (r : EventRecord) : stillPart (d.push x r) = stillPart d := by
  unfold Dev.push
  split
  · exact (still_datagram _ _ _).trans (still_modSession _ _)
  · rfl

theorem still_foldl {α : Type} (f : Dev → α → Dev) (h : ∀ d a, stillPart (f d a) = stillPart d) :
    ∀ (l : List α) (d : Dev), stillPart (l.foldl f d) = stillPart d
  | [], _ => rfl
  | a :: l, d => (still_foldl f h l (f d a)).trans (h d a)

@[simp] theorem still_writeRecord (r : EventRecord) : stillPart (d.writeRecord r) = stillPart d := by
  have h := still_foldl (fun d x => d.push x r) (fun d a => still_push a r)
    (d.ses.openS.filter fun (x : Session) => x.subs.getLsbD r.cls) d
  simp only [Dev.writeRecord]
  split
  · exact h
  · exact h

@[simp] theorem still_drainCounters : ∀ (n : Nat) (d : Dev), stillPart (d.drainCounters n) = stillPart d
  | 0, _ => rfl
  | n + 1, d => by
    unfold Dev.drainCounters
    split
    · rfl
    · split
      · exact (still_drainCounters n _).trans (still_writeRecord _)
      · rfl

@[simp] theorem still_freeEntries : stillPart d.freeEntries = stillPart d :=
  (still_drainCounters _ _).trans rfl

@[simp] theorem still_countEvent (cls : Fin 16) : stillPart (d.countEvent cls) = stillPart d := by
  unfold Dev.countEvent
  extract_lets d1
  split
  · exact still_raise _
  · rfl

@[simp] theorem still_occur (cls : Fin 16) (kind source : Nat) (data : List Byte) :
    stillPart (d.occur cls kind source data) = stillPart d := by
  unfold Dev.occur
  extract_lets seq d2 r same ev2 wide
  have h : stillPart d2 = stillPart d := still_countEvent cls
  split
  · exact h
  · split
    · exact (still_writeRecord _).trans h
    · split
      · exact h
      · split <;> exact h

/-! ## Replies -/

@[simp] theorem still_cqWrite (q : Fin 256) (seq status : Word) (n : Nat) (b : Bool) (bound : BitVec 16)
    (out : RespSlot × BitVec 16) : stillPart (d.cqWrite q seq status n b bound out) = stillPart d :=
  (still_raise _).trans rfl

@[simp] theorem still_idleRun (id : Nat) : stillPart (d.idleRun id) = stillPart d := by
  unfold Dev.idleRun
  split
  · split <;> rfl
  · rfl

@[simp] theorem still_idleStop (id : Nat) : stillPart (d.idleStop id) = stillPart d := by
  unfold Dev.idleStop
  split
  · split <;> rfl
  · rfl

@[simp] theorem still_holdReply (r : Reply) : stillPart (d.holdReply r) = stillPart d := rfl

@[simp] theorem still_deliver (r : Reply) : stillPart (d.deliver r) = stillPart d := by
  unfold Dev.deliver
  split
  · exact still_datagram _ _ _
  · rw [still_cqWrite, still_holdReply, still_emit]
    split
    · exact still_idleStop _
    · rfl
  · rw [still_holdReply]
    refine (still_modSes fun _ => rfl).trans ?_
    split
    · exact still_idleStop _
    · rfl

@[simp] theorem still_answerDups (w : Word) : ∀ (l : List Packet) (d : Dev), stillPart (d.answerDups w l) = stillPart d
  | [], _ => rfl
  | _ :: l, _ => (still_answerDups w l _).trans ((still_deliver _).trans (still_modSession _ _))

/-- A reply changes nothing of the still part. -/
@[simp] theorem still_answer (p : Packet) (code offset : Nat) (ps : List Byte) :
    stillPart (d.answer p code offset ps) = stillPart d := by
  unfold Dev.answer
  extract_lets params w orphan ran own dups r d1 d2 d3
  have h1 : stillPart d1 = stillPart d := by
    clear_value own
    rcases own with _ | x <;> rfl
  have h2 : stillPart d2 = stillPart d := by
    refine (still_modSes fun _ => rfl).trans ?_
    split
    · exact h1
    · exact (still_deliver _).trans h1
  have h3 : stillPart d3 = stillPart d := by
    unfold d3
    split
    · exact h2
    · rw [still_answerDups]
      exact h2
  split
  · exact h3
  · rw [still_idleRun]
    exact h3

/-- What a new mode changes beside the mode itself: the excess that the DMA discipline finds on the channels. -/
theorem setMode_eq (d : Dev) (m : BitVec 4) : ∃ x : Dma, d.setMode m =
    { d.modSys (fun y => { y with mode := Tv.mk3 m, bootStep := 0, changing := false, taken := false }) with dma := x } := by
  simp only [Dev.setMode]
  split
  · exact ⟨_, rfl⟩
  · exact ⟨d.dma, rfl⟩

@[simp] theorem still_enterMode (m : BitVec 4) :
    stillPart (d.enterMode m) = stillPart (d.setMode m) :=
  still_occur _ _ _ _

end Sys2Proof.Laws
end

