-- ==== Sys2Proof/Laws/Memory.lean ====
section
/-! SUPPORT. What the memory operations do: the canonical form is kept, a byte written is read back, every other byte
reads as before. -/

namespace Sys2Proof.Machine

/-- The canonical form, as a proposition. -/
theorem memWf_iff (d : Blank) (m : List Host.Cell) :
    memWf d m = true ↔ m.Pairwise (fun x y => x.1 < y.1) ∧ ∀ c ∈ m, c.2 ≠ d c.1 := by
  simp [memWf]

/-- A byte written is read back. -/
@[simp] theorem memGet_memPut_same (d : Blank) (m : List Host.Cell) (a : Nat) (b : Byte) (h : memWf d m = true) :
    memGet d (memPut d m a b) a = b := by
  induction m with
  | nil => by_cases e : b = d a <;> simp [memPut, memGet, e]
  | cons c r ih =>
    obtain ⟨k, v⟩ := c
    obtain ⟨hp, hn⟩ := (memWf_iff d _).1 h
    have hr : memWf d r = true := (memWf_iff d r).2 ⟨(List.pairwise_cons.1 hp).2, fun c hc => hn c (.tail _ hc)⟩
    simp only [memPut]
    split
    · split <;> simp_all [memGet]
    · split
      · split
        · next ek eb =>
          subst ek eb
          cases r with
          | nil => rfl
          | cons c2 r2 => simp [memGet, (List.pairwise_cons.1 hp).1 c2 (.head _)]
        · simp [memGet]
      · next hk he => simp [memGet, hk, he, ih hr]

/-- Every other byte reads as before. -/
theorem memGet_memPut_other (d : Blank) (m : List Host.Cell) (a x : Nat) (b : Byte) (h : memWf d m = true)
    (hx : x ≠ a) : memGet d (memPut d m a b) x = memGet d m x := by
  induction m with
  | nil => by_cases e : b = d a <;> simp [memPut, memGet, e]; omega
  | cons c r ih =>
    obtain ⟨k, v⟩ := c
    obtain ⟨hp, hn⟩ := (memWf_iff d _).1 h
    have hr : memWf d r = true := (memWf_iff d r).2 ⟨(List.pairwise_cons.1 hp).2, fun c hc => hn c (.tail _ hc)⟩
    simp only [memPut]
    split
    · next hk =>
      split
      · rfl
      · simp only [memGet, if_neg (Ne.symm hx)]; split <;> [(rw [if_pos (by omega)]); rfl]
    · split
      · next hk ek =>
        subst ek
        split
        · simp only [memGet, if_neg (Ne.symm hx)]
          split
          · next hxk =>
            cases r with
            | nil => rfl
            | cons c2 r2 =>
              have := (List.pairwise_cons.1 hp).1 c2 (.head _)
              simp only [memGet]; rw [if_pos (by simp at this; omega)]
          · rfl
        · simp [memGet, Ne.symm hx]
      · simp only [memGet, ih hr]

/-- A write lists no address but its own and those listed before. -/
theorem mem_memPut (d : Blank) (m : List Host.Cell) (a : Nat) (b : Byte) (c : Host.Cell) (h : c ∈ memPut d m a b) :
    (c = (a, b) ∧ b ≠ d a) ∨ c ∈ m := by
  induction m with
  | nil => by_cases e : b = d a <;> simp_all [memPut]
  | cons k r ih =>
    obtain ⟨k, v⟩ := k
    simp only [memPut] at h
    split at h
    · split at h <;> simp_all
    · split at h
      · split at h <;> simp_all
        rcases h with h | h <;> simp [h]
      · rcases List.mem_cons.1 h with h | h
        · simp [h]
        · rcases ih h with h | h <;> simp [h]

/-- A write keeps the canonical form. -/
theorem memWf_memPut (d : Blank) (m : List Host.Cell) (a : Nat) (b : Byte) (h : memWf d m = true) :
    memWf d (memPut d m a b) = true := by
  refine (memWf_iff d _).2 ⟨?_, fun c hc => ?_⟩
  · induction m with
    | nil => by_cases e : b = d a <;> simp [memPut, e]
    | cons c r ih =>
      obtain ⟨k, v⟩ := c
      obtain ⟨hp, hn⟩ := (memWf_iff d _).1 h
      have hr : memWf d r = true := (memWf_iff d r).2 ⟨(List.pairwise_cons.1 hp).2, fun c hc => hn c (.tail _ hc)⟩
      obtain ⟨hk, hp⟩ := List.pairwise_cons.1 hp
      simp only [memPut]
      split
      · next ha =>
        split
        · exact List.pairwise_cons.2 ⟨hk, hp⟩
        · refine List.pairwise_cons.2 ⟨fun y hy => ?_, List.pairwise_cons.2 ⟨hk, hp⟩⟩
          rcases List.mem_cons.1 hy with rfl | hy
          · exact ha
          · have := hk y hy; simp at this ⊢; omega
      · split
        · next ek =>
          split
          · exact hp
          · exact List.pairwise_cons.2 ⟨fun y hy => ek ▸ hk y hy, hp⟩
        · refine List.pairwise_cons.2 ⟨fun y hy => ?_, ih hr⟩
          rcases mem_memPut d r a b y hy with ⟨rfl, -⟩ | hy
          · simp; omega
          · exact hk y hy
  · rcases mem_memPut d m a b c hc with ⟨rfl, h'⟩ | hc
    · exact h'
    · exact ((memWf_iff d m).1 h).2 c hc

/-- So do writes of a list of bytes. -/
theorem memWf_memPuts (d : Blank) (bs : List Byte) : ∀ (m : List Host.Cell) (a : Nat), memWf d m = true →
    memWf d (memPuts d m a bs) = true := by
  induction bs with
  | nil => exact fun _ _ h => h
  | cons b bs ih => exact fun m a h => ih _ _ (memWf_memPut d m a b h)

/-- A byte outside the written range reads as before. -/
theorem memGet_memPuts_other (d : Blank) (bs : List Byte) : ∀ (m : List Host.Cell) (a x : Nat), memWf d m = true →
    x < a ∨ a + bs.length ≤ x → memGet d (memPuts d m a bs) x = memGet d m x := by
  induction bs with
  | nil => exact fun _ _ _ _ _ => rfl
  | cons b bs ih =>
    intro m a x h hx
    simp only [List.length_cons] at hx
    rw [memPuts, ih _ _ _ (memWf_memPut d m a b h) (by omega), memGet_memPut_other d m a x b h (by omega)]

/-- A byte inside it is the byte written there. -/
theorem memGet_memPuts_same (d : Blank) (bs : List Byte) : ∀ (m : List Host.Cell) (a i : Nat), memWf d m = true →
    (h : i < bs.length) → memGet d (memPuts d m a bs) (a + i) = bs[i] := by
  induction bs with
  | nil => intro _ _ _ _ h; simp at h
  | cons b bs ih =>
    intro m a i h hi
    cases i with
    | zero => rw [memPuts, memGet_memPuts_other d bs _ _ _ (memWf_memPut d m a b h) (by omega)]; simp [h]
    | succ i =>
      rw [memPuts, show a + (i + 1) = a + 1 + i by omega, ih _ _ _ (memWf_memPut d m a b h) (by simpa using hi)]
      rfl

@[simp] theorem memGets_length (d : Blank) (m : List Host.Cell) (n : Nat) : ∀ a, (memGets d m a n).length = n := by
  induction n with
  | zero => exact fun _ => rfl
  | succ n ih => exact fun a => by simp [memGets, ih]

/-- The rest of a range read is a range read. -/
theorem memGets_drop (d : Blank) (m : List Host.Cell) (k : Nat) : ∀ a n,
    (memGets d m a n).drop k = memGets d m (a + k) (n - k) := by
  induction k with
  | zero => exact fun _ _ => rfl
  | succ k ih =>
    intro a n
    cases n with
    | zero => simp [memGets]
    | succ n => simp only [memGets, List.drop_succ_cons, ih]; congr 1 <;> omega

/-- The start of a range read is a range read. -/
theorem memGets_take (d : Blank) (m : List Host.Cell) (k : Nat) : ∀ a n,
    (memGets d m a n).take k = memGets d m a (min k n) := by
  induction k with
  | zero => intro a n; simp [memGets]
  | succ k ih =>
    intro a n
    cases n with
    | zero => simp [memGets]
    | succ n => simp only [memGets, List.take_succ_cons, ih, Nat.succ_min_succ]

/-- A range of bytes outside the written one reads as before. -/
theorem memGets_memPuts_other (d : Blank) (bs : List Byte) (m : List Host.Cell) (a : Nat) (h : memWf d m = true)
    (n : Nat) : ∀ x, x + n ≤ a ∨ a + bs.length ≤ x → memGets d (memPuts d m a bs) x n = memGets d m x n := by
  induction n with
  | zero => exact fun _ _ => rfl
  | succ n ih =>
    intro x hx
    rw [memGets, memGets, memGet_memPuts_other d bs m a x h (by omega), ih (x + 1) (by omega)]

/-! ## The two memories -/

theorem Banks.wf_puts (b : Banks) (a : Nat) (vs : List Byte) (h : b.wf = true) : (b.puts a vs).wf = true := by
  simp only [Banks.wf, Bool.and_eq_true] at h ⊢
  exact ⟨memWf_memPuts _ _ _ _ h.1, h.2⟩

theorem Banks.wf_put (b : Banks) (a : Nat) (v : Byte) (h : b.wf = true) : (b.put a v).wf = true :=
  Banks.wf_puts b a [v] h

theorem Banks.wf_cputs (b : Banks) (a : Nat) (vs : List Byte) (h : b.wf = true) : (b.cputs a vs).wf = true := by
  simp only [Banks.wf, Bool.and_eq_true] at h ⊢
  exact ⟨h.1, memWf_memPuts _ _ _ _ h.2⟩

theorem Banks.wf_clear (b : Banks) (p : Nat → Bool) (h : b.wf = true) : (b.clear p).wf = true := by
  simp only [Banks.wf, Bool.and_eq_true] at h ⊢
  obtain ⟨hp, hn⟩ := (memWf_iff _ _).1 h.1
  exact ⟨(memWf_iff _ _).2 ⟨hp.sublist List.filter_sublist, fun c hc => hn c (List.mem_of_mem_filter hc)⟩, h.2⟩

/-- Forgotten bytes read as blank, the others as before. -/
theorem Banks.byte_clear (b : Banks) (p : Nat → Bool) (a : Nat) (h : b.wf = true) :
    (b.clear p).byte a = if p a then winBlank a else b.byte a := by
  obtain ⟨hp, -⟩ := (memWf_iff _ _).1 (by simp only [Banks.wf, Bool.and_eq_true] at h; exact h.1)
  simp only [Banks.byte, Banks.clear]
  revert hp
  generalize b.win = m
  intro hp
  induction m with
  | nil => simp [memGet]
  | cons c r ih =>
    obtain ⟨k, v⟩ := c
    obtain ⟨hk, hp⟩ := List.pairwise_cons.1 hp
    have ih := ih hp
    have out : a < k → memGet winBlank r a = winBlank a := by
      intro ha
      cases r with
      | nil => rfl
      | cons c2 r2 => have := hk c2 (.head _); simp only [memGet]; rw [if_pos (by simp at this; omega)]
    by_cases e : p k
    · rw [List.filter_cons_of_neg (by simp [e]), ih]
      simp only [memGet]
      split
      · rfl
      · split
        · next ha => exact out ha
        · split
          · next hn _ ek => subst ek; exact absurd e hn
          · rfl
    · rw [List.filter_cons_of_pos (by simp [e])]
      simp only [memGet, ih]
      split
      · split <;> rfl
      · split
        · next ek => subst ek; simp [e]
        · rfl

end Sys2Proof.Machine
end

