-- ==== Sys2Proof/Laws/Otp.lean ====
section
/-! SUPPORT. What the operations over the OTP array do: a row burned keeps its 1 bits, every other row stays. -/

namespace Sys2Proof.Laws

open Machine

/-- Rows rise. -/
def Rising (rows : OtpRows) : Prop := rows.Pairwise fun x y => x.1 < y.1

/-- Solid 1 bits of a row stay solid. -/
def Keeps (v w : OtpRow) : Prop := ∀ k, v.ones.getLsbD k = true → w.ones.getLsbD k = true

/-- Solid 1 bits of every row stay solid. -/
def KeepsAll (x y : OtpRows) : Prop := ∀ n, Keeps (otpGet x n) (otpGet y n)

theorem keepsAll_refl (x : OtpRows) : KeepsAll x x := fun _ _ h => h

theorem keepsAll_trans {x y z : OtpRows} (h : KeepsAll x y) (k : KeepsAll y z) : KeepsAll x z :=
  fun n i hi => k n i (h n i hi)

/-- In a rising list every row but the one put reads as before. -/
theorem otpGet_otpPut_other (rows : OtpRows) (n k : Nat) (v : OtpRow) (h : Rising rows) (hk : k ≠ n) :
    otpGet (otpPut rows n v) k = otpGet rows k := by
  induction rows with
  | nil =>
    simp only [otpPut]
    split
    · rfl
    · simp only [otpGet, if_neg (Ne.symm hk)]; split <;> rfl
  | cons c r ih =>
    obtain ⟨j, w⟩ := c
    obtain ⟨hp, hr⟩ := List.pairwise_cons.1 h
    simp only [otpPut]
    split
    · split
      · rfl
      · simp only [otpGet, if_neg (Ne.symm hk)]
        split
        · rw [if_pos (by omega)]
        · rfl
    · split
      · next hj =>
        subst hj
        split
        · simp only [otpGet, if_neg (Ne.symm hk)]
          split
          · cases r with
            | nil => rfl
            | cons c2 r2 => have := hp c2 (.head _); simp only [otpGet]; rw [if_pos (by simp at this; omega)]
          · rfl
        · simp [otpGet, Ne.symm hk]
      · simp only [otpGet, ih hr]

/-- A row put is read back. -/
theorem otpGet_otpPut_same (rows : OtpRows) (n : Nat) (v : OtpRow) (h : Rising rows) :
    otpGet (otpPut rows n v) n = v := by
  induction rows with
  | nil =>
    simp only [otpPut]
    split
    · next e => exact e.symm
    · simp [otpGet]
  | cons c r ih =>
    obtain ⟨j, w⟩ := c
    obtain ⟨hp, hr⟩ := List.pairwise_cons.1 h
    simp only [otpPut]
    split
    · split <;> simp_all [otpGet]
    · split
      · split
        · next hj ev =>
          subst hj ev
          cases r with
          | nil => rfl
          | cons c2 r2 => simp [otpGet, hp c2 (.head _)]
        · simp [otpGet]
      · next hn he => simp [otpGet, hn, he, ih hr]

/-- Burning keeps the row's solid bits. -/
theorem keeps_burn (w : OtpRow) (data : DWord) (b : Burn) : Keeps w (w.burn data b) := by
  intro k h
  simp [OtpRow.burn, h]

/-- Burning adds to the row burned and leaves every other row as it was. -/
theorem keepsAll_burn (rows : OtpRows) (n : Nat) (data : DWord) (b : Burn) :
    KeepsAll rows (otpBurn rows n data b) := by
  intro k i hi
  suffices h : ∀ (r : OtpRows) (v : OtpRow), Keeps (otpGet r n) v → Keeps (otpGet r k) (otpGet (otpPut r n v) k) from
    h rows _ (keeps_burn _ _ _) i hi
  clear hi i
  intro r
  induction r with
  | nil => intro v _ i hi; simp [otpGet] at hi
  | cons c r ih =>
    obtain ⟨j, w⟩ := c
    intro v hv
    simp only [otpPut]
    split
    · next hn =>
      split
      · exact fun _ h => h
      · intro i hi
        simp only [otpGet] at hi hv ⊢
        split
        · rw [if_pos (by omega)] at hi; simp at hi
        · split
          · next e => subst e; rw [if_pos hn] at hi; simp at hi
          · exact hi
    · split
      · next hn e =>
        subst e
        simp only [otpGet, lt_irrefl, if_false, if_true] at hv
        split
        · next ev =>
          intro i hi
          simp only [otpGet] at hi
          split at hi
          · simp at hi
          · split at hi
            · have := hv i hi; simp [ev] at this
            · exact hi
        · intro i hi
          simp only [otpGet] at hi ⊢
          split
          · next hk => rw [if_pos hk] at hi; simp at hi
          · next hk =>
            rw [if_neg hk] at hi
            split
            · next e => rw [if_pos e] at hi; exact hv i hi
            · next e => rwa [if_neg e] at hi
      · next hn he =>
        have ih := ih v (by simpa [otpGet, hn, he] using hv)
        intro i hi
        simp only [otpGet] at hi ⊢
        split
        · next hk => rw [if_pos hk] at hi; simp at hi
        · next hk =>
          rw [if_neg hk] at hi
          split
          · next e => rwa [if_pos e] at hi
          · next e => rw [if_neg e] at hi; exact ih i hi

theorem keepsAll_entryBurn (rows : OtpRows) (r : Region) (e v : Nat) : KeepsAll rows (otpEntryBurn rows r e v) :=
  keepsAll_trans (keepsAll_burn _ _ _ _) (keepsAll_burn _ _ _ _)

theorem keepsAll_spares (r : Region) (row : Nat) (data : DWord) (es : List Nat) :
    ∀ (rows : OtpRows) (bs : List Burn), KeepsAll rows (otpSpares r row data rows es bs).1 := by
  induction es with
  | nil => exact fun rows _ => keepsAll_refl rows
  | cons e es ih =>
    intro rows bs
    simp only [otpSpares]
    split
    · exact keepsAll_trans (keepsAll_burn _ _ _ _) (keepsAll_entryBurn _ _ _ _)
    · exact keepsAll_trans (keepsAll_trans (keepsAll_burn _ _ _ _) (keepsAll_entryBurn _ _ _ _)) (ih _ _)

/-- A program request clears no solid bit of the array. -/
theorem keepsAll_programRow (rows : OtpRows) (row : Nat) (data : DWord) (burns : List Burn) (copyB : Burn) :
    KeepsAll rows (otpProgramRow rows row data burns copyB).1 := by
  unfold otpProgramRow
  extract_lets t second held rows1 rows2 good
  have h2 : KeepsAll rows rows2 := by
    refine keepsAll_trans (keepsAll_burn rows t.1 data (burns.headD wholeBurn)) ?_
    show KeepsAll rows1 rows2
    clear_value rows1 second
    rcases second with _ | k
    · exact keepsAll_refl _
    · exact keepsAll_burn _ _ _ _
  split
  · exact keepsAll_refl _
  · split
    · exact h2
    · split
      · exact h2
      · refine keepsAll_trans (keepsAll_trans h2 ?_) (keepsAll_spares _ _ _ _ _ _)
        split
        · exact keepsAll_entryBurn _ _ _ _
        · exact keepsAll_refl _

theorem keepsAll_burnAll (ks : List (Nat × DWord)) :
    ∀ (rows : OtpRows) (bs : List Burn), KeepsAll rows (burnAll rows ks bs).1 := by
  induction ks with
  | nil => exact fun rows _ => keepsAll_refl rows
  | cons k ks ih =>
    intro rows bs
    simp only [burnAll]
    split
    · exact keepsAll_trans (keepsAll_burn _ _ _ _) (ih _ _)
    · exact keepsAll_burn _ _ _ _

/-- A finalise request clears no solid bit of the array. -/
theorem keepsAll_finaliseRun (rows : OtpRows) (r : Region) (count : Word) (digest : List Byte) (burns : List Burn) :
    KeepsAll rows (finaliseRun rows r count digest burns).1 := by
  unfold finaliseRun
  split_ifs <;> first | exact keepsAll_refl _ | exact keepsAll_burnAll _ _ _

end Sys2Proof.Laws
end

