-- ==== Sys2Proof/Laws/Shapes.lean ====
section
/-! SUPPORT. What each shape of a meaning can do: `onDev` changes the device alone, `onMem` the memory too, `onAll` also
the OTP array; none changes the queue. -/

namespace Sys2Proof.Laws

open Machine

variable {s t : State}

theorem onDev_next {f : State → Dev} (h : onDev f s = .next t) :
    t.dev = f s ∧ t.mem = s.mem ∧ t.rows = s.rows ∧ t.pending = s.pending := by
  cases h
  exact ⟨rfl, rfl, rfl, rfl⟩

theorem onMem_next {f : State → Dev × Banks} (h : onMem f s = .next t) :
    t.dev = (f s).1 ∧ t.mem = (f s).2 ∧ t.rows = s.rows ∧ t.pending = s.pending := by
  cases h
  exact ⟨rfl, rfl, rfl, rfl⟩

theorem onAll_next {f : State → Dev × Banks × List (Nat × OtpRow)} (h : onAll f s = .next t) :
    t.dev = (f s).1 ∧ t.mem = (f s).2.1 ∧ t.rows = (f s).2.2 ∧ t.pending = s.pending := by
  cases h
  exact ⟨rfl, rfl, rfl, rfl⟩

theorem onDev_answers (f : State → Dev) (s : State) : ∃ t, onDev f s = .next t := ⟨_, rfl⟩
theorem onMem_answers (f : State → Dev × Banks) (s : State) : ∃ t, onMem f s = .next t := ⟨_, rfl⟩
theorem onAll_answers (f : State → Dev × Banks × List (Nat × OtpRow)) (s : State) : ∃ t, onAll f s = .next t := ⟨_, rfl⟩

end Sys2Proof.Laws
end

