-- ==== Sys2Proof/Laws/Windows.lean ====
section
/-! SUPPORT. Every operation that writes a memory window or the job cache keeps the canonical form of memory. -/

namespace Sys2Proof.Laws

open Machine

theorem wf_windowWrite (d : Dev) (m : Banks) (a v : Nat) (be : BitVec 4) (h : m.wf = true) :
    (windowWrite d m a v be).2.wf = true := by
  unfold windowWrite
  split
  · exact h
  · split
    · exact h
    · exact h
    · split
      · exact h
      · exact Banks.wf_puts _ _ _ h

theorem wf_windowStore (ws : List (Word × BitVec 4)) : ∀ (x : Dev × Banks) (a : Nat), x.2.wf = true →
    (windowStore x a ws).2.wf = true := by
  induction ws with
  | nil => exact fun _ _ h => h
  | cons w ws ih => exact fun x a h => ih _ _ (wf_windowWrite _ _ _ _ _ h)

theorem wf_putRange (d : Dev) (m : Banks) (a : Nat) (bs : List Byte) (h : m.wf = true) :
    (putRange d m a bs).2.wf = true := Banks.wf_puts _ _ _ h

theorem wf_mapEdits (gp op value : Nat) (ns : List Nat) : ∀ x : Dev × Banks, x.2.wf = true →
    (mapEdits gp op value x ns).2.wf = true := by
  induction ns with
  | nil => exact fun _ h => h
  | cons n ns ih => exact fun x h => ih _ (wf_putRange _ _ _ _ h)

theorem wf_effect (rows : OtpRows) (x : Posted) (d : Dev) (m : Banks) (h : m.wf = true) :
    (x.effect rows d m).2.wf = true := by
  unfold Posted.effect
  split
  · split
    · split_ifs <;> exact h
    · exact h
  · exact wf_windowStore _ _ _ h

theorem wf_postedFirst (rows : OtpRows) (p : Posted → Bool) (d : Dev) (m : Banks) (h : m.wf = true) :
    (postedFirst rows p d m).2.wf = true := by
  unfold postedFirst
  split
  · exact h
  · exact wf_effect _ _ _ _ h

theorem wf_blockEffect (rows : OtpRows) (b : Block) (d : Dev) (m : Banks) (h : m.wf = true) :
    (blockEffect rows b d m).2.wf = true := by
  unfold blockEffect
  split
  · exact h
  · exact wf_postedFirst _ _ _ _ h

theorem wf_postedAll (rows : OtpRows) (p : Posted → Bool) (n : Nat) : ∀ (d : Dev) (m : Banks), m.wf = true →
    (postedAll rows p n d m).2.wf = true := by
  induction n with
  | zero => exact fun _ _ h => h
  | succ n ih => exact fun d m h => ih _ _ (wf_postedFirst _ _ _ _ h)

theorem wf_settle (rows : OtpRows) (p : Posted → Bool) (d : Dev) (m : Banks) (h : m.wf = true) :
    (settle rows p d m).2.wf = true := wf_postedAll _ _ _ _ _ h

theorem wf_accept (rows : OtpRows) (wait : Bool) (x : Posted) (d : Dev) (m : Banks) (h : m.wf = true) :
    (accept rows wait x d m).2.wf = true := by
  unfold accept
  split
  · exact wf_effect _ _ _ _ h
  · exact h

theorem wf_regWrite (rows : OtpRows) (w : Master) (priv wait : Bool) (d : Dev) (m : Banks) (a v : Nat)
    (h : m.wf = true) : (regWrite rows w priv wait d m a v).2.wf = true := by
  unfold regWrite
  split
  · exact h
  · split
    · exact h
    · split
      · split <;> exact h
      · split
        · exact h
        · extract_lets x
          have hx : x.2.wf = true := by
            unfold x
            split
            · exact wf_settle _ _ _ _ h
            · exact h
          split_ifs
          · exact hx
          · exact hx
          · exact wf_accept _ _ _ _ _ hx

theorem wf_windowPost (rows : OtpRows) (w : Master) (priv wait : Bool) (d : Dev) (m : Banks) (a : Nat)
    (ws : List (Word × BitVec 4)) (h : m.wf = true) : (windowPost rows w priv wait d m a ws).2.wf = true := by
  unfold windowPost
  split
  · exact h
  · split
    · exact wf_windowStore _ _ _ h
    · split_ifs
      · exact wf_windowStore _ _ _ h
      · exact h
      · exact wf_accept _ _ _ _ _ (wf_settle _ _ _ _ h)
      · exact wf_accept _ _ _ _ _ h

theorem wf_bitWrite (rows : OtpRows) (w : Master) (priv wait : Bool) (d : Dev) (m : Banks) (a bit v : Nat)
    (h : m.wf = true) : (bitWrite rows w priv wait d m a bit v).2.wf = true := by
  unfold bitWrite
  split
  · exact h
  · split_ifs
    · exact h
    · exact h
    · exact h
    · exact wf_regWrite _ _ _ _ _ _ _ _ (wf_settle _ _ _ _ h)
    · exact wf_regWrite _ _ _ _ _ _ _ _ (wf_settle _ _ _ _ h)

theorem wf_busWrite (rows : OtpRows) (w : Master) (priv wait : Bool) (d : Dev) (m : Banks) (a v : Nat)
    (be : BitVec 4) (h : m.wf = true) : (busWrite rows w priv wait d m a v be).2.wf = true := by
  unfold busWrite
  split
  · exact wf_windowPost _ _ _ _ _ _ _ _ h
  · split
    · exact h
    · exact wf_regWrite _ _ _ _ _ _ _ _ h
  · split
    · exact h
    · exact wf_bitWrite _ _ _ _ _ _ _ _ _ h

theorem wf_busWrites (rows : OtpRows) (priv : Bool) (ps : List (Nat × Nat)) : ∀ x : Dev × Banks, x.2.wf = true →
    (busWrites rows priv x ps).2.wf = true := by
  induction ps with
  | nil => exact fun _ h => h
  | cons p ps ih => exact fun x h => ih _ (wf_busWrite _ _ _ _ _ _ _ _ _ h)

theorem wf_writeWords (rows : OtpRows) (priv : Bool) (d : Dev) (m : Banks) (ws : List (Nat × Nat)) (h : m.wf = true) :
    (writeWords rows priv d m ws).2.1.wf = true := by
  unfold writeWords
  split
  · exact h
  · exact wf_busWrites _ _ _ _ h

theorem wf_busRead (rows : OtpRows) (w : Master) (priv : Bool) (d : Dev) (m : Banks) (a : Nat) (h : m.wf = true) :
    (busRead rows w priv d m a).2.1.wf = true := by
  unfold busRead
  split
  · exact h
  · split <;> exact wf_settle _ _ _ _ h

theorem wf_busReads (rows : OtpRows) (w : Master) (priv : Bool) (n : Nat) : ∀ (d : Dev) (m : Banks) (a : Nat),
    m.wf = true → (busReads rows w priv n d m a).2.1.wf = true := by
  induction n with
  | zero => exact fun _ _ _ h => h
  | succ n ih => exact fun d m a h => ih _ _ _ (wf_busRead _ _ _ _ _ _ h)

theorem wf_writeBeat (d : Dev) (m : Banks) (c : Fin 32) (b : Beat) (h : m.wf = true) : (d.writeBeat m c b).2.wf = true := by
  have put : ∀ d : Dev, (Dev.writeBeat.put c d m b).2.wf = true := by
    intro d
    unfold Dev.writeBeat.put
    split
    · unfold Dev.writeLine
      extract_lets mine a d2
      split
      · exact Banks.wf_puts _ _ _ h
      · exact h
    · exact wf_windowStore _ _ _ h
    · exact Banks.wf_cputs _ _ _ h
    · extract_lets down d2
      split <;> exact h
  unfold Dev.writeBeat
  split
  · split
    · split
      · exact h
      · exact put _
    · exact h
  · exact put _

theorem wf_fallow (rows : OtpRows) (d : Dev) (m : Banks) (h : m.wf = true) : (d.fallow rows m).2.wf = true :=
  Banks.wf_clear _ _ (wf_settle _ _ _ _ h)

/-- A byte that `putRange` does not name reads as before. -/
theorem byte_putRange (d : Dev) (m : Banks) (a x : Nat) (bs : List Byte) (h : m.wf = true)
    (hx : x < a ∨ a + bs.length ≤ x) : (putRange d m a bs).2.byte x = m.byte x := by
  simp only [Banks.wf, Bool.and_eq_true] at h
  unfold putRange
  extract_lets n d1 d2 head z tail drop d3 d4
  have hh : head ≤ bs.length := by
    simp only [head, n]
    split
    · exact Nat.min_le_left _ _
    · exact Nat.zero_le _
  refine memGet_memPuts_other _ _ _ _ _ h.1 ?_
  simp only [List.length_take, List.length_drop]
  omega

end Sys2Proof.Laws
end

