-- ==== Sys2Proof/Tests/Slice0.lean ====
section
/-! SUPPORT. The author's own tests: ill-formed commands that WellFormed refuses, words of the spec's tables and its
worked examples, and for every statement with hypotheses a state and operands that meet them. -/

-- One test at a time: the many evaluations at once would each take a thread.
set_option Elab.async false

namespace Sys2Proof.Tests

open Sys2Proof Sys2Proof.Machine

/-! ## Small states -/

/-- A command packet of session 1 over SPI. -/
def pk (opcode variant : Byte) (ps : List Byte) : Packet :=
  { via := .spi, epoch := 0, replyLen := 4096, replyAddr := 0, version := 8, flags := 0, session := 1, seq := 1
    opcode, variant, length := BitVec.ofNat 16 ps.length, status := 0, tag := 0, payload := ps, crc := 0 }

/-- Session 1, a VENDOR's, over SPI. -/
def ses1 : Session := { noSession (pk 0 0 []) with id := 1, role := rVendor, credits := 16, expectedSeq := 2 }

/-- A part with seven furrow dies and every motor, in a mode, that holds session 1. -/
def part (m : BitVec 4) : Dev :=
  { Dev.reset with
    sys := { Dev.reset.sys with held := false, porstN := true, mode := Tv.mk3 m }
    ses := { resetSessions with running := true, openS := [ses1] }
    otp := { Dev.reset.otp with feat := Tv.mk3 375, debugOpen := true }
    pci := { Dev.reset.pci with perst := true } }

/-- A state of that part, its device changed by `f`. -/
def st (m : BitVec 4) (f : Dev → Dev := id) : State := { State.reset with dev := f (part m) }

/-- The same with a packet in the work queue. -/
def at' (m : BitVec 4) (p : Packet) (f : Dev → Dev := id) : State :=
  st m fun d => f (d.modSes fun t => { t with work := [{ packet := p }] })

/-! ## Ill-formed commands, which WellFormed refuses -/

/-- The packet of a DEVICE_INFO. -/
def info : Packet := pk 0x12 0 []

theorem test_wf_accepts : (Instr.deviceInfo info).wf = true ∧ (Instr.eventRead (pk 0xE1 0 [1, 0])).wf = true := by
  decide +kernel

theorem test_wf_packet :
    (Instr.deviceStatus info).wf = false                                    -- another opcode
      ∧ (Instr.deviceInfo { info with variant := 1 }).wf = false
      ∧ (Instr.deviceInfo { info with version := 7 }).wf = false
      ∧ (Instr.deviceInfo { info with flags := 1 }).wf = false
      ∧ (Instr.deviceInfo { info with session := 256 }).wf = false
      ∧ (Instr.deviceInfo { info with length := 1 }).wf = false
      ∧ (Instr.deviceInfo { info with flags := 2 }).wf = false               -- Mac, and no 16 bytes for it
      ∧ (Instr.deviceInfo (pk 0x12 0 (List.replicate 4069 0))).wf = false    -- 4,097 bytes
      ∧ (Instr.deviceInfo { pk 0x12 0 (List.replicate 1413 0) with via := .udp 1 1 }).wf = false
      ∧ (Instr.deviceInfo { info with epoch := 1 }).wf = false := by         -- an epoch without UDP
  decide +kernel

/-- What a cold start shows when nothing fails. -/
def coldC : ColdStart :=
  { mgmtSec := false, hostIf := 0, packageP65 := false, orderBroken := false, bistFail := [], tineFail := [], patch := none
    patchRejected := false, cache0 := 0, cache1 := 0, epoch := 7 }

theorem test_wf_starts :
    (Instr.coldStart coldC).wf = true
      ∧ (Instr.coldStart { coldC with bistFail := [1, 1] }).wf = false
      ∧ (Instr.coldStart { coldC with tineFail := [2, 2] }).wf = false
      ∧ (Instr.railsInRange { coldC with tineFail := [0] }).wf = false
      ∧ (Instr.headPwrWait [(1, 0), (0, 0)]).wf = false
      ∧ (Instr.warmStart { shadowOk := true, linksDown := [], patch := none, patchRejected := false
                           ids := [(5, 0), (5, 0)] }).wf = false
      ∧ (Instr.fallowWake 0).wf = false
      ∧ (Instr.paceWindow (Vector.replicate 8 4097)).wf = false := by
  decide +kernel

theorem test_wf_transports :
    (Instr.sqFetch 0 { packetAddr := 0, packetLen := 2, replyLen := 0, replyAddr := 0 } [1]).wf = false
      ∧ (Instr.spiRegRead 2).wf = false ∧ (Instr.spiRegWrite 1 0).wf = false
      ∧ (Instr.provisionalIdExpiry 0).wf = false ∧ (Instr.sessionIdleTimeout 0).wf = false := by
  decide +kernel

theorem test_wf_registers :
    (Instr.latchingRegisterRead .pf0 { address := { offset := 1 }, words := 0 }).wf = false ∧ (Instr.aliasWrite .pf0 2 0 15).wf = false
      ∧ (Instr.bitAliasWrite .pf0 1 0).wf = false ∧ (Instr.registerWrite .pf0 { offset := 6 } 0 15).wf = false
      ∧ (Instr.memoryWindowWrite .pf0 2 [(0, 15)]).wf = false ∧ (Instr.memoryWindowWrite .pf0 0 []).wf = false := by
  decide +kernel

theorem test_wf_events :
    (Instr.snapshotStrobe [(1, 2), (1, 2)]).wf = false
      ∧ (Instr.dmaReadCompletion ⟨0, 0⟩ (.data (List.replicate 4097 0) 0)).wf = false
      ∧ (Instr.faultDetection 704).wf = false ∧ (Instr.faultCauseGone 704).wf = false
      ∧ (Instr.patrolScrub 0 0 2 .clean).wf = false
      ∧ (Instr.pcieLinkChange 6 1).wf = false ∧ (Instr.pcieLinkChange 1 17).wf = false := by
  decide +kernel

/-- No row of the opcode table gives bits. -/
theorem test_no_word_decodes : decodeTableWord 32 0x12 = none := rfl

/-! ## The spec's worked examples -/

/-- R433's: the aliases of FLT_GPIO bit 3 and of FRW_FLTCFG bit 5 of F2. -/
theorem test_bit_alias :
    placeOf 0xFC010C = .bitAlias 0xE008 3 ∧ placeOf 0x03E00914 = .bitAlias 0x03000048 5 := by
  decide +kernel

/-- R438's, for gp 55. -/
theorem test_die_blocks :
    portReg 0x20000 55 0 = 0x04020700 ∧ portReg 0x10000 55 0x14 = 0x04010714 ∧ mapAddr 55 5000 = 0x04B1D388
      ∧ lineAddr 55 1000 = 0x045F1000 := by
  decide +kernel

/-- Section 12's: codes 1,354, 1,500 and 15,400. -/
theorem test_raw_values : rawOf 1354 = 620 ∧ rawOf 1500 = 687 ∧ rawOf 15400 = 0xFFFF := by decide +kernel

/-- Table 10.3: the pattern 0 1 1 0, column step 1; 0 is row A. -/
theorem test_share_example :
    (List.range 4).map (fun line => (List.range 4).map fun col => sharePattern (List.replicate 16 0x14) ((line + col) % 64))
      = [[0, 1, 1, 0], [1, 1, 0, 0], [1, 0, 0, 1], [0, 0, 1, 1]] := by
  decide +kernel

/-- Section 9's: fluid 4 and fluid 1 of the pixel 0x034B. -/
theorem test_plane_split :
    (∀ y ∈ [((4 : Nat), (3 : Nat)), (1, 2)],
      splitLevels { op := 1, xform := 1, flags := 0, split := BitVec.ofNat 8 (y.1 + 8 * 5), count := 1, srcA := 0, srcB := 0
                    strideA := 0, strideB := 0 } 1 [0x4B, 0x03] = [y.2]) := by
  decide +kernel

/-- Section 11's: code 6,456 under the reference head's table. -/
theorem test_tsn_conversion :
    Heat.convert { tsnTab := ((Vector.replicate 17 0).set 6 325).set 7 812 } 6456 = 473 := by
  decide +kernel

/-- Section 13's: WrapSeq 3 and Count 0x8000_0010, and a position 32 counts behind. -/
theorem test_extended_position :
    extPos 3 0x80000010 = 10737418256 ∧ after 0x7FFFFFF0 0x80000010 = false ∧ (0x80000010 - 0x7FFFFFF0 : Word) = 32 := by
  decide +kernel

/-- Section 18's: EVENT_ACK 41 against the numbers 41 and 42. -/
theorem test_event_ack : after 41 41 = false ∧ after 41 42 = false ∧ after 43 42 = true := by decide +kernel

/-- Section 5's: 400 words over UDP do not fit a reply, 353 do. -/
theorem test_udp_reply :
    replyFits { info with via := .udp 0 0 } false (4 * 400) = false
      ∧ replyFits { info with via := .udp 0 0 } false (4 * 353) = true := by
  decide +kernel

/-- Section 6's: the parameters of a JOB_SWITCH. -/
theorem test_job_switch_parameters :
    let p := pk 0x43 0 [0x0C, 0x00, 0x03, 0x00, 0xA0, 0x86, 0x01, 0x00]
    par p 0 1 = 12 ∧ par p 1 1 = 0 ∧ par p 2 1 = 3 ∧ par p 4 4 = 100000 ∧ pktBytesReceived p = 36 := by
  decide +kernel

/-- The check value of CRC-32C, and SHA-256 of "abc" (FIPS 180-4). -/
theorem test_crypto :
    crc32c [0x31, 0x32, 0x33, 0x34, 0x35, 0x36, 0x37, 0x38, 0x39] = 0xE3069283
      ∧ (sha256 [0x61, 0x62, 0x63]).take 4 = [0xBA, 0x78, 0x16, 0xBF] := by
  decide +kernel

/-! ## Witnesses: sessions, events, modes -/

/-- Slot 0 usable, with MaxRole 2. -/
def keyRows : OtpRows := [(128, { ones := 5 }), (160, { ones := 0x0A })]

/-- A packet of the pre-session. -/
def pre (p : Packet) : Packet := { p with session := 0 }

def pChal : Packet := pre (pk 0 0 (List.replicate 20 0))

theorem witness_challenge :
    let s := { at' mReady pChal with rows := keyRows }
    Ready specOpenChallenge pChal (noSession pChal) s ∧ par pChal 0 1 ≤ slotMaxRole s.rows (par pChal 1 1)
      ∧ s.dev.slotUsable s.rows (par pChal 1 1) = true ∧ s.dev.ses.lockout.getLsbD 0 = false
      ∧ s.dev.ses.freeIds ≠ [] ∧ s.dev.ses.prov.length < 32 ∧ s.dev.qpTaken pChal.via = false
      ∧ replyFits pChal false 20 = true := by
  decide +kernel

def prov9 : Provisional :=
  { id := 9, role := 1, slot := 0, via := .spi, macRequired := false, credits := 16, hostNonce := List.replicate 16 1
    deviceNonce := List.replicate 16 2 }

def pProof : Packet := { pk 0 1 (hmacSha256 (slotKey keyRows 0) (1 :: openMessage prov9)) with session := 9, seq := 0 }

theorem witness_proof :
    let s := { at' mReady pProof (fun d => d.modSes fun t => { t with prov := [prov9] }) with rows := keyRows }
    Ready specOpenProof pProof (noSession pProof) s ∧ s.dev.prov? pProof = some prov9 ∧ replyFits pProof false 36 = true
      ∧ (pktParams pProof).take 32 = hmacSha256 (slotKey s.rows prov9.slot.toNat) (1 :: openMessage prov9) := by
  decide +kernel

theorem witness_sessions :
    Ready specClose (pk 1 0 []) ses1 (at' mReady (pk 1 0 []))
      ∧ (let p := pk 2 0 [0, 0]
        Ready specSessionInfo p ses1 (at' mReady p) ∧ (at' mReady p).dev.session? ses1.id.toNat = some ses1
          ∧ replyFits p ses1.macRequired 16 = true)
      ∧ Ready specGateOpen (pk 4 0 []) ses1 (at' mReady (pk 4 0 []))
      ∧ (let s := at' mReady (pk 4 1 []) fun d => d.modSes fun t => { t with gate := some 1 }
        Ready specGateClose (pk 4 1 []) ses1 s ∧ s.dev.ses.gate = some ses1.id) := by
  decide +kernel

def ev1 : RingEntry :=
  { record := { cls := 0, kind := 0, source := 0, classSeq := 1, ts := 0, count := 1, data := [] }, written := 0
    readers := [1] }

theorem witness_events :
    (let p := pk 0xE0 0 [1, 0, 0, 0];
      Ready specEventSubscribe p ses1 (at' mReady p) ∧ getB 14 (par p 0 2) = false ∧ par p 2 2 = 0
        ∧ replyFits p ses1.macRequired 64 = true)
      ∧ (let p := pk 0xE1 0 [126, 0];
        Ready specEventRead p ses1 (at' mReady p) ∧ within 1 126 (par p 0 2)
          ∧ replyFits p ses1.macRequired (4 + 32 * par p 0 2) = true ∧ ses1.lost = 0)
      ∧ (let p := pk 0xE1 0 [1, 0];
        let x := { ses1 with lost := 3 };
        let s := at' mReady p (fun d => d.modSes fun t => { t with openS := [x] });
        Ready specEventRead p x s ∧ within 1 126 (par p 0 2) ∧ replyFits p x.macRequired (4 + 32 * par p 0 2) = true
          ∧ x.lost ≠ 0)
      ∧ replyFits (pk 0xE1 0 [2, 0]) ses1.macRequired ((eventParams [ev1.record, ev1.record]).length) = true
      ∧ Ready specEventCounters (pk 0xE2 0 []) ses1 (at' mReady (pk 0xE2 0 []))
      ∧ (st mReady fun d => d.modEv fun e => { e with ring := [ev1] }).dev.ev.ring = ev1 :: [] := by
  refine ⟨?_, ?_, ?_, ?_, ?_, ?_⟩ <;> decide +kernel

/-- A swath that prints on port 0, whose row A stands inside a line. -/
def printing (d : Dev) : Dev :=
  (d.modSwath 0 fun w => { w with defined := true, state := 2, portMap := 1 }).modPort 0 fun p =>
    { p with rowA := { p.rowA with firing := true } }

theorem witness_set_mode :
    (∀ m ∈ [2, 3, 4, 5, 7], let p := pk 0x10 0 [m];
      Ready specSetMode p ses1 (at' mReady p) ∧ par p 0 1 ∈ [2, 3, 4, 5, 7] ∧ replyFits p ses1.macRequired 1 = true
        ∧ (at' mReady p).dev.sys.changing = false
        ∧ (∀ e ∈ (at' mReady p).dev.ses.work, e.park ≠ some .modeWait) ∧ (at' mReady p).dev.ses.work.length = 0 + 1)
      ∧ modeListed mReady mPrint = true ∧ modeListed mPrint mService = false
      ∧ (part mReady).modeRole ses1 mReady mPrint = true
      ∧ (part mReady).modeRole { ses1 with role := rObserver } mReady mPrint = false
      ∧ ((part mReady).leaveMode mPrint).rowsStill = true ∧ ((printing (part mPrint)).leaveMode mReady).rowsStill = false := by
  refine ⟨?_, ?_, ?_, ?_, ?_, ?_, ?_⟩ <;> decide +kernel

theorem witness_fallow :
    Ready specEnterFallow (pk 0xD0 0 []) ses1 (at' mReady (pk 0xD0 0 []))
      ∧ (at' mReady (pk 0xD0 0 [])).dev.mayFallow = true
      ∧ (st mFallow).dev.mode = mFallow ∧ (st mFallow).dev.sys.held = false
      ∧ within 1 4 (1 : BitVec 4).toNat ∧ within 1 4 (4 : BitVec 4).toNat
      ∧ (st mFallow).dev.linkOn (.pcie 0) = true ∧ (st mFallow).dev.linkOn (.udp 0 0) = true := by
  decide +kernel

theorem witness_resets :
    (Ready (specReset 0 [mReady, mHalted] rService 0) (pk 0x11 0 []) ses1 (at' mHalted (pk 0x11 0 []))
        ∧ (at' mHalted (pk 0x11 0 [])).dev.axisOn = false)
      ∧ Ready (specReset 1 setN rService 0) (pk 0x11 1 []) ses1 (at' mReady (pk 0x11 1 []))
      ∧ (let p := pk 0x11 2 [111, 0];
        Ready (specReset 2 setO rOperator 2) p ses1 (at' mPrint p) ∧ par p 0 2 = (111 : Fin 112).val
          ∧ (at' mPrint p).dev.hasPort 111 = true ∧ (at' mPrint p).dev.dieResetting 111 = false)
      ∧ (let p := pk 0x11 3 [15, 0];
        Ready (specReset 3 setO rOperator 2) p ses1 (at' mPrint p) ∧ par p 0 2 = (15 : Fin 16).val
          ∧ ∀ gp ∈ (at' mPrint p).dev.swathPorts 15, (at' mPrint p).dev.dieResetting gp = false)
      := by
  refine ⟨?_, ?_, ?_, ?_⟩ <;> decide +kernel

theorem witness_unit_resets :
    (let p := pk 0x11 4 [3, 0];
        Ready (specReset 4 setO rOperator 2) p ses1 (at' mPrint p) ∧ par p 0 2 = (3 : Fin 4).val
          ∧ (at' mPrint p).dev.hasTax = true)
      ∧ (let p := pk 0x11 5 [7, 0];
        Ready (specReset 5 setO rOperator 2) p ses1 (at' mPrint p) ∧ par p 0 2 = (7 : Fin 8).val
          ∧ (at' mPrint p).dev.hasAux = true)
      ∧ (let p := pk 0x11 6 [1, 0];
        Ready specResetSession p ses1 (at' mPrint p) ∧ within 1 255 (par p 0 2)
          ∧ (at' mPrint p).dev.session? (par p 0 2) = some ses1)
      ∧ (let p := pk 0x11 7 [6, 0];
        Ready (specReset 7 setO rService 2) p ses1 (at' mPrint p) ∧ par p 0 2 = (6 : Fin 7).val
          ∧ (at' mPrint p).dev.hasDie 6 = true ∧ (at' mPrint p).dev.dies[6].resetting = false) := by
  refine ⟨?_, ?_, ?_, ?_⟩ <;> decide +kernel

/-! ## Witnesses: registers and memory -/

theorem witness_words :
    (let p := pk 0x20 0 [0xFC, 0xFF, 0xFF, 0x07, 1, 0, 0, 0];
      Ready specReadWords p ses1 (at' mReady p) ∧ par p 0 4 = 0x07FFFFFC ∧ par p 4 2 = 1 ∧ reservedZero p 6 2
        ∧ (∀ i < 1, (at' mReady p).dev.absentAt (0x07FFFFFC + 4 * i) = false)
        ∧ replyFits p ses1.macRequired (4 * 1) = true)
      ∧ (let p := pk 0x21 0 [1, 0, 0, 0, 0x40, 0x11, 0, 0, 5, 0, 0, 0];
        Ready specWritePairs p ses1 (at' mReady p) ∧ within 1 507 (par p 0 2) ∧ reservedZero p 2 2
          ∧ ∀ y ∈ pairsAt (pktParams p) 4 (par p 0 2), y.2.1 ≤ 0x07FFFFFC ∧ y.2.1 % 4 = 0 ∧ (at' mReady p).dev.absentAt y.2.1 = false
            ∧ (at' mReady p).dev.noReserved y.2.1 y.2.2 = true ∧ (at' mReady p).dev.otpHolds y.2.1 = false)
      ∧ (let p := pk 0x21 0 [1, 0, 0, 0, 0, 0xF0, 0, 0, 1, 0, 0, 0];
        let s := at' mReady p fun d => d.modOtp fun o => { o with queue := [.program 4095 0 true] };
        Ready specWritePairs p ses1 s ∧ pairsAt (pktParams p) 4 (par p 0 2) = [(4, 0xF000, 1)]
          ∧ s.dev.absentAt 0xF000 = false ∧ s.dev.noReserved 0xF000 1 = true ∧ s.dev.otpHolds 0xF000 = true) := by
  refine ⟨?_, ?_, ?_⟩ <;> decide +kernel

theorem witness_word_edits :
    (let p := pk 0x22 0 [0x08, 0xE0, 0, 0, 1, 0, 0, 0, 0, 0, 0, 0];
        Ready specModifyWord p ses1 (at' mReady p) ∧ par p 0 4 = 0xE008
          ∧ (at' mReady p).dev.absentAt 0xE008 = false ∧ (at' mReady p).dev.noReserved 0xE008 (par p 4 4) = true
          ∧ (at' mReady p).dev.otpHolds 0xE008 = false ∧ replyFits p ses1.macRequired 8 = true)
      ∧ (let p := pk 0x22 0 [0, 0xF0, 0, 0, 1, 0, 0, 0, 0, 0, 0, 0];
        let s := at' mReady p fun d => d.modOtp fun o => { o with queue := [.program 4095 0 true] };
        Ready specModifyWord p ses1 s ∧ par p 0 4 = 0xF000 ∧ s.dev.absentAt 0xF000 = false
          ∧ s.dev.noReserved 0xF000 (par p 4 4) = true ∧ s.dev.otpHolds 0xF000 = true)
      ∧ (let p := pk 0x23 0 [0, 0, 0x10, 0, 1, 0, 0, 0, 9, 9, 9, 9];
        Ready specWriteBlock p ses1 (at' mReady p) ∧ par p 0 4 = 0x100000 ∧ par p 4 2 = 1 ∧ reservedZero p 6 2
          ∧ ∀ y ∈ blockWords (pktParams p) 0x100000 8 1, (at' mReady p).dev.absentAt y.2.1 = false ∧ (at' mReady p).dev.noReserved y.2.1 y.2.2 = true
            ∧ (at' mReady p).dev.lineBusy y.2.1 = false ∧ (at' mReady p).dev.otpHolds y.2.1 = false)
      ∧ (let p := pk 0x23 0 [0, 0xF0, 0, 0, 1, 0, 0, 0, 1, 0, 0, 0];
        let s := at' mReady p fun d => d.modOtp fun o => { o with queue := [.program 4095 0 true] };
        Ready specWriteBlock p ses1 s ∧ blockWords (pktParams p) 0xF000 8 1 = [(8, 0xF000, 1)]
          ∧ s.dev.lineBusy 0xF000 = false ∧ s.dev.otpHolds 0xF000 = true) := by
  refine ⟨?_, ?_, ?_, ?_⟩ <;> decide +kernel

/-! ## Witnesses: ports, maps, firing -/

/-- A configured port of 64 nozzles, enabled and powered. -/
def headPort (p : Port) : Port :=
  { p with
    enable := Tv.mk3 1, hpen := Tv.mk3 1, headValid := true, blocks := 1, phases := 1
    heat := { p.heat with tsnValid := true } }

/-- The device with that port at `gp`, changed by `f`. -/
def withPort (gp : Fin 112) (f : Port → Port := id) (d : Dev) : Dev := d.modPort gp fun p => f (headPort p)

theorem witness_port_config :
    (let p := pk 0x50 0 [111, 1, 0x00, 0x28, 64, 63, 3, 0, 0xE8, 3, 0, 0];
      let s := at' mReady p;
      Ready specPortConfig p ses1 s ∧ par p 0 1 = (111 : Fin 112).val ∧ s.dev.hasPort 111 = true ∧ within 0 1 (par p 1 1)
        ∧ within 64 10240 (par p 2 2) ∧ par p 2 2 % 64 = 0 ∧ within 1 64 (par p 4 1)
        ∧ par p 4 1 % s.dev.ports[111].nBanks = 0 ∧ par p 5 1 < par p 4 1 ∧ within 1 3 (par p 6 1) ∧ reservedZero p 7 1
        ∧ within 0 1000 (par p 8 2) ∧ replyFits p ses1.macRequired 8 = true ∧ s.dev.portInUse 111 = false
        ∧ s.dev.ports[111].on = false) := by
  decide +kernel

theorem witness_port_enable :
    (let p := pk 0x51 0 [0, 1];
      let s := at' mReady p (withPort 0 fun y => { y with enable := Tv.mk3 0 });
      Ready specPortEnable p ses1 s ∧ par p 0 1 = (0 : Fin 112).val ∧ s.dev.hasPort 0 = true ∧ par p 1 1 = 1
        ∧ s.dev.ports[0].heat.tsnValid = true ∧ s.dev.ports[0].configured = true ∧ s.dev.ports[0].on = false)
      ∧ (let p := pk 0x51 0 [0, 0];
        let s := at' mReady p (withPort 0);
        Ready specPortEnable p ses1 s ∧ par p 1 1 = 0 ∧ s.dev.ports[0].on = true ∧ s.dev.portInUse 0 = false
          ∧ s.dev.ports[0].scan.state = 0)
      ∧ (let p := pk 0x51 0 [0, 0];
        Ready specPortEnable p ses1 (at' mReady p) ∧ (at' mReady p).dev.ports[0].on = false
          ∧ (at' mReady p).dev.ports[0].powered = false)
      ∧ (let p := pk 0x51 0 [0, 0];
        let s := at' mReady p (withPort 0 fun y => { y with enable := Tv.mk3 0 });
        Ready specPortEnable p ses1 s ∧ s.dev.ports[0].powered = true ∧ s.dev.portInUse 0 = false)
      ∧ (let p := pk 0x51 0 [0, 1];
        let s := at' mReady p (withPort 0);
        Ready specPortEnable p ses1 s ∧ s.dev.ports[0].on = true ∧ s.dev.ports[0].configured = true) := by
  refine ⟨?_, ?_, ?_, ?_, ?_⟩ <;> decide +kernel

theorem witness_wave_write :
    (let p := pk 0x52 0 [0, 3, 63, 1, 1, 0, 2, 0, 3, 0, 3, 0];
      let s := at' mReady p;
      Ready specWaveWrite p ses1 s ∧ par p 0 1 = (0 : Fin 112).val ∧ within 0 3 (par p 1 1) ∧ within 0 63 (par p 2 1)
        ∧ within 1 64 (par p 3 1) ∧ par p 3 1 = 1 ∧ within 1 3 (par p 10 2)
        ∧ par p 2 1 + par p 3 1 ≤ 64 ∧ s.dev.waveInUse 0 (par p 1 1) = false ∧ s.dev.swathOf 0 = none) := by
  decide +kernel

theorem witness_port_settings :
    (let p := pk 0x53 0 [0, 2, 0x70, 0xFE, 0xE0, 4, 0xE1, 4, 0xE2, 4, 200, 0];
        Ready specHeatConfig p ses1 (at' mReady p) ∧ within 0 2 (par p 1 1) ∧ parI p 2 2 = -400 ∧ parI p 4 2 = 1248
          ∧ parI p 6 2 = 1249 ∧ parI p 8 2 = 1250 ∧ within 0 200 (par p 10 2))
      ∧ (let p := pk 0x54 0 [0, 1, 0xE8, 3, 7, 0, 20, 0];
        Ready specPulseAux p ses1 (at' mReady p) ∧ within 0 1 (par p 1 1) ∧ within 1 1000 (par p 2 2)
          ∧ within 0 7 (par p 4 1) ∧ reservedZero p 5 1 ∧ within 20 1000 (par p 6 2))
      ∧ (let p := pk 0x55 0 [111];
        Ready specPortStatus p ses1 (at' mReady p) ∧ par p 0 1 = (111 : Fin 112).val ∧ replyFits p ses1.macRequired 28 = true) := by
  decide +kernel

theorem witness_scan_start :
    (∀ background : Bool,
      let v : Byte := if background then 1 else 0;
      let p := pk 0x60 v (1 :: List.replicate 15 0);
      let s := at' (if background then mPrint else mCalibrate) p (withPort 0);
      Ready (if background then specScanStart 1 mPrint else specScanStart 0 mCalibrate) p ses1 s
        ∧ s.dev.mapPresent (par p 0 14) = true ∧ mapPorts (par p 0 14) = [0] ∧ s.dev.ports[0].on = true
        ∧ s.dev.portEmpty 0 = false ∧ s.dev.ports[0].scan.state = 0 ∧ s.dev.portContained 0 = false
        ∧ s.dev.swathOf 0 = none
        ∧ reservedZero p 14 2) := by
  decide +kernel

theorem witness_map_edits :
    (let p := pk 0x61 0 [0, 2, 0x40, 0, 64, 0, 0, 0];
      let s := at' mReady p (withPort 0);
      Ready (specMapEdit 0 (lenIs 8)) p ses1 s ∧ par p 1 1 = 2
        ∧ getF 1 4 (par p 2 1) = 0 ∧ getF 5 2 (par p 2 1) ≠ 3
        ∧ reservedZero p 3 1 ∧ within 1 10240 (par p 4 2) ∧ within 0 10239 (par p 6 2)
        ∧ par p 6 2 + par p 4 2 ≤ s.dev.ports[0].nozzles)
      ∧ (let p := pk 0x61 1 [0, 0, 1, 0, 1, 0, 63, 0];
        let s := at' mReady p (withPort 0);
        Ready (specMapEdit 1 fun ps => decide (6 ≤ ps.length) && ps.length == 6 + 2 * pU ps 4 2) p ses1 s
          ∧ par p 1 1 = 0 ∧ Nat.land (par p 2 1) 0x7E = 0
          ∧ par p 4 2 = 1 ∧ par p 6 2 ≤ 10239 ∧ par p 6 2 < s.dev.ports[0].nozzles) := by
  decide +kernel

theorem witness_map_reads :
    (∀ raw : Bool,
      let p := pk (if raw then 0x63 else 0x62) 0 [0, 0, 63, 0, 1, 0];
      let s := at' mReady p (withPort 0);
      Ready (if raw then specRawRead else specMapRead) p ses1 s ∧ par p 0 1 = (0 : Fin 112).val ∧ reservedZero p 1 1
        ∧ par p 2 2 + par p 4 2 ≤ s.dev.ports[0].nozzles ∧ replyFits p ses1.macRequired (2 * par p 4 2) = true)
      ∧ (let p := pk 0x64 0 [0, 0, 1, 0, 2, 0, 3, 0, 0x58, 0x1B];
        Ready specBandSet p ses1 (at' mReady p) ∧ par p 2 2 = 1 ∧ par p 2 2 < par p 4 2 ∧ par p 4 2 < par p 6 2
          ∧ par p 6 2 < par p 8 2 ∧ par p 8 2 = 7000 ∧ (at' mReady p).dev.ports[0].scan.state = 0
          ∧ (at' mReady p).dev.portInUse 0 = false)
      ∧ (let p := pk 0x65 0 ([0, 3, 0, 0xFC, 0, 0x40, 0xFF, 0xFF] ++ List.replicate 16 0);
        Ready specCalWrite p ses1 (at' mReady p) ∧ within 0 3 (par p 1 1) ∧ parI p 2 2 = -1024 ∧ parI p 4 4 = -49152
          ∧ parI p 8 4 = 0 ∧ reservedZero p 20 4 ∧ (at' mReady p).dev.calInUse 0 (par p 1 1) = false) := by
  decide +kernel

/-- Swath 15, idle, on port 0 and channel 0. -/
def idleSwath (d : Dev) : Dev :=
  (withPort 0 id d).modSwath 15 fun w => { w with defined := true, state := 1, portMap := 1 }

theorem witness_pattern_print :
    (let p := pk 0x66 0 [15, 3, 0xFF, 0xFF, 0, 1, 0, 0];
      let s := at' mCalibrate p idleSwath;
      let y := s.dev.swaths[15];
      Ready specPatternPrint p ses1 s ∧ par p 0 1 = (15 : Fin 16).val ∧ y.defined = true ∧ within 0 3 (par p 1 1)
        ∧ within 1 65535 (par p 2 2) ∧ y.state ≠ 3 ∧ y.pendingRun = none
        ∧ (∀ gp ∈ s.dev.swathPorts 15, s.dev.ports[gp].scan.state = 0)
        ∧ after (BitVec.ofNat 32 (par p 4 4) + y.barOffset) (s.dev.pos.enc[y.channel].copies[0]).count = true) := by
  decide +kernel

/-! ## Witnesses: jobs -/

/-- Bytes as cells from an address on; zeros are not listed. -/
def cellsAt (a : Nat) : List Byte → List Host.Cell
  | [] => []
  | b :: bs => if b = 0 then cellsAt (a + 1) bs else (a, b) :: cellsAt (a + 1) bs

/-- Job context 0: swath 15, ratio 1, 100 lines, one BLANK descriptor; its CRC. -/
def ctxCells : List Host.Cell :=
  cellsAt 0x100000 [8, 0, 0, 0x80] ++ cellsAt 0x10003C [0x58, 0x80, 0xBC, 0x95]
    ++ cellsAt 0x1007C0 [1, 0, 0, 0, 1, 0, 0, 0, 100, 0, 0, 0, 0, 0, 1, 0, 0, 0, 0, 0, 0, 0, 1]
    ++ cellsAt 0x100840 [2, 0, 0, 0, 100]

/-- A share set of one group and a loaded wave set on port 0. -/
def jobMem : Banks :=
  { win := ctxCells ++ [(0x1C80010, 1)] ++ ((List.range 48).map fun i => (0x1C90086 + 8 * i, (1 : Byte))) }

/-- Swath 15 as the reference, fed by channel 5, its encoder channel in mode 1. -/
def fed (d : Dev) : Dev :=
  let d := (idleSwath d).modEnc 0 fun e => { e with cfg := { e.cfg with mode := 1 } };
  let d := d.modSwath 15 fun w => { w with reference := true };
  { d with dma := { d.dma with ch := vmod d.dma.ch 5 fun c => { c with state := 0, swathFeed := true, swath := 15 } } }

def pSwitch : Packet := pk 0x43 0 [0, 1, 0, 0, 0, 0x10, 0, 0]
def sSwitch : State := { at' mPrint pSwitch fed with mem := jobMem }

/-- The CRC over a range of a window, evaluated byte by byte. -/
def crcOver (m : List Host.Cell) : Nat → Nat → Nat → Nat
  | 0, _, c => c
  | n + 1, a, c =>
    if a = c then crcOver m n (a + 1) (crcByte c (memGet winBlank m a))
    else crcOver m n (a + 1) (crcByte c (memGet winBlank m a))

theorem crcOver_eq (m : List Host.Cell) (n : Nat) : ∀ a c, (memGets winBlank m a n).foldl crcByte c = crcOver m n a c := by
  induction n with
  | zero => exact fun _ _ => rfl
  | succ n ih => intro a c; simp only [memGets, List.foldl_cons, ih, crcOver, ite_self]

theorem ctx_crc : crcOver jobMem.win 8128 0x100040 (crcOver jobMem.win 60 0x100000 0xFFFFFFFF) = 0x6A437FA7 := by
  decide +kernel

theorem jobMem_bytes (off n : Nat) (h : off + n ≤ 8192) :
    ((jobMem.bytes 0x100000 8192).drop off).take n = jobMem.bytes (0x100000 + off) n := by
  simp only [Banks.bytes, memGets_drop, memGets_take]; congr 1; omega

theorem ctx_header : ctxHeaderOk (jobMem.bytes 0x100000 8192) = true := by
  have h1 : (jobMem.bytes 0x100000 8192).take 60 = jobMem.bytes 0x100000 60 := jobMem_bytes 0 60 (by decide)
  have h2 : (jobMem.bytes 0x100000 8192).drop 64 = jobMem.bytes 0x100040 8128 := by
    simp only [Banks.bytes, memGets_drop]
  have h3 : crc32c (jobMem.bytes 0x100000 60 ++ jobMem.bytes 0x100040 8128) = 0x95BC8058 := by
    simp only [crc32c, Banks.bytes, List.foldl_append, crcOver_eq, ctx_crc]; rfl
  simp only [ctxHeaderOk, zeros, pU, h1, h2, h3, jobMem_bytes _ _ (show 0 + 2 ≤ 8192 by decide),
    jobMem_bytes _ _ (show 2 + 2 ≤ 8192 by decide), jobMem_bytes _ _ (show 8 + 52 ≤ 8192 by decide),
    jobMem_bytes _ _ (show 60 + 4 ≤ 8192 by decide)]
  decide +kernel

/-- A BLANK descriptor of 100 lines. -/
def blank100 : Desc :=
  { op := opBlank, xform := 0, flags := 0, split := 0, count := 100, srcA := 0, srcB := 0, strideA := 0, strideB := 0 }

/-- The run that context describes. -/
def ctxRun : Run :=
  let pol : JobSwath := {
    gearNum := 1, gearDen := 1, length := 100, firstDesc := 0, descCount := 1, chainEnd := 0, waveSet := 0
    shareSet := 0, calSet := 0, hidePolicy := 0, overspeed := 0, dropLimit := 1, windowTolNs := 0, underrunStop := 0 };
  { epoch := 0, job := 0, origin := 0, gearNum := 1, gearDen := 1, policy := pol, lines := some 100
    chain := [blank100] }

theorem ctx_entry : ((jobMem.bytes 0x100000 8192).drop 1984).take 128 = jobMem.bytes 0x1007C0 128 :=
  jobMem_bytes 1984 128 (by decide)

theorem ctx_run : entryRun (jobMem.bytes 0x100000 8192) 0 15 = ctxRun := by
  have h1 : entryPolicy (((jobMem.bytes 0x100000 8192).drop (64 + 128 * (15 : Fin 16).val)).take 128) = ctxRun.policy := by
    show entryPolicy (((jobMem.bytes 0x100000 8192).drop 1984).take 128) = _
    rw [ctx_entry]; decide +kernel
  have h2 : parseDesc (((jobMem.bytes 0x100000 8192).drop 2112).take 32) = blank100 := by
    rw [jobMem_bytes 2112 32 (by decide)]; decide +kernel
  simp only [entryRun, h1]
  have h3 : (List.range ctxRun.policy.descCount) = [0] := by decide
  rw [h3, List.map_cons, List.map_nil]
  show Run.mk _ _ _ _ _ _ _ _ [parseDesc (((jobMem.bytes 0x100000 8192).drop 2112).take 32)] = _
  rw [h2]; decide +kernel

theorem ctx_swaths : ctxSwaths (jobMem.bytes 0x100000 8192) = [15] := by
  have h : pU (jobMem.bytes 0x100000 8192) 2 2 = 0x8000 := by
    rw [pU, jobMem_bytes 2 2 (by decide)]; decide +kernel
  simp only [ctxSwaths, h]; decide +kernel

theorem ctx_entry_valid : sSwitch.dev.entryValid jobMem (jobMem.bytes 0x100000 8192) 0 0 15 = true := by
  have h : entryOk (((jobMem.bytes 0x100000 8192).drop (64 + 128 * (15 : Fin 16).val)).take 128) = true := by
    show entryOk (((jobMem.bytes 0x100000 8192).drop 1984).take 128) = _
    rw [ctx_entry]; decide +kernel
  simp only [Dev.entryValid, ctx_run, h]
  decide +kernel

theorem witness_context : sSwitch.dev.ctxValid sSwitch.mem (sSwitch.mem.bytes 0x100000 8192) 0 15 = true := by
  show sSwitch.dev.ctxValid jobMem (jobMem.bytes 0x100000 8192) 0 15 = true
  simp only [Dev.ctxValid, ctx_header, ctx_swaths, List.all_cons, List.all_nil, Bool.true_and, Bool.and_true]
  have h : sSwitch.dev.swaths[(15 : Fin 16)].channel = 0 := by decide +kernel
  simp only [h, ctx_entry_valid]
  show (sSwitch.dev.pos.enc[(0 : Fin 4)].cfg.mode != 0 && true) = true
  decide +kernel

theorem witness_job_switch :
    Ready specJobSwitch pSwitch ses1 sSwitch ∧ par pSwitch 0 1 = 0 ∧ ctxBase 0 = 0x100000
      ∧ sSwitch.dev.ceIn (ctxBase 0) 8192 = sSwitch.dev ∧ sSwitch.dev.sound sSwitch.mem = sSwitch.mem
      ∧ sSwitch.dev.badWordsIn (ctxBase 0) 8192 = [] ∧ sSwitch.dev.refSwath = some 15 ∧ within 0 1 (par pSwitch 1 1)
      ∧ par pSwitch 1 1 = 1 ∧ reservedZero pSwitch 3 1
      ∧ diff40 (extPos (BitVec.ofNat 8 (par pSwitch 2 1)) (BitVec.ofNat 32 (par pSwitch 4 4)))
          (sSwitch.dev.pos.enc[sSwitch.dev.swaths[15].channel].copies[0]).ext ≤ 0x7FFFFFFF
      ∧ replyFits pSwitch ses1.macRequired 4 = true ∧ sSwitch.dev.armed = none ∧ sSwitch.dev.jobActive 0 = false
      ∧ (sSwitch.dev.arm 0 0x100000 [(15, ctxRun)]).armed.isSome = true
      ∧ 0 ≤ diff40 0x100000 (sSwitch.dev.pos.enc[sSwitch.dev.swaths[15].channel].copies[0]).ext
      ∧ (∀ y ∈ sSwitch.dev.switching [(15, ctxRun)], tooNear 8 (sSwitch.dev.ratioFor y.1 y.2)
          (sSwitch.dev.switchPos 0x100000 y.1)
          (sSwitch.dev.pos.enc[sSwitch.dev.swaths[15].channel].copies[0]).ext = false) := by
  refine ⟨?_, ?_, ?_, rfl, rfl, ?_, ?_, ?_, ?_, ?_, ?_, ?_, ?_, ?_, ?_, ?_, ?_⟩ <;> decide +kernel

/-- A word in error in job context 0. -/
theorem witness_job_switch_bad :
    (let s := { at' mPrint pSwitch (fun d => (fed d).modMr fun x => { x with badWords := [(0, 0, 0)] }) with mem := jobMem };
      Ready specJobSwitch pSwitch ses1 s ∧ par pSwitch 0 1 = 0
        ∧ (s.dev.ceIn (ctxBase 0) 8192).badWordsIn (ctxBase 0) 8192 ≠ []) := by
  decide +kernel

/-- A swath of job 5 that prints, on port 0. -/
def inJob (d : Dev) : Dev :=
  (withPort 0 id d).modSwath 15 fun w => { w with defined := true, state := 2, portMap := 1, job := 5 }

/-- Job 5 as armed on swath 15, which F0 has not yet acknowledged. -/
def arming5 : Armed :=
  { job := 5, boundary := 0, wrap := 0, swaths := [15], switching := [15], toSwitch := [15], waitAck := [0] }

/-- A part with that job armed. -/
def armed5 (d : Dev) : Dev := { idleSwath d with armed := some arming5 }

theorem witness_swath_define :
    (let p := pk 0x40 0 ([15, 3, 1, 0, 0, 0, 0, 0, 1] ++ List.replicate 15 0);
      let s := at' mReady p (withPort 0);
      Ready specSwathDefine p ses1 s ∧ par p 0 1 = (15 : Fin 16).val ∧ within 0 3 (par p 1 1) ∧ par p 2 1 ≤ 1
        ∧ reservedZero p 3 1 ∧ par p 8 14 ≠ 0 ∧ s.dev.mapPresent (par p 8 14) = true ∧ reservedZero p 22 2
        ∧ replyFits p ses1.macRequired 4 = true ∧ s.dev.swathBusy 15 = false ∧ ∀ gp : Fin 112, s.dev.swathOf gp.val = none)
      ∧ (let p := pk 0x40 0 ([15, 0, 2] ++ List.replicate 21 0);
        let s := at' mReady p idleSwath;
        Ready specSwathDefine p ses1 s ∧ within 2 3 (par p 2 1) ∧ reservedZero p 3 1 ∧ par p 8 14 = 0
          ∧ reservedZero p 22 2 ∧ s.dev.swathBusy 15 = false ∧ s.dev.swaths[15].reference = false) := by
  decide +kernel

theorem witness_job_bytes :
    (let p := pk 0x41 0 [127, 0, 0xFF, 0x1F, 1];
      Ready specJobWrite p ses1 (at' mReady p) ∧ reservedZero p 1 1 ∧ par p 2 2 = 8191
        ∧ par p 2 2 + ((pktParams p).length - 4) ≤ 8192 ∧ (at' mReady p).dev.ctxInUse (par p 0 1) = false)
      ∧ (let p := pk 0x42 0 [127, 0, 0xFF, 0x1F, 1, 0];
        Ready specJobRead p ses1 (at' mReady p) ∧ reservedZero p 1 1 ∧ within 0 8191 (par p 2 2)
          ∧ within 1 4060 (par p 4 2) ∧ par p 2 2 + par p 4 2 ≤ 8192 ∧ replyFits p ses1.macRequired (par p 4 2) = true)
      ∧ (let p := pk 0x45 0 [];
        Ready specJobStatus p ses1 (at' mReady p) ∧ replyFits p ses1.macRequired 72 = true) := by
  decide +kernel

theorem witness_job_cancel :
    (let p := pk 0x44 0 [5];
      let s := at' mPrint p armed5;
      Ready (specJobCancel 0) p ses1 s
        ∧ s.dev.armed = some arming5 ∧ arming5.toSwitch.length = arming5.swaths.length ∧ par p 0 1 = 5)
      ∧ (let p := pk 0x44 1 [5];
        let s := at' mPrint p inJob;
        Ready (specJobCancel 1) p ses1 s ∧ s.dev.printing (par p 0 1) = true ∧ s.dev.armed = none) := by
  decide +kernel

theorem witness_commit :
    (let s := st mPrint fun d => (armed5 d).modSwath 15 fun w => { w with switch := some { pos := 0x10000, run := none } };
      s.dev.armed = some arming5 ∧ CtrlMsg.commit ∉ s.dev.dies[0].ctrlWait
        ∧ (fins 16).filter (fun k => arming5.switching.contains k && (s.dev.swathDies k).contains 0) = [15]
        ∧ s.dev.swaths[15].switch = some { pos := 0x10000, run := none }
        ∧ tooNear 4 (s.dev.ratioFor 15 none) 0x10000
          ((s.dev.pos.enc[s.dev.swaths[15].channel].copies[(0 : Fin 7).val + 1]'(by omega)).ext) = false)
      ∧ (let s := st mPrint fun d => (armed5 d).modSwath 15 fun w => { w with switch := some { pos := 0x10, run := none } };
        tooNear 4 (s.dev.ratioFor 15 none) 0x10
          ((s.dev.pos.enc[s.dev.swaths[15].channel].copies[(0 : Fin 7).val + 1]'(by omega)).ext) = true)
      ∧ (let s := st mPrint fun d => (armed5 d).modDie 0 fun x => { x with ctrlWait := [.commit] };
        s.dev.armed = some arming5 ∧ CtrlMsg.commit ∈ s.dev.dies[0].ctrlWait) := by
  refine ⟨?_, ?_, ?_⟩ <;> decide +kernel

/-! ## Witnesses: firing -/

/-- A job's run in force on swath 0. -/
def aRun : Run := { ctxRun with epoch := 1 }

/-- Swath 0 prints that run on port 0, whose row A holds some tokens; the data of line 0 are complete. -/
def printing1 (ts : List Token) (f : Port → Port := id) (d : Dev) : Dev :=
  let d := withPort 0 (fun p => f { p with
    rowA := { p.rowA with epoch := 1, queue := ts, fAdm := 1000 }, slots := [{ epoch := 1, line := 0, complete := true }] }) d;
  d.modSwath 0 fun w => { w with defined := true, state := 2, portMap := 1, epoch := 1, runs := [aRun] }

def sPrint (ts : List Token) (f : Port → Port := id) : State := st mPrint (printing1 ts f)

/-- Line 0 of that run, waiting. -/
def line0 : Token := { epoch := 1, line := 0 }

theorem witness_line_data :
    (((sPrint [line0]).dev.ports[0].row .a).queue.find? ((sPrint [line0]).dev.tokenReady 0) = some line0
        ∧ (sPrint [line0]).dev.runOf 0 1 = some (0, aRun)
        ∧ (sPrint [line0]).dev.badWordsIn (lineAddr 0 0) ((sPrint [line0]).dev.ports[0].nozzles / 4) = []
        ∧ aRun.pattern = none
        ∧ ((sPrint [line0]).dev.modMr fun x => { x with badWords := [(1, 0, 0)] }).badWordsIn (lineAddr 0 0)
          ((sPrint [line0]).dev.ports[0].nozzles / 4) ≠ [])
      ∧ (((sPrint [line0]).dev.ports[0].row .a).queue.find? (fun t => t.start.isNone) = some line0
        ∧ (sPrint [line0]).dev.swathReversed 0 0 = false
        ∧ ((sPrint [line0]).dev.predToken (sPrint [line0]).banks 0 .a line0).isSome = true)
      ∧ (let s := st mPrint fun d => ((printing1 [line0] id d).modEnc 0 fun e => { e with
            copies := vall (fun (c : EncCopy) => { c with x := 1000 }) e.copies });
        s.dev.runOf 0 1 = some (0, aRun) ∧ s.dev.lineAhead s.banks 0 0 .a aRun 0 < 0) := by
  refine ⟨?_, ?_, ?_⟩ <;> decide +kernel

/-- A committed line 0. -/
def due : Token := { line0 with processed := some [], start := some 0, complete := true }

theorem witness_line_start :
    ((sPrint [due]).dev.runOf 0 1 = some (0, aRun) ∧ ((sPrint [due]).dev.ports[0].row .a).queue = [due]
        ∧ ((sPrint [due]).dev.ports[0].row .a).firing = false ∧ (sPrint [due]).dev.passOver 0 0 due = false
        ∧ (sPrint [due]).dev.swathReversed 0 0 = false ∧ (sPrint [due]).dev.ports[0].blanking = false
        ∧ ((sPrint [due]).dev.ports[0].row .a).earliest (sPrint [due]).dev.ports[0].piece 0 = some 0
        ∧ (0 : Rat) ≤ 0 + aRun.policy.windowTolNs)
      ∧ (sPrint [{ due with skip := true }]).dev.passOver 0 0 { due with skip := true } = true
      ∧ (sPrint [due] fun p => { p with heat := { p.heat with hot := true } }).dev.ports[0].blanking = true := by
  refine ⟨?_, ?_, ?_⟩ <;> decide +kernel

theorem witness_window_close :
    (∀ t ∈ [due, { due with started := true }, { due with blanked := true }, { due with skip := true }],
      ((sPrint [t]).dev.ports[0].row .a).queue = [t] ∧ (sPrint [t]).dev.runOf 0 t.epoch = some (0, aRun)
        ∧ t.start.isSome = true)
      ∧ (let s := sPrint [{ due with started := true }] (fun p => { p with rowA := { p.rowA with firing := true } });
        (s.dev.ports[0].row .a).firing = true ∧ s.dev.swathOf 0 = some 0)
      ∧ (let t := { due with epoch := 7, started := true };
        let s := sPrint [t];
        (s.dev.ports[0].row .a).queue = [t] ∧ s.dev.runOf 0 t.epoch = none ∧ s.dev.swathOf 0 = some 0) := by
  refine ⟨?_, ?_, ?_⟩ <;> decide +kernel

theorem witness_keep_warm :
    (let s := st mReady (withPort 0 fun p => { p with heat := { p.heat with keepWarm := true, belowWarm := true } });
      let d := s.dev.closeWindow s.banks 0;
      let p := d.ports[0];
      d.pieceFree 0 = true ∧ d.keepWarmDue 0 = true ∧ d.spitDue 0 = false
        ∧ d.fits s.banks 0 (p.slotsPerPhase * max (p.heat.keepWarmNs.toNat + max p.slotGap.toNat 2) (p.nRows * p.tx))
          = true) := by
  decide +kernel

theorem witness_spit :
    (∀ left ∈ [0, 3],
      let s := st mService (withPort 0 fun p => { p with heat := { p.heat with spitPattern := 1, spitLeft := left } });
      let d := s.dev.closeWindow s.banks 0;
      d.pieceFree 0 = true ∧ d.spitDue 0 = true ∧ d.spitFit s.banks 0 (if left = 0 then spitLines 1 else left) ≠ 0) := by
  decide +kernel

theorem witness_scan_element :
    (∀ k ∈ [(1 : BitVec 2), 2],
      let s := st mCalibrate (withPort 0 fun p => { p with scan := { p.scan with state := k, limit := 64, next := 63 } });
      let d := s.dev.closeWindow s.mem 0;
      let c := d.ports[0].scan;
      (c.state = 1 ∨ c.state = 2 ∧ d.elementFree s.mem 0 = true) ∧ c.limit ≤ c.next + 1 ∧ d.alwaysOpen 0 = true)
      ∧ (let s := st mPrint (fun d => (printing1 [] (fun p => { p with
            heat := { p.heat with headland := true }, scan := { p.scan with state := 2, limit := 64 } }) d).modSwath 0 fun w =>
              { w with runs := [{ aRun with lines := some 0 }] });
        let d := s.dev.closeWindow s.mem 0;
        d.ports[0].scan.state = 2 ∧ d.elementFree s.mem 0 = true ∧ d.alwaysOpen 0 = false)
      ∧ (let s := st mReady (withPort 0);
        s.dev.ports[0].on = true ∧ s.dev.sys.held = false ∧ s.dev.mode ≠ mFallow ∧ s.dev.hasPort 0 = true)
      ∧ within 65 15291 (65 : BitVec 14).toNat ∧ within 65 15291 (15291 : BitVec 14).toNat
      ∧ (64 : BitVec 14).toNat ≤ 64 ∧ 15292 ≤ (15292 : BitVec 14).toNat := by
  refine ⟨?_, ?_, ?_, ?_, ?_, ?_, ?_⟩ <;> decide +kernel

/-! ## Witnesses: encoders -/

/-- Channel 3 in a mode. -/
def encMode3 (m : BitVec 3) (d : Dev) : Dev := d.modEnc 3 fun e => { e with cfg := { e.cfg with mode := m } }

theorem witness_enc_commands :
    (let p := pk 0x70 0 ([3, 4, 1, 255, 0, 0x10, 0x88, 0x13, 0xFE, 0x0F, 0xFF, 0x0F] ++ List.replicate 4 0);
      Ready specEncConfig p ses1 (at' mReady p) ∧ par p 0 1 = (3 : Fin 4).val ∧ within 0 4 (par p 1 1)
        ∧ within 0 1 (par p 2 1) ∧ within 1 255 (par p 3 1) ∧ within 1 4096 (par p 4 2) ∧ within 50 5000 (par p 6 2)
        ∧ within 1 4095 (par p 8 2) ∧ within 2 4095 (par p 10 2) ∧ par p 8 2 < par p 10 2 ∧ reservedZero p 12 4
        ∧ (at' mReady p).dev.encInUse 3 = false ∧ BitVec.ofNat 3 (par p 1 1) ≠ (at' mReady p).dev.pos.enc[(3 : Fin 4)].cfg.mode)
      ∧ (let p := pk 0x70 0 ([3, 4, 1, 255, 0, 0x10, 0x88, 0x13, 0xFE, 0x0F, 0xFF, 0x0F] ++ List.replicate 4 0);
        let e := (at' mReady p fun d => d.modEnc 3 fun e => { e with cfg := { e.cfg with mode := 4, interp := 4096 } }).dev.pos.enc[(3 : Fin 4)];
        e.nextCfg = none ∧ BitVec.ofNat 3 (par p 1 1) = e.cfg.mode ∧ BitVec.ofNat 13 (par p 4 2) = e.cfg.interp)
      ∧ (∀ m ∈ [(0 : BitVec 3), 4], let d := (part mReady).modEnc 3 fun e => { e with nextCfg := some { mode := m } };
        d.pos.enc[(3 : Fin 4)].nextCfg = some { mode := m } ∧ d.counting = true ∧ d.pos.enc[(3 : Fin 4)].cfg.mode = 0)
      ∧ (let p := pk 0x71 0 [3];
        Ready specEncRead p ses1 (at' mReady p) ∧ par p 0 1 = (3 : Fin 4).val ∧ replyFits p ses1.macRequired 24 = true)
      ∧ (let p := pk 0x72 0 [3, 3, 0, 1, 1, 0, 0, 0];
        Ready specEncoutConfig p ses1 (at' mReady p) ∧ par p 0 1 = (3 : Fin 4).val ∧ par p 1 1 = (3 : Fin 4).val
          ∧ within 1 256 (par p 2 2) ∧ within 0 1 (par p 4 1) ∧ reservedZero p 5 3)
      ∧ (let p := pk 0x73 0 [3, 0xFF, 0, 0, 0xFF, 0xFF, 0xFF, 0xFF];
        let d := (at' mReady p).dev;
        Ready specEncPreset p ses1 (at' mReady p) ∧ reservedZero p 2 2 ∧ d.encInUse 3 = false)
      ∧ (∀ waits ∈ [[], [CtrlMsg.preset 3]],
        let z : Preset := { offset := 5, apply := [6] };
        let d := ((part mReady).modEnc 3 fun e => { e with presets := [z] }).modDie 6 fun x => { x with ctrlWait := waits };
        d.pos.enc[(3 : Fin 4)].presets.filter (fun y => y.apply.contains 6) = [z]
          ∧ (waits = [] → d.dies[6].ctrlWait.count (.preset 3) ≤ 0) ∧ (waits ≠ [] → 0 < d.dies[6].ctrlWait.count (.preset 3))) := by
  refine ⟨?_, ?_, ?_, ?_, ?_, ?_, ?_⟩ <;> decide +kernel

theorem witness_edges :
    (let d := encMode3 1 (part mReady);
      d.counting = true ∧ d.encMode 3 = 1
        ∧ (quadIndex false true + 4 - quadIndex (d.hub 3).a (d.hub 3).b) % 4 = 1
        ∧ (quadIndex true false + 4 - quadIndex (d.hub 3).a (d.hub 3).b) % 4 = 3
        ∧ (quadIndex false false + 4 - quadIndex (d.hub 3).a (d.hub 3).b) % 4 = 2
        ∧ (quadIndex true true + 4 - quadIndex (d.hub 3).a (d.hub 3).b) % 4 = 0)
      ∧ (∀ m ∈ [(2 : BitVec 3), 3],
        let d := (encMode3 m (part mReady)).setLevels 3 false false;
        d.counting = true ∧ d.encMode 3 = m.toNat ∧ (d.hub 3).a = false ∧ (d.hub 3).b = false)
      ∧ ((encMode3 1 (part mReady)).hub 3).z = true
      ∧ (((encMode3 1 (part mReady)).allCopies 3 fun c => { c with z := false }).hub 3).z = false
      ∧ (let d := part mReady; d.counting = true ∧ d.encMode 3 ≠ 1)
      ∧ (∀ m ∈ [(2 : BitVec 3), 3, 4], (encMode3 m (part mReady)).counting = true ∧ (encMode3 m (part mReady)).encMode 3 = m.toNat)
      ∧ (let d := encMode3 4 (part mReady);
        (quadrantOf false true + 4 - (d.hub 3).quadrant.toNat) % 4 = 1
          ∧ (quadrantOf true false + 4 - (d.hub 3).quadrant.toNat) % 4 = 3
          ∧ (quadrantOf false false + 4 - (d.hub 3).quadrant.toNat) % 4 = 2
          ∧ (quadrantOf true true + 4 - (d.hub 3).quadrant.toNat) % 4 = 0)
      ∧ (let d := encMode3 3 (part mReady);
        d.counting = true ∧ (7 : Fin 8) ∈ d.copyDies ∧ (0 : Fin 8) ∈ d.copyDies ∧ (7 : Fin 8) = copyOf 6
          ∧ within 1 3 (d.encMode 3)) := by
  refine ⟨?_, ?_, ?_, ?_, ?_, ?_, ?_, ?_⟩ <;> decide +kernel

/-- Channel 3 in mode 1 with a snapshot of number 9 latched at 5 on the hub and at `n` on F0. -/
def latched (n : Word) (d : Dev) : Dev :=
  (encMode3 1 d).modEnc 3 fun e => { e with
    copies := vallIdx (fun i c => { c with latch := some (9, 0, if i = 0 then 5 else n, i != 0) }) e.copies }

def dLatched (n : Word) : Dev := latched n (part mReady)

theorem witness_snapshot_report (n : Word) (h : n = 6 ∨ n = 7) :
    (dLatched n).counting = true ∧ (dLatched n).hasDie 0 = true
      ∧ CtrlMsg.snapshot 3 ∉ (dLatched n).dies[(0 : Fin 7)].ctrlWaitUp
      ∧ (((dLatched n).pos.enc[(3 : Fin 4)]).copies[copyOf 0]).syncing = false
      ∧ (((dLatched n).pos.enc[(3 : Fin 4)]).copies[copyOf 0]).fineDue = false
      ∧ (((dLatched n).pos.enc[(3 : Fin 4)]).copies[copyOf 0]).latch
        = some ((9 : Word), (((dLatched n).pos.enc[(3 : Fin 4)]).copies[0]).gen, n, true)
      ∧ (((dLatched n).pos.enc[(3 : Fin 4)]).copies[0]).latch
        = some ((9 : Word), (((dLatched n).pos.enc[(3 : Fin 4)]).copies[0]).gen, (5 : Word), false)
      ∧ ((((dLatched n).modCopy 3 (copyOf 0) fun c => { c with fineDue := true }).pos.enc[(3 : Fin 4)]).copies[copyOf 0]).fineDue = true
      ∧ agree 1 6 5 = true ∧ agree 1 7 5 = false := by
  rcases h with rfl | rfl <;> refine ⟨?_, ?_, ?_, ?_, ?_, ?_, ?_, ?_, ?_, ?_⟩ <;> decide +kernel

theorem witness_agreement :
    (let d := (encMode3 1 (part mReady)).modCopy 3 (copyOf 6) fun c => { c with syncing := true };
        d.hasDie (6 : Fin 7).val = true ∧ d.dieSyncing 6 = true ∧ d.counting = true
          ∧ (d.pos.enc[(3 : Fin 4)].copies[copyOf 6]).syncing = true)
      ∧ (let d := (part mPrint).modSwath 15 fun w => { w with gens := vall (fun (g : LineGen) => { g with records := [(1, 5, 9)] }) w.gens };
        d.hasDie (6 : Fin 7).val = true ∧ (d.swaths[15].gens[copyOf 6]).records = [(1, 5, 9)]
          ∧ (d.swaths[15].gens[0]).records.find? (fun z => z.1 == 1) = some (1, 5, 9)
          ∧ d.dies[6].ctrlWaitUp.count (.switchRecord 15) ≤ 0)
      ∧ (let d := part mReady;
        d.counting = true ∧ ∀ ch : Fin 4, (d.pos.enc[ch].copies[copyOf 6]).latch = none)
      ∧ (((dLatched 6).pos.enc[(3 : Fin 4)].copies[copyOf 6]).latch = some ((9 : Word), (0 : BitVec 8), (6 : Word), true)
        ∧ ((dLatched 6).hub 3).latch = some ((9 : Word), (0 : BitVec 8), (5 : Word), false)
        ∧ ∀ k : Fin 4, k ≠ 3 → ((dLatched 6).pos.enc[k].copies[copyOf 6]).latch = none) := by
  refine ⟨?_, ?_, ?_, ?_⟩ <;> decide +kernel

/-! ## Witnesses: DMA -/

/-- A MOVE of 64 bytes from host to host. -/
def move64 : Desc :=
  { op := opMove, xform := 0, flags := 0, split := 0, count := 64, srcA := 0x1000, srcB := 0x2000, strideA := 0, strideB := 0 }

def moveBytes : List Byte := [0, 0, 0, 0, 64, 0, 0, 0, 0, 0x10, 0, 0, 0, 0, 0, 0, 0, 0x20] ++ List.replicate 14 0

/-- Channel 31, changed by `f` after a DMA_CONFIG, on a part whose host link is up. -/
def chan (f : Channel → Channel) (d : Dev) : Dev := d.modCh 31 fun c => f { c with state := 0 }

theorem witness_dma_commands :
    (let p := pk 0x30 0 [31, 1, 15, 7, 0xFF, 1, 0, 0];
      let d := (at' mReady p).dev;
      Ready specDmaConfig p ses1 (at' mReady p) ∧ par p 0 1 = (31 : Fin 32).val ∧ within 0 1 (par p 1 1)
        ∧ within 0 15 (par p 2 1) ∧ within 0 7 (par p 3 1) ∧ within 0 511 (par p 4 2) ∧ reservedZero p 6 2
        ∧ d.dma.ch[(31 : Fin 32)].pendingAny = false ∧ d.dma.ch[(31 : Fin 32)].state = 3
        ∧ d.swathBusy (Fin.ofNat 16 (par p 2 1)) = false)
      ∧ (let p := pk 0x31 0 ([31, 0, 1, 0] ++ moveBytes);
        let d := (at' mReady p (chan id)).dev;
        Ready specDmaPost p ses1 (at' mReady p (chan id)) ∧ d.dma.ch[(31 : Fin 32)].state ≠ 3 ∧ reservedZero p 1 1
          ∧ within 1 126 (par p 2 2) ∧ postedDescs (pktParams p) = [move64]
          ∧ d.descFault d.dma.ch[(31 : Fin 32)].swathFeed d.dma.ch[(31 : Fin 32)].swath move64 = none
          ∧ 1 + d.dma.ch[(31 : Fin 32)].entries ≤ 256 ∧ replyFits p ses1.macRequired 6 = true
          ∧ d.dma.ch[(31 : Fin 32)].state ≠ 2 ∧ d.descBusy move64 = false)
      ∧ (let p := pk 0x32 0 [31];
        Ready specDmaStatus p ses1 (at' mReady p) ∧ par p 0 1 = (31 : Fin 32).val ∧ replyFits p ses1.macRequired 20 = true)
      ∧ (let p := pk 0x33 0 [31]; Ready (specDmaControl 0) p ses1 (at' mReady p))
      ∧ (let p := pk 0x33 1 [31]; Ready (specDmaControl 1) p ses1 (at' mReady p))
      ∧ (let p := pk 0x33 2 [31]; Ready (specDmaControl 2) p ses1 (at' mReady p)) := by
  refine ⟨?_, ?_, ?_, ?_, ?_, ?_⟩ <;> decide +kernel

/-- An outstanding read of four bytes. -/
def read4 (cache : Bool) : ReadReq := { num := 0, line := 0, second := false, cache, address := 0, off := 0, len := 4 }

/-- A beat to the host. -/
def beat4 : Beat := { num := 0, dest := .host 0, bytes := [1, 2, 3, 4] }

theorem witness_dma_reads :
    (let d := (chan (fun c => { c with list := [move64] }) (part mReady)).form 64;
      d.served (fun c => (d.readTurn c).isSome) d.dma.rrFeed d.dma.rrGen = some 31 ∧ (d.readTurn 31).isSome = true)
      ∧ (∀ cache : Bool, let d := chan (fun c => { c with reads := [read4 cache] }) (part mReady);
        d.dma.ch[(31 : Fin 32)].waiting 0 = some (read4 cache) ∧ (read4 cache).cache = cache
          ∧ (read4 cache).dead = false ∧ (d.src idLpddrFail).cause = false ∧ d.hostDown = false ∧ [(1 : Byte), 2, 3, 4].length = (read4 cache).len
          ∧ (({} : Banks).cbytes 0 4).length = (read4 cache).len)
      ∧ (let d := chan (fun c => { c with reads := [read4 false] }) ((part mReady).modPci fun p => { p with down := true });
        d.dma.ch[(31 : Fin 32)].waiting 0 = some (read4 false) ∧ d.hostDown = true)
      ∧ (let q := { read4 true with dead := true };
        let d := (chan (fun c => { c with reads := [q] }) (part mReady)).modSrc idLpddrFail fun x => { x with cause := true };
        d.dma.ch[(31 : Fin 32)].waiting 0 = some q ∧ q.dead = true ∧ (d.src idLpddrFail).cause = true) := by
  refine ⟨?_, ?_, ?_, ?_⟩ <;> decide +kernel

theorem witness_dma_writes :
    (let d := (chan (fun c => { c with beats := [beat4] }) (part mReady)).form 64;
      d.writeTurn = some 31 ∧ d.dma.ch[(31 : Fin 32)].beats = [beat4])
      ∧ (∀ dropped : Bool,
        let d := chan (fun c => { c with
          fences := [{ num := 5, posted := true }], lastHost := some 0, hostDropped := dropped }) (part mReady);
        let x := d.dma.ch[(31 : Fin 32)];
        x.fenceDue = some { num := 5, posted := true } ∧ x.state ≠ 2 ∧ x.state ≠ 3 ∧ x.lastHost ≠ none
          ∧ d.hostDown = false ∧ x.hostDropped = dropped)
      ∧ (let x := (chan (fun c => { c with fences := [{ num := 5, posted := true }] }) (part mReady)).dma.ch[(31 : Fin 32)];
        x.fenceDue = some { num := 5, posted := true } ∧ x.lastHost = none) := by
  refine ⟨?_, ?_, ?_⟩ <;> decide +kernel

/-! ## Witnesses: transport axes -/

/-- Axis 3, changed by `f`, of a part whose bus is configured and whose scales are set. -/
def axis (f : Tax → Tax) (d : Dev) : Dev :=
  (d.modTax 3 fun t => f { t with
    configured := true, rs := 1, ls := 1, psi := 1, imax := 1, shunt := 1, ratedRpm := 3000, pwmHz := 8000 }).modBus fun b =>
    { b with configured := true, scale := 1, pscale := 1 }

theorem witness_tax_config :
    (let p := pk 0x80 0 ([3, 32, 4, 1, 0x40, 0x9C, 0xF4, 1, 0x88, 0x13, 0x30, 0x75] ++ leBytes 4 0x7FFFFFFF
        ++ leBytes 4 0x7FFFFFFF ++ leBytes 4 1000000);
      Ready specTaxConfig p ses1 (at' mReady p) ∧ (at' mReady p).dev.hasTax = true ∧ par p 0 1 = (3 : Fin 4).val
        ∧ within 1 32 (par p 1 1) ∧ within 0 4 (par p 2 1) ∧ within 0 1 (par p 3 1) ∧ within 8000 40000 (par p 4 2)
        ∧ within 5 500 (par p 6 2) ∧ 2 * par p 6 2 * par p 4 2 < 100000000 ∧ within 200 5000 (par p 8 2)
        ∧ 2 * par p 8 2 * par p 4 2 < 1000000000 ∧ within 1 30000 (par p 10 2) ∧ within 0 0x7FFFFFFF (par p 12 4)
        ∧ within 0 0x7FFFFFFF (par p 16 4) ∧ within 1 1000000 (par p 20 4)
        ∧ (at' mReady p).dev.mot.tax[(3 : Fin 4)].on = false) := by
  decide +kernel

theorem witness_tax_commands :
    (let p := pk 0x81 0 ([3, 0] ++ List.replicate 64 1);
      Ready specTaxAdvance p ses1 (at' mReady p) ∧ reservedZero p 1 1 ∧ (at' mReady p).dev.mot.tax[(3 : Fin 4)].on = false)
      ∧ (let p := pk 0x82 0 [3, 0]; Ready specTaxEnable p ses1 (at' mReady p) ∧ par p 1 1 = 0)
      ∧ (∀ on : Bool, let p := pk 0x82 0 [3, 1];
        let s := at' mReady p (axis fun t => if on then { t with enable := Tv.mk3 1, state := 2 } else t);
        Ready specTaxEnable p ses1 s ∧ par p 1 1 = 1 ∧ s.dev.taxReady 3 = true ∧ s.dev.mot.bus.configured = true
          ∧ s.dev.mot.tax[(3 : Fin 4)].on = on ∧ (on = false ∨ s.dev.mot.tax[(3 : Fin 4)].state ≠ 0))
      ∧ (let p := pk 0x83 0 ([3, 0, 0, 0] ++ leBytes 4 (2 ^ 32 - 300000) ++ leBytes 4 1000000);
        let s := at' mReady p (axis id);
        Ready specTaxSpeed p ses1 s ∧ reservedZero p 1 3 ∧ parI p 4 4 = -300000
          ∧ -(100 * s.dev.mot.tax[(3 : Fin 4)].ratedRpm : Nat) ≤ parI p 4 4 ∧ within 0 1000000 (par p 8 4))
      ∧ (let p := pk 0x84 0 [3, 0, 0xFF, 0xFF, 0xFF, 0xFF, 0xFF, 0xFF];
        Ready specTaxMaster p ses1 (at' mReady p) ∧ reservedZero p 1 1 ∧ within 1 0xFFFFFFFF (par p 4 4)
          ∧ (∀ k : Fin 4, (at' mReady p).dev.mot.tax[k].masterOf &&& BitVec.ofNat 16 (par p 2 2) = 0)
          ∧ (at' mReady p).dev.mot.tax[(3 : Fin 4)].on = false ∧ ∀ w : Fin 16, (at' mReady p).dev.swathInUse w = false)
      ∧ (let p := pk 0x85 0 [0xFC, 0x0F, 0xFD, 0x0F, 0xFE, 0x0F, 0xFF, 0x0F];
        Ready specBusConfig p ses1 (at' mReady p) ∧ within 0 4095 (par p 6 2) ∧ par p 0 2 < par p 2 2
          ∧ par p 2 2 < par p 4 2 ∧ par p 4 2 < par p 6 2
          ∧ ∀ n : Fin 4, (at' mReady p).dev.mot.tax[n].on = false)
      ∧ (let p := pk 0x86 0 [3]; Ready specTaxStatus p ses1 (at' mReady p) ∧ replyFits p ses1.macRequired 20 = true) := by
  refine ⟨?_, ?_, ?_, ?_, ?_, ?_, ?_⟩ <;> decide +kernel

/-- That axis running, in a state. -/
def running (k : BitVec 3) (f : Tax → Tax := id) : Dev :=
  axis (fun t => f { t with enable := Tv.mk3 1, state := k }) (part mPrint)

theorem witness_transport_rows :
    ((running 0).hasTax = true ∧ (running 0).sys.held = false ∧ (running 0).mode ≠ mFallow
        ∧ (running 0).mot.tax[(3 : Fin 4)].on = true ∧ (running 0).mot.tax[(3 : Fin 4)].configured = true
        ∧ (running 0).mot.tax[(3 : Fin 4)].state = 0)
      ∧ ((running 2).mot.tax[(3 : Fin 4)].state = 2 ∧ (running 2).mot.tax[(3 : Fin 4)].angleSrc = 0)
      ∧ (let t := (running 2 fun t => { t with w := 1 }).mot.tax[(3 : Fin 4)];
        t.state = 2 ∧ t.angleSrc = 0 ∧ t.residHigh = false ∧ t.emf < twoPi * |t.w| * t.psiWb / 2)
      ∧ (running 2 fun t => { t with resid := 1, psi := 1 }).mot.tax[(3 : Fin 4)].residHigh = true
      ∧ (running 3).mot.tax[(3 : Fin 4)].state = 3
      ∧ (let t := (running 1 fun t => { t with olFreq := -120 }).mot.tax[(3 : Fin 4)];
        t.state = 1 ∧ t.aligning = false ∧ t.angleSrc = 0 ∧ |t.olFreq| = (4 * t.ratedRpm : Nat) / (100 : Rat)
          ∧ t.ref = t.capped ∧ |t.speed - t.ref| ≤ (t.ratedRpm : Rat) / 100)
      ∧ (let t := (running 1 fun t => { t with angleSrc := 4, aligning := true }).mot.tax[(3 : Fin 4)];
        t.aligning = true ∧ 1 ≤ t.angleSrc ∧ t.angleSrc ≤ 4)
      ∧ (let t := (running 2).mot.tax[(3 : Fin 4)];
        t.state = 2 ∧ t.ref = t.capped ∧ |t.speed - t.ref| ≤ (t.ratedRpm : Rat) / 100)
      ∧ (running 5).mot.tax[(3 : Fin 4)].state = 5
      ∧ ((part mPrint).mot.tax[(3 : Fin 4)].on = false ∧ (axis id (part mPrint)).mot.tax[(3 : Fin 4)].configured = true
        ∧ (axis id (part mPrint)).mot.tax[(3 : Fin 4)].on = false) := by
  refine ⟨?_, ?_, ?_, ?_, ?_, ?_, ?_, ?_, ?_, ?_⟩ <;> decide +kernel

/-- One control period of that axis up to its sample. -/
def sampled (k : BitVec 3) : Dev :=
  ((((running k).normal (idTaxLate 3)).takeSetpoint 3).applyCap 3).taxSample 3 0 0 0

theorem witness_control_period :
    ((sampled 1).mot.tax[(3 : Fin 4)].state ≠ 0 ∧ (sampled 1).mode ≠ mTest)
      ∧ (((running 1).takeSetpoint 3).applyCap 3 |>.taxSample 3 1000 0 0).mot.tax[(3 : Fin 4)].state = 0
      ∧ ((axis id (part mTest)).mode = mTest ∧ (axis id (part mTest)).hasTax = true)
      ∧ [(0 : BitVec 12), 0, 0].map (running 1).mot.tax[(3 : Fin 4)].amps = [0, 0, 0] := by
  refine ⟨?_, ?_, ?_, ?_⟩ <;> decide +kernel

/-! ## Witnesses: auxiliary axes -/

/-- Axis 7 energised at standstill, changed by `f`. -/
def auxOn (f : Aux → Aux) (d : Dev) : Dev :=
  (d.modAux 7 fun a => f { a with enable := Tv.mk3 1, state := 1, configured := true, iscale := 1, irunMa := 1000 }).modMot
    fun m => { m with vbusMv := 24000 }

def moveParams (target : Nat) : List Byte :=
  [7, 0, 0, 0] ++ leBytes 4 target ++ leBytes 4 16777215 ++ leBytes 4 1 ++ leBytes 4 16777215

theorem witness_aux_config :
    (let p := pk 0x90 0 [7, 100, 64, 170, 0xFF, 0xFF, 1, 0, 0x10, 0x27, 0xFF, 0x0F, 0xE8, 3, 0, 0];
      Ready specAuxConfig p ses1 (at' mReady p) ∧ (at' mReady p).dev.hasAux = true ∧ par p 0 1 = (7 : Fin 8).val
        ∧ within 0 100 (par p 1 1) ∧ within 20 64 (par p 2 1) ∧ within 10 170 (par p 3 1) ∧ within 1 65535 (par p 4 2)
        ∧ within 1 65535 (par p 6 2) ∧ within 1 10000 (par p 8 2) ∧ within 0 4095 (par p 10 2)
        ∧ within 4 1000 (par p 12 2) ∧ reservedZero p 14 2 ∧ (at' mReady p).dev.mot.aux[(7 : Fin 8)].on = false)
      ∧ (let p := pk 0x91 0 [7, 0]; Ready specAuxEnable p ses1 (at' mReady p) ∧ par p 1 1 = 0)
      ∧ (let p := pk 0x91 0 [7, 1];
        let s := at' mReady p (auxOn fun a => { a with enable := Tv.mk3 0, state := 0 });
        Ready specAuxEnable p ses1 s ∧ par p 1 1 = 1 ∧ s.dev.auxReady 7 = true) := by
  refine ⟨?_, ?_, ?_⟩ <;> decide +kernel

theorem witness_aux_move :
    (∀ v : Fin 3,
      let p := pk 0x92 (BitVec.ofNat 8 v.val) (moveParams 0x7FFFFFFF);
      let s := at' mReady p (auxOn fun a => { a with posValid := true });
      let a := s.dev.mot.aux[(7 : Fin 8)];
      Ready (specAuxMove (BitVec.ofNat 8 v.val)) p ses1 s ∧ a.live = true ∧ reservedZero p 1 3
        ∧ within 1 16777215 (par p 8 4) ∧ within 1 16777215 (par p 12 4) ∧ within 1 16777215 (par p 16 4)
        ∧ a.moving = false ∧ a.state ≠ 4 ∧ a.posValid = true ∧ (parI p 4 4 - a.pos.toInt).natAbs ≤ 0x7FFFFFFF)
      ∧ (let p := pk 0x92 1 (moveParams 5);
        let m : Move := { target := 9, vmax := 1, accel := 1, decel := 1 };
        let s := at' mReady p (auxOn fun a => { a with posValid := true, state := 2, move := some m });
        let a := s.dev.mot.aux[(7 : Fin 8)];
        Ready (specAuxMove 1) p ses1 s ∧ a.live = true ∧ a.moving = true ∧ a.presentMove = some (false, m)
          ∧ (parI p 4 4 - m.target.toInt).natAbs ≤ 0x7FFFFFFF ∧ a.followOn = none ∧ a.state ≠ 4)
      ∧ (let p := pk 0x92 1 (moveParams 5);
        let s := at' mReady p (auxOn fun a => { a with state := 3 });
        let a := s.dev.mot.aux[(7 : Fin 8)];
        Ready (specAuxMove 1) p ses1 s ∧ a.live = true ∧ a.moving = true ∧ a.presentMove = none
          ∧ (parI p 4 4 - a.pos.toInt).natAbs ≤ 0x7FFFFFFF ∧ a.followOn = none ∧ a.state ≠ 4) := by
  refine ⟨?_, ?_, ?_⟩ <;> decide +kernel

theorem witness_aux_profile :
    (let p := pk 0x93 0 ([7, 0, 0, 0] ++ leBytes 4 16777215 ++ leBytes 4 1 ++ leBytes 4 1);
      let s := at' mReady p (auxOn id);
      Ready specAuxProfile p ses1 s ∧ s.dev.mot.aux[(7 : Fin 8)].live = true ∧ reservedZero p 1 3
        ∧ within 1 16777215 (par p 4 4) ∧ within 1 16777215 (par p 8 4) ∧ within 1 16777215 (par p 12 4)
        ∧ replyFits p ses1.macRequired 8 = true)
      ∧ (∀ now : Bool, let p := pk 0x94 (if now then 1 else 0) [7];
        let s := at' mReady p (auxOn id);
        Ready (specAuxStop (if now then 1 else 0)) p ses1 s ∧ s.dev.mot.aux[(7 : Fin 8)].live = true)
      ∧ (let p := pk 0x97 0 [7]; Ready specAuxStatus p ses1 (at' mReady p) ∧ replyFits p ses1.macRequired 16 = true) := by
  refine ⟨?_, ?_, ?_⟩ <;> decide +kernel

theorem witness_aux_home :
    (let p := pk 0x95 0 ([7, 0, 15, 255, 1, 10, 2, 1] ++ leBytes 4 100 ++ leBytes 4 10 ++ leBytes 4 5 ++ leBytes 4 1000
        ++ leBytes 4 0);
      let s := at' mReady p (auxOn id);
      let a := s.dev.mot.aux[(7 : Fin 8)];
      Ready specAuxHome p ses1 s ∧ a.live = true ∧ (Ctx.mk s p ses1).needMethod 7 = .ok () ∧ a.moving = false
        ∧ a.state ≠ 4 ∧ ¬ par p 3 1 ≤ 15)
      ∧ (let p := pk 0x95 0 ([7, 0, 14, 15, 1, 10, 2, 1] ++ leBytes 4 100 ++ leBytes 4 10 ++ leBytes 4 5 ++ leBytes 4 1000
          ++ leBytes 4 0);
        let s := at' mReady p fun d => (auxOn id d).modMot fun m => { m with
          switches := vall (fun (w : Switch) => { w with active := true }) m.switches };
        Ready specAuxHome p ses1 s ∧ (Ctx.mk s p ses1).needMethod 7 = .ok () ∧ par p 3 1 ≤ 15
          ∧ (s.dev.mot.setDebounce [15, 14] 10).switchOn 15 = true)
      ∧ (let p := pk 0x96 0 ([7, 3, 3, 0] ++ leBytes 4 0xFFFFFFFF ++ leBytes 4 0xFFFFFFFF ++ leBytes 4 0);
        let s := at' mReady p (fun d => encMode3 1 (auxOn id d));
        Ready specAuxGear p ses1 s ∧ s.dev.mot.aux[(7 : Fin 8)].live = true ∧ par p 1 1 = (3 : Fin 4).val
          ∧ s.dev.pos.enc[(3 : Fin 4)].cfg.mode ≠ 0 ∧ within 0 3 (par p 2 1) ∧ reservedZero p 3 1 ∧ par p 4 4 ≠ 0
          ∧ within 1 0xFFFFFFFF (par p 8 4) ∧ getB 0 (par p 2 1) = true ∧ getB 1 (par p 2 1) = true
          ∧ s.dev.mot.aux[(7 : Fin 8)].moving = false)
      ∧ (let p := pk 0x96 0 ([7, 3, 1, 0] ++ leBytes 4 1 ++ leBytes 4 1 ++ leBytes 4 0);
        let s := at' mReady p (fun d => encMode3 1 (auxOn (fun a => { a with state := 4 }) d));
        Ready specAuxGear p ses1 s ∧ getB 0 (par p 2 1) = true ∧ getB 1 (par p 2 1) = false
          ∧ s.dev.mot.aux[(7 : Fin 8)].state = 4)
      ∧ (∀ geared : Bool, let p := pk 0x96 0 ([7, 3, 2, 0] ++ leBytes 4 1 ++ leBytes 4 1 ++ leBytes 4 0);
        let g : Gear := { channel := 3, num := 1, den := 1, c0 := 0 };
        let s := at' mReady p (fun d => encMode3 1 (auxOn (fun a => { a with gear := if geared then some g else none }) d));
        Ready specAuxGear p ses1 s ∧ getB 0 (par p 2 1) = false ∧ s.dev.mot.aux[(7 : Fin 8)].gear.isSome = geared) := by
  refine ⟨?_, ?_, ?_, ?_, ?_⟩ <;> decide +kernel

/-- That axis after it took a set-point and advanced. -/
def advanced : Dev := ((auxOn id (part mPrint)).auxTake 7).auxAdvance 7

theorem witness_aux_rows :
    (let d := auxOn id (part mPrint);
      d.hasAux = true ∧ d.sys.held = false ∧ d.mode ≠ mFallow ∧ d.mot.aux[(7 : Fin 8)].live = true
        ∧ |d.mot.aux[(7 : Fin 8)].amps 0| ≤ d.mot.aux[(7 : Fin 8)].irunMa.toNat * 125 / 100000
        ∧ d.mot.aux[(7 : Fin 8)].speed = 0 ∧ d.mot.aux[(7 : Fin 8)].moving = false)
      ∧ ((part mPrint).hasAux = true ∧ (part mPrint).mot.aux[(7 : Fin 8)].live = false)
      ∧ advanced.mot.aux[(7 : Fin 8)].live = true
      ∧ (advanced.fullStep 7 (auxOn id (part mPrint)).mot.aux[(7 : Fin 8)].pos).mot.aux[(7 : Fin 8)].live = true := by
  refine ⟨?_, ?_, ?_, ?_⟩ <;> decide +kernel

/-! ## Witnesses: OTP and device commands -/

theorem witness_otp_commands :
    (let p := pk 0xB0 0 [0xFF, 0x0F, 1, 0];
      let s := at' mReady p;
      Ready specOtpRead p ses1 s ∧ within 0 4095 (par p 0 2) ∧ within 1 338 (par p 2 2)
        ∧ replyFits p ses1.macRequired (12 * par p 2 2) = true ∧ par p 0 2 + par p 2 2 - 1 ≤ 4095
        ∧ s.dev.otp.queue = []
        ∧ replyFits p ses1.macRequired ((s.dev.otpReadRows s.rows (decide (rService ≤ ses1.role)) [4095]).2.length) = true)
      ∧ (let p := pk 0xB1 0 [0xFF, 0x0F, 0, 0, 1, 2, 3, 4, 5, 6, 7, 8];
        let s := at' mService p;
        Ready specOtpProgram p ses1 s ∧ par p 0 2 = 4095 ∧ otpRole 4095 = some rVendor
          ∧ reservedZero p 2 2 ∧ otpDataOk 4095 (par p 4 8) (ses1.role == rVendor) = true
          ∧ s.dev.otp.queue.length < 4 ∧ s.dev.otpBarred s.rows 4095 (ses1.role == rVendor) = false)
      ∧ (∀ code : Fin 3, let p := pk 0xB2 0 (BitVec.ofNat 8 (3 + code.val) :: List.replicate 23 0);
        let s := at' mService p;
        Ready specOtpFinalise p ses1 s ∧ par p 0 1 = 3 + code.val ∧ within 3 5 (par p 0 1)
          ∧ reservedZero p 1 3 ∧ s.dev.otp.queue.length < 4
          ∧ s.dev.finaliseBarred s.rows (otpRegion (3 + code.val)) = false)
      ∧ (let p := pk 0xB0 0 [0xFF, 0x0F, 1, 0];
        let s := at' mReady p fun d => d.modOtp fun o => { o with queue := [.program 4095 0 true] };
        Ready specOtpRead p ses1 s ∧ s.dev.otp.queue ≠ [] ∧ s.dev.otp.queue.length < 4) := by
  refine ⟨?_, ?_, ?_, ?_⟩ <;> decide +kernel

/-- A state with one queued OTP request. -/
def sOtp (q : OtpReq) : State := st mService fun d => d.modOtp fun o => { o with queue := [q] }

/-- With nothing posted, no read of the register has to end first. -/
theorem otpCmdDone_none (d : Dev) (rows : OtpRows) (h : d.mr.posted = []) : d.otpCmdDone rows = d := by
  unfold Dev.otpCmdDone
  rw [h]
  rfl

theorem witness_otp_execute :
    ((sOtp (.program 4095 5 true)).dev.otpCmdDone (sOtp (.program 4095 5 true)).rows = (sOtp (.program 4095 5 true)).dev
        ∧ (sOtp (.program 4095 5 true)).dev.sys.held = false
        ∧ (sOtp (.program 4095 5 true)).dev.otp.queue = [.program 4095 5 true]
        ∧ (sOtp (.program 4095 5 true)).dev.otpBarred (sOtp (.program 4095 5 true)).rows 4095 true = false)
      ∧ ((sOtp (.finalise 5 0 [])).dev.otpCmdDone (sOtp (.finalise 5 0 [])).rows = (sOtp (.finalise 5 0 [])).dev
        ∧ (sOtp (.finalise 5 0 [])).dev.sys.held = false ∧ (sOtp (.finalise 5 0 [])).dev.otp.queue = [.finalise 5 0 []]
        ∧ (sOtp (.finalise 5 0 [])).dev.finaliseBarred (sOtp (.finalise 5 0 [])).rows (otpRegion 5) = false) := by
  refine ⟨⟨otpCmdDone_none _ _ ?_, ?_⟩, otpCmdDone_none _ _ ?_, ?_⟩ <;> decide +kernel

theorem witness_device_commands :
    (let p := pk 0x12 0 []; Ready specDeviceInfo p ses1 (at' mReady p)
        ∧ replyFits p ses1.macRequired ((at' mReady p).dev.infoReply.length) = true)
      ∧ (let p := pk 0x13 0 []; Ready specDeviceStatus p ses1 (at' mReady p)
        ∧ replyFits p ses1.macRequired ((at' mReady p).dev.statusReply.length) = true)
      ∧ (let p := pk 0xA0 0 [0xBF, 2, 5, 0];
        Ready specFltClass p ses1 (at' mReady p) ∧ par p 0 2 = 0x2BF ∧ par p 2 1 = 5
          ∧ (at' mReady p).dev.sourceInUse 0x2BF = true ∧ lowestClass 0x2BF ≤ 5)
      ∧ (∀ on : Fin 2, let p := pk 0xA1 0 [0, 0, BitVec.ofNat 8 on.val, 0];
        Ready specFltForce p ses1 (at' mReady p) ∧ (at' mReady p).dev.sourceInUse (par p 0 2) = true
          ∧ within 0 1 (par p 2 1) ∧ reservedZero p 3 1)
      ∧ (let p := pk 0xA2 0 []; Ready (specFltRead 0 0) p ses1 (at' mReady p)
        ∧ replyFits p ses1.macRequired
          ((at' mReady p).dev.flt.firstRec.bytes ++ (at' mReady p).dev.flt.latestRec.bytes).length = true)
      ∧ (let p := pk 0xA2 1 [0xFF, 3, 1, 0];
        Ready (specFltRead 1 4) p ses1 (at' mReady p) ∧ par p 0 2 = 0x3FF ∧ within 1 1015 (par p 2 2)
          ∧ par p 0 2 + par p 2 2 ≤ 0x400 ∧ replyFits p ses1.macRequired (4 * par p 2 2) = true)
      ∧ (let p := pk 0xC0 0 [7, 7, 0xFF, 0x0F];
        let s := at' mTest p;
        Ready (specTmxSelect s.dev) p ses1 s ∧ s.dev.otp.debugOpen = true ∧ par p 0 1 = (7 : Fin 8).val ∧ par p 1 1 ≤ 7
          ∧ s.dev.dieHere (par p 1 1) = true ∧ within 0 4095 (par p 2 2))
      ∧ (part mReady).sys.held = false ∧ (part mReady).tmxLive = false ∧ (part mTest).tmxLive = true := by
  refine ⟨?_, ?_, ?_, ?_, ?_, ?_, ?_, ?_, ?_, ?_⟩ <;> decide +kernel

/-! ## Witnesses: faults and health -/

theorem witness_fault_rows :
    ((part mPrint).sys.held = false ∧ forcedOnly 0x000 = false ∧ (part mPrint).sourceInUse 0x000 = true
        ∧ (part mPrint).inputRead 0x000 = true ∧ (part mPrint).inputRead (idPortFlt 111) = false
        ∧ forcedOnly (idPortFlt 111) = false ∧ (part mPrint).sourceInUse (idPortFlt 111) = true)
      ∧ (part mPrint).sourceInUse 0x011 = true ∧ (∀ f : Fin 7, (part mPrint).sourceInUse (idDie f.val oTineLink) = true)
      ∧ occurrence 0x000 = false
      ∧ (let d := withPort 111 id (part mPrint);
        d.hasPort (111 : Fin 112).val = true ∧ d.ports[(111 : Fin 112)].on = true ∧ (111 : Fin 112).val / 16 = (6 : Fin 7).val)
      ∧ ((running 2).hasTax = true ∧ (running 2).mot.tax[(3 : Fin 4)].on = true)
      ∧ ((part mPrint).modFlt fun x => { x with gpioEnable := Tv.mk3 0x8000 }).flt.gpioEnable.val.getLsbD (15 : Fin 16).val
        = true
      ∧ (part mPrint).intakeOpen = true ∧ (part mPrint).mode ≠ mFallow := by
  refine ⟨?_, ?_, ?_, ?_, ?_, ?_, ?_, ?_, ?_⟩ <;> decide +kernel

theorem witness_reaction :
    ((part mPrint).modFlt fun x => { x with reaction := some { cls := 3, first := true } }).containDone = true
      ∧ ((part mPrint).modFlt fun x => { x with reaction := some { cls := 4, first := true } }).stopDone = true := by
  decide +kernel

theorem witness_health :
    (part mReady).sys.held = false ∧ (part mReady).mode ≠ mFallow
      ∧ ((part mReady).dieHere (7 : Fin 8).val = true ∧ (0xFFFF8 : Word).toNat < bankBytes 7 (1 : BitVec 4).toNat
        ∧ (0xFFFF8 : Word).toNat % 8 = 0)
      ∧ (∀ up ∈ [[], [CtrlMsg.commitAck]],
        let d := (part mReady).modDie 6 fun x => { x with tine := 2, ctrlWaitUp := up };
        d.tineUp 6 = true ∧ d.dies[6].ctrlWaitUp = up)
      ∧ (let d := (part mReady).modMr fun x => { x with flipped := [(7, 1, 0xFFFF8)], badWords := [(7, 1, 0)] };
        (7, 1, 0xFFFF8) ∈ d.mr.flipped ∧ (7, 1, 0xFFFF8) ∉ d.mr.badWords ∧ (7, 1, 0) ∈ d.mr.badWords)
      ∧ (part mReady).linkOn (.udp 0 0) = true ∧ (part mReady).eth.link = false
      ∧ ((part mReady).modEth fun x => { x with link := true }).eth.link = true
      ∧ (part mReady).pcieUp = true := by
  refine ⟨?_, ?_, ?_, ?_, ?_, ?_, ?_, ?_, ?_⟩ <;> decide +kernel

/-! ## Witnesses: starts, resets, references -/

/-- A part in cold BOOT at a step. -/
def booting (k : BitVec 4) : Dev := (part mBoot).modSys fun x => { x with bootStep := k }

theorem witness_starts :
    (Dev.reset.sys.held = true ∧ Dev.reset.sys.refLost = 0 ∧ Dev.reset.sys.porstN = false)
      ∧ (let d := Dev.reset.modSys fun x => { x with porstN := true };
        d.sys.held = true ∧ d.sys.refLost = 0 ∧ d.sys.porstN = true)
      ∧ ((booting 7).sys.held = false ∧ (booting 7).mode = mBoot ∧ (booting 7).sys.bootStep = 7
        ∧ (booting 7).halting = false ∧ (booting 7).coldBoot = true)
      ∧ ((part mPrint).sys.held = false ∧ (part mPrint).coldBoot = false ∧ (part mPrint).sys.wrstN = true)
      ∧ (let d := (part mPrint).modSys fun x => { x with wrstN := false };
        d.sys.held = false ∧ d.coldBoot = false ∧ d.sys.wrstN = false)
      ∧ (let d := (part mPrint).modSys fun x => { x with warmDue := true };
        d.sys.held = false ∧ d.coldBoot = false ∧ d.sys.wrstN = true ∧ d.sys.warmDue = true) := by
  refine ⟨?_, ?_, ?_, ?_, ?_, ?_⟩ <;> decide +kernel

/-- A cold start held at step 1 after one reference came back. -/
def restored (lost : BitVec 2) (c : Option ColdStart) : Dev :=
  let d := Dev.reset.modSys fun x => { x with refLost := lost, coldArgs := c };
  (d.modSys fun x => { x with refLost := x.refLost &&& ~~~(refBit true) }).causeGone (idRef true)

theorem witness_references :
    (∀ ft : Bool, (part mReady).sys.refLost &&& refBit ft = 0) ∧ (part mReady).sys.coldArgs = none
      ∧ (restored 1 none).sys.coldArgs = none
      ∧ ((restored 3 (some coldC)).sys.coldArgs = some coldC ∧ (restored 3 (some coldC)).sys.refLost ≠ 0)
      ∧ ((restored 1 (some coldC)).sys.coldArgs = some coldC ∧ (restored 1 (some coldC)).sys.refLost = 0
        ∧ (restored 1 (some coldC)).halting = false)
      ∧ ((booting 3).pci.perst = true ∧ (booting 3).coldBoot = true)
      ∧ ((part mReady).pci.perst = true ∧ (part mReady).sys.held = false ∧ (part mReady).coldBoot = false)
      ∧ ((part mReady).pcieUp = true ∧ (part mReady).mode ≠ mFallow) := by
  refine ⟨?_, ?_, ?_, ?_, ?_, ?_, ?_, ?_⟩ <;> decide +kernel

/-! ## Witnesses: intake and transports -/

/-- The bytes of a packet with no payload: a header with this Length field, and its CRC. -/
def bytes0 (length : Nat) : List Byte :=
  headerBytes 8 0 1 2 0x13 0 length 0 0 ++ leBytes 4 (crc32c (headerBytes 8 0 1 2 0x13 0 length 0 0)).toNat

/-- Queue pair 255 enabled, one slot waiting, with session 1 bound to it. -/
def onPair (d : Dev) : Dev :=
  d.modSes fun t =>
    { t with
      qp := vmod t.qp 255 fun y => { y with enable := true, sqTail := 1 }
      openS := [{ ses1 with via := .pcie 255 }] }

theorem witness_sq_fetch :
    (let d := onPair (part mReady);
      d.fetches 255 = true ∧ d.intakeOpen = true ∧ d.mode ≠ mFallow
        ∧ d.ses.qp[(255 : Fin 256)].sqHead ≠ d.ses.qp[(255 : Fin 256)].sqTail.toNat)
      ∧ ((part mReady).fetches 255 = false ∧ (onPair (part mReady)).takesSlot 255 = true)
      ∧ parsePacket (.pcie 255) 0 4096 0 (List.replicate 27 0) = none
      ∧ ((parsePacket (.pcie 255) 0 4096 0 (List.replicate 28 0)).map pktStep1 = some false)
      ∧ ((parsePacket (.pcie 255) 0 4096 0 (bytes0 1)).map fun p => (pktStep1 p, pktStep3 p)) = some (true, some none)
      ∧ ((parsePacket (.pcie 255) 0 4096 0 (bytes0 0)).map fun p =>
          (pktStep1 p, pktStep3 p, ((onPair (part mReady)).front p).2)) = some (true, none, true)
      ∧ ((parsePacket (.pcie 255) 0 4096 0 (bytes0 0)).map fun p =>
          (pktStep1 p, pktStep3 p, ((part mReady).front p).2)) = some (true, none, false) := by
  refine ⟨?_, ?_, ?_, ?_, ?_, ?_, ?_⟩ <;> decide +kernel

theorem witness_command_intake :
    ((part mReady).intakeOpen = true ∧ (part mReady).emptyBuffers.nextCommand = none)
      ∧ (let d := (part mReady).modSes fun t => { t with waiting := [{ packet := pk 0x13 0 [] }] };
        d.intakeOpen = true ∧ d.emptyBuffers.nextCommand = some { packet := pk 0x13 0 [] }
          ∧ (pk 0x13 0 []).variant.toNat < allocated (pk 0x13 0 []).opcode.toNat)
      ∧ (let d := (part mReady).modSes fun t => { t with waiting := [{ packet := pk 0x13 1 [] }] };
        d.emptyBuffers.nextCommand = some { packet := pk 0x13 1 [] }
          ∧ ¬ (pk 0x13 1 []).variant.toNat < allocated (pk 0x13 1 []).opcode.toNat) := by
  refine ⟨?_, ?_, ?_⟩ <;> decide +kernel

/-- The management port with address 0x0500000A. -/
def addressed (d : Dev) : Dev := d.modEth fun e => { e with ip := 0x0500000A, prefixLen := 24, valid := true, link := true }

/-- A datagram header before a packet. -/
def datagram : List Byte := [0x38, 0x5A, 0, 0, 7, 0, 0, 0, 28, 0, 0, 0, 0, 0, 0, 0] ++ bytes0 0

theorem witness_edges_of_transports :
    (let d := onPair (part mReady);
      d.sys.held = false ∧ d.linkOn (.pcie 255) = true ∧ d.mode ≠ mFallow ∧ d.doorbellOk 255 0 = true
        ∧ d.doorbellOk 255 16 = true)
      ∧ ((part mFallow).sys.held = false ∧ (part mFallow).linkOn (.pcie 255) = true ∧ (part mFallow).mode = mFallow)
      ∧ (let d := addressed (part mReady);
        d.sys.held = false ∧ d.linkOn (.udp 0 0) = true ∧ d.sys.bootFail ≠ 4 ∧ d.mode ≠ mFallow ∧ d.eth.valid = true
          ∧ udpHeaderOk datagram = true ∧ d.ses.ethRx.length < 16
          ∧ (parsePacket (.udp 0 0) (BitVec.ofNat 32 (pU datagram 4 4)) 4096 0 (datagram.drop 16)).isSome = true)
      ∧ 16 ≤ ((part mReady).modSes fun t => { t with ethRx := List.replicate 16 (pk 0x13 0 [], true) }).ses.ethRx.length
      ∧ prov9 ∈ ((part mReady).modSes fun t => { t with prov := [prov9] }).ses.prov
      ∧ ((part mReady).session? (1 : BitVec 8).toNat = some ses1 ∧ (part mReady).creditsUsed ses1 = 0
        ∧ ses1.reservedResponse = none) := by
  refine ⟨?_, ?_, ?_, ?_, ?_, ?_⟩ <;> decide +kernel

/-- A reply that waits for an SPI READ. -/
def reply1 : Reply :=
  { via := .spi, session := 1, seq := 1, flags := 0, opcode := 0x13, variant := 0, status := 0, tag := 0, params := []
    mac := [], replyAddr := 0 }

theorem witness_spi :
    ((part mReady).sys.held = false ∧ (part mReady).mode ≠ mFallow ∧ (part mReady).ses.spiRx.length < 2
        ∧ (part mReady).ses.spiOut = [] ∧ (part mFallow).sys.held = false ∧ (part mFallow).mode = mFallow
        ∧ (part mReady).sys.bootFail ≠ 4 ∧ (part mFallow).sys.bootFail ≠ 4
        ∧ ((part mBoot).modSys fun x => { x with bootFail := 4 }).sys.bootFail = 4)
      ∧ 2 ≤ ((part mReady).modSes fun t => { t with spiRx := [none, none] }).ses.spiRx.length
      ∧ ((part mReady).modSes fun t => { t with spiOut := [reply1] }).ses.spiOut = [reply1]
      ∧ (leBytes 4 (replyBytes reply1).length ++ replyBytes reply1).length = 32
      ∧ (List.replicate 4096 (0 : Byte)).length ≤ 4096 ∧ 4096 < (List.replicate 4097 (0 : Byte)).length := by
  refine ⟨?_, ?_, ?_, ?_, ?_, ?_⟩ <;> decide +kernel

/-! ## Witnesses: the register file -/

/-- The gate open on PF0. -/
def gated : Dev := (part mReady).modSes fun t => { t with gate := some 1 }

theorem witness_reach :
    (part mReady).reach .cp true = (part mReady, some true) ∧ (part mReady).reach .pf1 true = (part mReady, some false)
      ∧ gated.reach .pf0 true = (gated, some true) ∧ (part mReady).reach .pf0 false = (part mReady, some false)
      ∧ (part mReady).reach .spi false = (part mReady, some false) := by
  refine ⟨?_, ?_, ?_, ?_, ?_⟩ <;> rfl

theorem witness_registers :
    (∃ r, (part mReady).reg? 0xE008 = some r ∧ r.pv = true ∧ r.rw ≠ 0 ∧ r.block = none)
      ∧ (∃ r, (part mReady).reg? 0xC000 = some r ∧ r.pv = false ∧ r.rw = 0)
      ∧ (∃ r, (part mReady).reg? 0x4000 = some r ∧ r.pv = false ∧ r.rw ≠ 0 ∧ r.block = none)
      ∧ (∃ r, (part mReady).reg? 0x902C = some r ∧ r.pv = false ∧ r.rw ≠ 0 ∧ r.blockAt 0x902C = some .position)
      ∧ (∃ r, (part mReady).reg? 0xF004 = some r ∧ r.rw = 0 ∧ r.blockAt 0xF004 = some .otp)
      ∧ (∃ r, (part mReady).reg? 0x711C = some r ∧ r.pv = true ∧ r.blockAt 0x711C = some .ethernet)
      ∧ within 0x800 0xFFF (0x800 : Word).toNat ∧ within 0x3040 0x3FFF (0x3FFC : Word).toNat
      ∧ within 0x3000 0x303F (0x303C : Word).toNat ∧ (0x2FFC : Word).toNat = 0x1000 + 16 * (511 : Fin 512).val + 4 * 3
      ∧ 0x4000 ≤ (0x4000 : Word).toNat := by
  refine ⟨⟨_, rfl, ?_⟩, ⟨_, rfl, ?_⟩, ⟨_, rfl, ?_⟩, ⟨_, rfl, ?_⟩, ⟨_, rfl, ?_⟩, ⟨_, rfl, ?_⟩, ?_, ?_, ?_, ?_, ?_⟩ <;>
    decide +kernel

/-- A register write of the position block that is still posted. -/
def posted1 : Posted := { block := .position, master := .cp, privileged := true, address := 0x902C, words := [(1, 0xF)] }

theorem witness_blocks :
    (part mReady).blockBusy .position = false ∧ (part mReady).mr.posted = []
      ∧ ((part mReady).modMr fun x => { x with posted := [posted1] }).blockBusy .position = true
      ∧ ((part mReady).modMr fun x => { x with posted := [posted1] }).mr.posted.find? (fun y => y.block == .position)
        = some posted1
      ∧ ((part mReady).modMr fun x => { x with posted := [posted1] }).mr.posted.find? (fun y => y.block == .motion) = none
      ∧ ((part mReady).accessWaits .position = false
        ∧ ((part mReady).modDie 6 fun x => { x with ctrlWait := [.access] }).accessWaits (.die 6) = true)
      ∧ placeOf 0x0700FFFC = .register 0x0700FFFC ∧ (0x07FFFFFC : Word).toNat ≤ barTop := by
  refine ⟨?_, ?_, ?_, ?_, ?_, ?_, ?_, ?_⟩ <;> decide +kernel

/-- The alias of a bit: of a privileged register, of a bit that is read-only, of one that is not. -/
theorem witness_bit_alias :
    placeOf 0xFC010C = .bitAlias 0xE008 3 ∧ placeOf 0xE80014 = .bitAlias 0x4000 5
      ∧ placeOf 0xE80018 = .bitAlias 0x4000 6
      ∧ ((part mReady).reg? 0x4000).map (fun r => (getB 5 r.rw, getB 6 r.rw)) = some (false, true) := by
  refine ⟨?_, ?_, ?_, ?_⟩ <;> decide +kernel

theorem witness_own_registers :
    ((part mReady).otpBusy = false
        ∧ ((part mReady).modMr fun x => { x with posted := [{ posted1 with block := .otp }] }).otpBusy = true
        ∧ ((part mReady).modOtp fun o => { o with queue := [.program 4095 0 true] }).otpBusy = true)
      ∧ ((part mReady).eth.pendingMdio = false ∧ (part mReady).blockBusy .ethernet = false
        ∧ ((part mReady).modMr fun x => { x with posted := [{ posted1 with block := .ethernet }] }).blockBusy .ethernet = true)
      ∧ ((part mReady).modEth fun e => { e with pendingMdio := true }).eth.pendingMdio = true
      ∧ ((part mReady).hasPort (111 : Fin 112).val = true ∧ (111 : Fin 112).val / 16 = (6 : Fin 7).val) := by
  refine ⟨?_, ?_, ?_, ?_⟩ <;> decide +kernel

/-- A part whose Tine link to F6 is up, with a write posted to it. -/
def busyDie : Dev :=
  ((part mReady).modDie 6 fun x => { x with tine := 2 }).modMr fun x => { x with posted := [{ posted1 with block := .die 6 }] }

/-- A part with no furrow die but F0. -/
def oneDie : Dev := (part mReady).modOtp fun o => { o with feat := Tv.mk3 57 }

theorem witness_windows :
    (isWindow 0x4FFFFC = true ∧ windowBlock 0x4FFFFC = none)
      ∧ (isWindow 0x7100000 = true ∧ windowBlock 0x7100000 = some (.die 6) ∧ (part mReady).dieHere (0x7100000 / 2 ^ 24) = true
        ∧ (part mReady).blockBusy (.die 6) = false)
      ∧ (busyDie.dieHere (0x7100000 / 2 ^ 24) = true ∧ busyDie.blockBusy (.die 6) = true)
      ∧ (oneDie.hasDie 0 = true ∧ oneDie.hasDie (6 : Fin 7).val = false ∧ oneDie.dieHere (0x7100000 / 2 ^ 24) = false
        ∧ oneDie.tineUp 6 = false ∧ oneDie.sys.bootFail ≠ 4)
      ∧ ((part mReady).win? 0x500000).map (fun w => (w.addr, w.acts)) = some (0x100000, .set)
      ∧ (windowBlock 0x500000 = none ∧ isWindow 0x500000 = true ∧ isAlias 0x500000 = true ∧ isAlias 0x100000 = false) := by
  refine ⟨?_, ?_, ?_, ?_, ?_, ?_⟩ <;> decide +kernel

theorem witness_direct_reads :
    (placeOf 0xC000 = .register 0xC000 ∧ (3 : BitVec 4) ≠ 0xF ∧ (0x3FFF : Word).toNat < 0x4000)
      ∧ barTop < (0x08000000 : Word).toNat
      ∧ (let d := (part mReady).modSys fun x => { x with mgmtSec := true };
        (d.reach .spi true).2 = some true ∧ ((d.emit (.spiOut [d.spiStatusByte])).reach .spi true).2 = some true)
      ∧ ((part mFallow).sys.held = false ∧ (part mFallow).mode = mFallow ∧ (part mFallow).sys.bootFail ≠ 4) := by
  refine ⟨?_, ?_, ?_, ?_⟩ <;> decide +kernel

/-! ## Witnesses: the checks of Table 5.3 and the rules of the whole part -/

/-- A session below OPERATOR. -/
def low1 : Session := { ses1 with role := rObserver }

/-- A part with one furrow die and no motor. -/
def small (d : Dev) : Dev := { d with otp := { d.otp with feat := Tv.mk3 353 } }

theorem witness_absent_units :
    (let p := pk 0x55 0 [16]; let s := at' mReady p small; Ready specPortStatus p ses1 s ∧ s.dev.hasPort (par p 0 1) = false)
      ∧ (let p := pk 0x55 0 [112]; let s := at' mReady p; Ready specPortStatus p ses1 s ∧ s.dev.hasPort (par p 0 1) = false)
      ∧ (let p := pk 0x32 0 [32]; Ready specDmaStatus p ses1 (at' mReady p) ∧ 32 ≤ par p 0 1)
      ∧ (let p := pk 0x71 0 [4]; Ready specEncRead p ses1 (at' mReady p) ∧ 4 ≤ par p 0 1)
      ∧ (let p := pk 0x86 0 [0]; let s := at' mReady p small; Ready specTaxStatus p ses1 s ∧ s.dev.hasTax = false)
      ∧ (let p := pk 0x86 0 [4]; Ready specTaxStatus p ses1 (at' mReady p) ∧ 4 ≤ par p 0 1)
      ∧ (let p := pk 0x97 0 [0]; let s := at' mReady p small; Ready specAuxStatus p ses1 s ∧ s.dev.hasAux = false)
      ∧ (let p := pk 0x97 0 [8]; Ready specAuxStatus p ses1 (at' mReady p) ∧ 8 ≤ par p 0 1) := by
  refine ⟨?_, ?_, ?_, ?_, ?_, ?_, ?_, ?_⟩ <;> decide +kernel

theorem witness_absent_named :
    (let p := pk 0x60 0 (List.replicate 13 0 ++ [0x80, 0, 0]);
      let s := at' mCalibrate p small;
      Ready (specScanStart 0 mCalibrate) p ses1 s ∧ s.dev.mapPresent (par p 0 14) = false)
      ∧ (let p := pk 0x40 0 (16 :: List.replicate 23 0); Ready specSwathDefine p ses1 (at' mReady p) ∧ 16 ≤ par p 0 1)
      ∧ (let p := pk 0x66 0 (15 :: List.replicate 7 0);
        let s := at' mCalibrate p;
        Ready specPatternPrint p ses1 s ∧ s.dev.swaths[Fin.ofNat 16 (par p 0 1)].defined = false)
      ∧ (let p := pk 0x11 2 [112, 0];
        Ready (specReset 2 setO rOperator 2) p ses1 (at' mReady p) ∧ (at' mReady p).dev.hasPort (par p 0 2) = false)
      ∧ (let p := pk 0x11 3 [16, 0]; Ready (specReset 3 setO rOperator 2) p ses1 (at' mReady p) ∧ 16 ≤ par p 0 2)
      ∧ (let p := pk 0x11 4 [4, 0]; Ready (specReset 4 setO rOperator 2) p ses1 (at' mReady p) ∧ 4 ≤ par p 0 2)
      ∧ (let p := pk 0x11 5 [8, 0]; Ready (specReset 5 setO rOperator 2) p ses1 (at' mReady p) ∧ 8 ≤ par p 0 2)
      ∧ (let p := pk 0x11 7 [7, 0];
        Ready (specReset 7 setO rService 2) p ses1 (at' mReady p) ∧ (at' mReady p).dev.hasDie (par p 0 2) = false) := by
  refine ⟨?_, ?_, ?_, ?_, ?_, ?_, ?_, ?_⟩ <;> decide +kernel

theorem witness_refused :
    (let p := pk 0x90 0 [7];
      let s := at' mReady p (fun d => d.modSes fun t => { t with openS := [low1] });
      Taken specAuxConfig p low1 s ∧ specAuxConfig.role low1 (pktParams p) = false)
      ∧ (let p := pk 0x22 0 [0x08, 0xE0, 0, 0, 1, 0, 0, 0, 0, 0, 0, 0];
        let x := { ses1 with role := rOperator };
        let s := at' mReady p (fun d => d.modSes fun t => { t with openS := [x] });
        Taken specModifyWord p x s ∧ specModifyWord.role x (pktParams p) = true
          ∧ (specModifyWord.named s x (pktParams p)).isSome = true)
      ∧ (let p := pk 0x90 0 [7];
        Taken specAuxConfig p ses1 (at' mHalted p) ∧ specAuxConfig.role ses1 (pktParams p) = true
          ∧ specAuxConfig.named (at' mHalted p) ses1 (pktParams p) = none
          ∧ (at' mHalted p).dev.judgedMode ∉ specAuxConfig.modes)
      ∧ (let p := pk 0x90 0 [7];
        Taken specAuxConfig p ses1 (at' mReady p) ∧ (at' mReady p).dev.judgedMode ∈ specAuxConfig.modes
          ∧ specAuxConfig.len (pktParams p) = false)
      ∧ (let p := pk 0x10 0 [];
        Taken specSetMode p ses1 (at' mTest p) ∧ (at' mHalted p).dev.judgedMode ∉ specSetMode.modes
          ∧ (at' mReady p).dev.judgedMode ∈ specSetMode.modes ∧ specSetMode.len (pktParams p) = false)
      ∧ Taken specSetMode (pk 0x10 0 []) ses1 (at' mHalted (pk 0x10 0 []))
      ∧ Taken specSetMode (pk 0x10 0 []) ses1 (at' mReady (pk 0x10 0 [])) := by
  refine ⟨?_, ?_, ?_, ?_, ?_, ?_, ?_⟩ <;> decide +kernel

/-- A packet with its CRC. -/
def crcd (p : Packet) : Packet := { p with crc := crc32c (pktBody p) }

theorem witness_rejected :
    ((part mFallow).linkOn .spi = true ∧ (part mFallow).mode = mFallow)
      ∧ (let d := (part mReady).modSes fun t => { t with running := false }; d.mode ≠ mFallow ∧ d.intakeOpen = false)
      ∧ ((part mReady).intakeOpen = true ∧ (part mReady).queued (pk 0x13 0 []) = false
        ∧ pktStep1 (pk 0x13 0 []) = false ∧ (part mReady).takesSlot 255 = false)
      ∧ ((∀ via ∈ [Via.spi, .udp 0 0], arrivesOn (part mReady) { pk 0x13 0 [] with via := via } (part mReady))
        ∧ arrivesOn (onPair (part mReady)) { pk 0x13 0 [] with via := .pcie 255 } ((onPair (part mReady)).sqAdvance 255))
      ∧ (16 ≤ ((part mReady).modSes fun t => { t with ethRx := List.replicate 16 (pk 0x13 0 [], true) }).ses.ethRx.length
        ∧ 2 ≤ ((part mReady).modSes fun t => { t with spiRx := [none, none] }).ses.spiRx.length)
      ∧ (let p := crcd { pk 0x13 0 [] with length := 1 }; pktStep1 p = true ∧ pktStep3 p = some none)
      ∧ (let p := crcd { pk 0x13 0 [] with version := 7 }; pktStep1 p = true ∧ pktStep3 p = some (some (stBadParam, 0)))
      ∧ (let d := (part mReady).modSes fun t => { t with work := [{ packet := pk 0x12 0 [] }] };
        let p := crcd { pk 0x13 0 [] with seq := 2 };
        d.queued p = false ∧ (d.front p).2 = true ∧ ((d.front p).1.enqueue p).current ≠ none)
      ∧ ((part mReady).front (crcd { pk 0x13 0 [] with session := 9 })).2 = false
      ∧ (let d := (part mReady).modSes fun t => { t with work := [{ packet := pk 0x12 0 [] }], waiting := [{ packet := pk 0x13 0 [] }] };
        d.queued (pk 0x13 0 []) = true ∧ d.taken (pk 0x13 0 []) = false ∧ d.current ≠ none) := by
  refine ⟨?_, ?_, ?_, ⟨?_, rfl, rfl⟩, ?_, ?_, ?_, ?_, ?_, ?_⟩
  case refine_4 =>
    intro via h; simp only [List.mem_cons, List.not_mem_nil, or_false] at h
    rcases h with rfl | rfl <;> exact ⟨by decide, rfl⟩
  all_goals decide +kernel

theorem witness_boot_and_scan :
    ((booting 7).otp.coldScan = false ∧ ((booting 7).modOtp fun o => { o with coldScan := true }).otp.coldScan = true)
      ∧ ((booting 7).sys.held = false ∧ (booting 7).mode = mBoot ∧ (booting 7).sys.warm = false
        ∧ ((booting 7).modSys fun x => { x with wrstN := false }).sys.wrstN = false)
      ∧ (let d := (booting 3).modSys fun x => { x with warm := true, wrstN := false };
        d.sys.held = false ∧ d.mode = mBoot ∧ d.sys.warm = true ∧ d.sys.wrstN = false)
      ∧ (let d := (part mCalibrate).modPort 111 fun p => { p with scan := { p.scan with state := 1, next := 10239 } };
        d.ports[(111 : Fin 112)].scan.state = 1 ∧ d.ports[(111 : Fin 112)].scan.next = 10239 ∧ d.mr.badWords = []
          ∧ State.reset.mem.wf = true)
      ∧ 15292 ≤ (16383 : BitVec 14).toNat
      ∧ ((2 * 7000 - 1) * 32768 ≤ 2 * ((15291 : BitVec 14).toNat * 15000)
        ∧ 2 * ((15291 : BitVec 14).toNat * 15000) < (2 * 7000 + 1) * 32768) := by
  refine ⟨?_, ?_, ?_, ?_, ?_, ?_⟩ <;> decide +kernel

theorem witness_queue_pair :
    (onPair (part mReady)).reach .pf0 true = (onPair (part mReady), some false)
      ∧ (onPair (part mReady)).ses.qp[(255 : Fin 256)].enable = true
      ∧ (onPair (part mReady)).ses.qp[(255 : Fin 256)].entries.toNat = 17
      ∧ ((0x01FF0111 : Word).getLsbD 8 = true ∧ (0x01FF0111 : Word).toNat % 128 = 17)
      ∧ ((0x01FF0110 : Word).getLsbD 8 = true ∧ (0x01FF0110 : Word).toNat % 128 = 16)
      ∧ (0x01FF0041 : Word).getLsbD 8 = false ∧ (0x5FEC : Word).toNat = 0x4000 + 0x20 * (255 : Fin 256).val + 0xC := by
  refine ⟨rfl, ?_, ?_, ?_, ?_, ?_, ?_⟩ <;> decide +kernel

/-- Session 1 over PCIe, subscribed to class 15, whose number is 5. -/
def subscribed : Dev :=
  ((part mReady).modSes fun t => { t with openS := [{ ses1 with via := .pcie 0, subs := 0x8000 }] }).modEv fun e =>
    { e with seq := e.seq.set 15 5 }

theorem witness_event_ack :
    after 6 subscribed.ev.seq[(15 : Fin 16)] = true ∧ after 5 subscribed.ev.seq[(15 : Fin 16)] = false
      ∧ after 4 subscribed.ev.seq[(15 : Fin 16)] = false ∧ (4 : Word) ≠ subscribed.ev.seq[(15 : Fin 16)]
      ∧ (∃ x ∈ subscribed.ses.openS, x.subs.getLsbD 15 = true ∧ viaPcie x.via = true)
      ∧ subscribed.reach .pf1 true = (subscribed, some false) := by
  refine ⟨?_, ?_, ?_, ?_, ?_, rfl⟩ <;> decide +kernel

/-- A source that is not in use. -/
theorem witness_fault_source :
    (let p := pk 0xA0 0 [0xC0, 2, 0, 0];
      Ready specFltClass p ses1 (at' mReady p) ∧ (at' mReady p).dev.sourceInUse (par p 0 2) = false)
      ∧ (let p := pk 0xA1 0 [0xC0, 2, 1, 0];
        Ready specFltForce p ses1 (at' mReady p) ∧ (at' mReady p).dev.sourceInUse (par p 0 2) = false)
      ∧ (part mReady).furrowDies = 7 := by
  refine ⟨?_, ?_, ?_⟩ <;> decide +kernel

theorem witness_queue :
    ({ st mReady with pending := [.tvScrub, .cpFail] } : State).pending = .tvScrub :: [.cpFail]
      ∧ (State.reset.pending = [] ∧ State.reset.dev.sys.held = true)
      ∧ ((st mReady).pending = [] ∧ (st mReady).dev.sys.held = false ∧ (st mReady).dev.sys.changing = false
        ∧ (∀ gp : Fin 112, (st mReady).dev.ports[gp].piece = none ∧ (st mReady).dev.ports[gp].heat.hotDue = false)
        ∧ (let x : Piece :=
            { spit := false, start := 0, lineAt := 0, slotNs := 1, lineNs := 1, stop := (part mReady).fireNow 0 };
          (withPort 0 (fun p => { p with piece := some x }) (part mReady)).ports[0].piece = some x
            ∧ x.stop ≤ (withPort 0 (fun p => { p with piece := some x }) (part mReady)).fireNow 0))
      ∧ State.reset.mem.wf = true
      ∧ (otpGet [(0, { ones := 16 })] 0).ones.getLsbD 4 = true
      ∧ (scrubTv (n := 3) 0 (fun x => x ≤ 5) (Tv.mk3 6)).val = 0 := by
  refine ⟨rfl, ⟨rfl, ?_⟩, ⟨rfl, ?_, ?_, ?_, rfl, le_of_eq rfl⟩, ?_, ?_, ?_⟩ <;> decide +kernel

/-- Commands that answer without a change of memory, and a next state of each. -/
theorem witness_answers :
    mayWriteMemory (.readWords (pk 0x20 0 [])) = true ∧ mayWriteMemory .tvScrub = false
      ∧ (∃ t, exec .tvScrub (st mReady) = .next t) ∧ (∃ t, step (st mReady) = .next t) :=
  ⟨rfl, rfl, ⟨_, rfl⟩, ⟨_, rfl⟩⟩

/-! ## One step on a small state -/

/-- The next state of a command. -/
def after1 (c : Instr) (s : State) : Option State :=
  match exec c s with
  | .next t => some t
  | _ => none

/-- Channel 0 in quadrature mode. -/
def quad (f : EncCopy → EncCopy := id) (d : Dev) : Dev :=
  d.modEnc 0 fun e =>
    { e with cfg := { e.cfg with mode := 1 }, copies := vall (fun c => f { c with a := false, b := false }) e.copies }

/-- R311: 00 to 10 is forward; R317: the step past 0x7FFF_FFFF wraps and counts a wrap. -/
theorem test_edge_forward_wraps :
    (after1 (.quadratureEdge 0 true false false) (st mPrint (quad fun c => { c with count := 0x7FFFFFFF }))).map
      (fun t => (((t.dev.pos.enc[(0 : Fin 4)].copies[(0 : Fin 8)]).count), ((t.dev.pos.enc[(0 : Fin 4)].copies[(7 : Fin 8)]).wrap)))
      = some (0x80000000, 1) := by
  decide +kernel

/-- R311: both signals at once leave the count and add to the sequence errors. -/
theorem test_edge_sequence_error :
    (after1 (.quadratureEdge 0 true true false) (st mPrint (quad id))).map
      (fun t => ((t.dev.pos.enc[(0 : Fin 4)].copies[(0 : Fin 8)]).count, t.dev.pos.enc[(0 : Fin 4)].seqErr)) = some (0, 1) := by
  decide +kernel

/-- DEVICE_STATUS is answered ST_OK to its sender. -/
theorem test_device_status_answers :
    (after1 (.deviceStatus (pk 0x13 0 [])) (at' mReady (pk 0x13 0 []))).map
      (fun t => t.dev.ses.spiOut.map fun r => (r.opcode, r.status)) = some [(0x13, 0xFFFF0000)] := by
  decide +kernel

/-- DMA_CONFIG with a reserved byte is refused with ST_BAD_PARAM at byte 30 and configures nothing. -/
theorem test_dma_config_reserved :
    (let p := pk 0x30 0 [31, 1, 15, 7, 0, 0, 1, 0];
      (after1 (.dmaConfig p) (at' mReady p)).map
        (fun t => (t.dev.ses.spiOut.map (fun r => r.status), t.dev.dma.ch[(31 : Fin 32)].state))
        = some ([0x001E0013], 3)) := by
  decide +kernel

/-- R433's example as a write: the alias of FLT_GPIO bit 3 sets that Enable bit alone. -/
theorem test_alias_sets_gpio3 :
    (after1 (.bitAliasWrite .pf0 0xFC010C 1) (st mReady fun d => d.modSes fun t => { t with gate := some 1 })).map
      (fun t => (t.dev.flt.gpioEnable.val, t.dev.flt.gpioHigh.val)) = some (8, 0) := by
  decide +kernel

/-- R301: a write through the SET alias ORs into the job context's word. -/
theorem test_set_alias :
    (after1 (.aliasWrite .pf0 0x500000 0xF0 0xF) { st mReady with mem := { win := [(0x100000, 0x0F)] } }).map
      (fun t => t.mem.win) = some [(0x100000, 0xFF)] := by
  decide +kernel

/-- SPI_UNKNOWN_OPERATION counts in SES_DROP_SPI. -/
theorem test_spi_unknown :
    (after1 .spiUnknownOperation (st mReady)).map (fun t => t.dev.ses.dropSpi) = some 1 := by
  decide +kernel

/-- R98: a RESET of the own session is answered, and then the session is gone. -/
theorem test_reset_own_session :
    (let p := pk 0x11 6 [1, 0];
      (after1 (.resetSession p) (at' mReady p)).map (fun t => (t.dev.ses.openS.length, t.dev.ses.freeIds.getLast?))
        = some (0, some 1)) := by
  decide +kernel

end Sys2Proof.Tests
end

section
/-! SUPPORT. A command that names a unit the variant lacks is refused at that field (R6, R139): the check of the unit is
the first of every body, so nothing behind it runs. -/

namespace Sys2Proof.Laws

open Machine

/-! ## Checks in front of a body -/

/-- A body whose first check refuses is refused with that check's answer, whatever stands behind it. -/
theorem bind_of_error {α β : Type} {m : Chk α} {e : Nat × Nat} (h : m = .error e) (f : α → Chk β) :
    m >>= f = .error e := by
  rw [h]; rfl

/-- A field with a range and then a presence check, as RESET and PATTERN_PRINT read their unit: the number out of range and
the unit absent are refused alike, at the field. -/
theorem rangePresent_error {β : Type} {ps : List Byte} {o n lo hi : Nat} {b : Bool} (f : Unit → Chk β)
    (h : b = false ∨ ¬ within lo hi (pU ps o n)) :
    (needRange ps o n lo hi >>= fun _ => needP b o >>= f) = .error (stBadParam, 24 + o) := by
  by_cases hr : within lo hi (pU ps o n)
  · have hb : b = false := h.resolve_right (not_not_intro hr)
    rw [needRange_of hr, needP_error hb]; rfl
  · exact bind_of_error (needRange_error hr) _

/-- A number past the last unit is out of the range of its field. -/
theorem not_within_of_lt {hi n : Nat} (h : hi < n) : ¬ within 0 hi n := fun hw => absurd hw.2 (by omega)

/-! ## The auxiliary checks that begin with the axis -/

section
variable {c : Ctx}

theorem needLive_error (h : c.d.hasAux = false ∨ 8 ≤ pU c.ps 0 1) : c.needLive = .error (stBadParam, 24) :=
  bind_of_error (needAux_error h) _

theorem needMove_error (h : c.d.hasAux = false ∨ 8 ≤ pU c.ps 0 1) : c.needMove = .error (stBadParam, 24) :=
  bind_of_error (needLive_error h) _

theorem needMapEdit_error (h : c.d.hasPort (pU c.ps 0 1) = false) : c.needMapEdit = .error (stBadParam, 24) :=
  bind_of_error (needPort_error h) _

end

/-! ## The rows that name a unit in their first byte -/

section
variable {s : State} {p : Packet} {x : Session}

/-- Every row that names a port refuses one the variant lacks. -/
theorem portRows_refuse_absent (h : s.dev.hasPort (par p 0 1) = false) :
    ∀ r ∈ portRows ++ nozzleRows, Judged (r.spec s.dev) p x s → exec (r.instr p) s = refused s p stBadParam 24 := by
  have hport : (Ctx.mk s p x).needPort = .error (stBadParam, 24) := needPort_error h
  have hedit : (Ctx.mk s p x).needMapEdit = .error (stBadParam, 24) := needMapEdit_error h
  simp only [portRows, nozzleRows, List.cons_append, List.nil_append, List.forall_mem_cons]
  exact ⟨fun hj => onDev_error hj (bind_of_error hport _),  -- PORT_CONFIG
    fun hj => onDev_error hj (bind_of_error hport _),       -- PORT_ENABLE
    fun hj => onMem_error hj (bind_of_error hport _),       -- WAVE_WRITE
    fun hj => onDev_error hj (bind_of_error hport _),       -- HEAT_CONFIG
    fun hj => onDev_error hj (bind_of_error hport _),       -- PULSE_AUX
    fun hj => onDev_error hj (bind_of_error hport _),       -- PORT_STATUS
    fun hj => onMem_error hj (bind_of_error hedit _),       -- MAP_EDIT, a run
    fun hj => onMem_error hj (bind_of_error hedit _),       -- MAP_EDIT, a list
    fun hj => onDev_error hj (bind_of_error hport _),       -- MAP_READ
    fun hj => onDev_error hj (bind_of_error hport _),       -- RAW_READ
    fun hj => onDev_error hj (bind_of_error hport _),       -- BAND_SET
    fun hj => onMem_error hj (bind_of_error hport _),       -- CAL_WRITE
    List.forall_mem_nil _⟩

/-- Every DMA row refuses a channel past 31. -/
theorem dmaRows_refuse_absent (h : 32 ≤ par p 0 1) :
    ∀ r ∈ dmaRows, Judged (r.spec s.dev) p x s → exec (r.instr p) s = refused s p stBadParam 24 := by
  have hch : needRange (pktParams p) 0 1 0 31 = .error (stBadParam, 24) := needRange_error (not_within_of_lt h)
  simp only [dmaRows, List.forall_mem_cons]
  exact ⟨fun hj => onDev_error hj (bind_of_error hch _),  -- DMA_CONFIG
    fun hj => onDev_error hj (bind_of_error hch _),       -- DMA_POST
    fun hj => onDev_error hj (bind_of_error hch _),       -- DMA_STATUS
    fun hj => onDev_error hj (bind_of_error hch _),       -- DMA_CONTROL, resume
    fun hj => onDev_error hj (bind_of_error hch _),       -- DMA_CONTROL, discard
    fun hj => onDev_error hj (bind_of_error hch _),       -- DMA_CONTROL, stop
    List.forall_mem_nil _⟩

/-- Every encoder row refuses a channel, or an output, past 3. -/
theorem encoderRows_refuse_absent (h : 4 ≤ par p 0 1) :
    ∀ r ∈ encoderRows, Judged (r.spec s.dev) p x s → exec (r.instr p) s = refused s p stBadParam 24 := by
  have henc : (Ctx.mk s p x).needEnc = .error (stBadParam, 24) := needEnc_error h
  simp only [encoderRows, List.forall_mem_cons]
  exact ⟨fun hj => onDev_error hj (bind_of_error henc _),     -- ENC_CONFIG
    fun hj => onDev_error hj (bind_of_error henc _),          -- ENC_READ
    fun hj => onDev_error hj (dif_neg (Nat.not_lt.mpr h)),    -- ENCOUT_CONFIG
    fun hj => onDev_error hj (bind_of_error henc _),          -- ENC_PRESET
    List.forall_mem_nil _⟩

/-- Every transport row but BUS_CONFIG, which names no axis, refuses an axis the variant lacks. -/
theorem transportRows_refuse_absent (h : s.dev.hasTax = false ∨ 4 ≤ par p 0 1) :
    ∀ r ∈ transportRows, (r.spec s.dev).opcode ≠ 0x85 → Judged (r.spec s.dev) p x s →
      exec (r.instr p) s = refused s p stBadParam 24 := by
  have htax : (Ctx.mk s p x).needTax = .error (stBadParam, 24) := needTax_error h
  simp only [transportRows, List.forall_mem_cons]
  exact ⟨fun _ hj => onDev_error hj (bind_of_error htax _),  -- TAX_CONFIG
    fun _ hj => onDev_error hj (bind_of_error htax _),       -- TAX_ADVANCE
    fun _ hj => onDev_error hj (bind_of_error htax _),       -- TAX_ENABLE
    fun _ hj => onDev_error hj (bind_of_error htax _),       -- TAX_SPEED
    fun _ hj => onDev_error hj (bind_of_error htax _),       -- TAX_MASTER
    fun hop _ => absurd rfl hop,                             -- BUS_CONFIG
    fun _ hj => onDev_error hj (bind_of_error htax _),       -- TAX_STATUS
    List.forall_mem_nil _⟩

/-- Every auxiliary row refuses an axis the variant lacks. -/
theorem auxiliaryRows_refuse_absent (h : s.dev.hasAux = false ∨ 8 ≤ par p 0 1) :
    ∀ r ∈ auxiliaryRows, Judged (r.spec s.dev) p x s → exec (r.instr p) s = refused s p stBadParam 24 := by
  have haux : (Ctx.mk s p x).needAux = .error (stBadParam, 24) := needAux_error h
  have hlive : (Ctx.mk s p x).needLive = .error (stBadParam, 24) := needLive_error h
  have hmove : (Ctx.mk s p x).needMove = .error (stBadParam, 24) := needMove_error h
  simp only [auxiliaryRows, List.forall_mem_cons]
  exact ⟨fun hj => onDev_error hj (bind_of_error haux _),  -- AUX_CONFIG
    fun hj => onDev_error hj (bind_of_error haux _),       -- AUX_ENABLE
    fun hj => onDev_error hj (bind_of_error hmove _),      -- AUX_MOVE, absolute
    fun hj => onDev_error hj (bind_of_error hmove _),      -- AUX_MOVE, follow-on
    fun hj => onDev_error hj (bind_of_error hmove _),      -- AUX_MOVE, relative
    fun hj => onDev_error hj (bind_of_error hmove _),      -- AUX_PROFILE
    fun hj => onDev_error hj (bind_of_error hlive _),      -- AUX_STOP, ramp
    fun hj => onDev_error hj (bind_of_error hlive _),      -- AUX_STOP, now
    fun hj => onDev_error hj (bind_of_error hlive _),      -- AUX_HOME
    fun hj => onDev_error hj (bind_of_error hlive _),      -- AUX_GEAR
    fun hj => onDev_error hj (bind_of_error haux _),       -- AUX_STATUS
    List.forall_mem_nil _⟩

/-- SCAN_START, foreground and background, refuses a port map that names an absent port. -/
theorem scanRows_refuse_absent (h : s.dev.mapPresent (par p 0 14) = false) :
    ∀ r ∈ scanRows, Judged (r.spec s.dev) p x s → exec (r.instr p) s = refused s p stBadParam 24 := by
  have hmap : ∀ state, scanStartCmd state ⟨s, p, x⟩ = .error (stBadParam, 24) := fun _ =>
    bind_of_error (needP_error (Bool.and_eq_false_iff.mpr (.inl h))) _
  simp only [scanRows, List.forall_mem_cons]
  exact ⟨fun hj => onDev_error hj (hmap 1), fun hj => onDev_error hj (hmap 2), List.forall_mem_nil _⟩

/-! ## Swaths, and the Unit field of RESET -/

theorem swathDefine_refuses_absent (hj : Judged specSwathDefine p x s) (h : 16 ≤ par p 0 1) :
    exec (.swathDefine p) s = refused s p stBadParam 24 :=
  onDev_error hj (bind_of_error (needRange_error (not_within_of_lt h)) _)

theorem patternPrint_refuses_undefined (hj : Judged specPatternPrint p x s)
    (h : 16 ≤ par p 0 1 ∨ s.dev.swaths[Fin.ofNat 16 (par p 0 1)].defined = false) :
    exec (.patternPrint p) s = refused s p stBadParam 24 :=
  onDev_error hj (rangePresent_error _ (h.symm.imp_right not_within_of_lt))

theorem resetPort_refuses_absent (hj : Judged (specReset 2 setO rOperator 2) p x s)
    (h : s.dev.hasPort (par p 0 2) = false) : exec (.resetPort p) s = refused s p stBadParam 24 :=
  onDev_error hj (rangePresent_error _ (.inl h))

theorem resetSwath_refuses_absent (hj : Judged (specReset 3 setO rOperator 2) p x s) (h : 16 ≤ par p 0 2) :
    exec (.resetSwath p) s = refused s p stBadParam 24 :=
  onDev_error hj (bind_of_error (needRange_error (not_within_of_lt h)) _)

theorem resetTransportAxis_refuses_absent (hj : Judged (specReset 4 setO rOperator 2) p x s)
    (h : s.dev.hasTax = false ∨ 4 ≤ par p 0 2) : exec (.resetTransportAxis p) s = refused s p stBadParam 24 :=
  onDev_error hj (rangePresent_error _ (h.imp_right not_within_of_lt))

theorem resetAuxiliaryAxis_refuses_absent (hj : Judged (specReset 5 setO rOperator 2) p x s)
    (h : s.dev.hasAux = false ∨ 8 ≤ par p 0 2) : exec (.resetAuxiliaryAxis p) s = refused s p stBadParam 24 :=
  onDev_error hj (rangePresent_error _ (h.imp_right not_within_of_lt))

theorem resetFurrowDie_refuses_absent (hj : Judged (specReset 7 setO rService 2) p x s)
    (h : s.dev.hasDie (par p 0 2) = false) : exec (.resetFurrowDie p) s = refused s p stBadParam 24 :=
  onDev_error hj (rangePresent_error _ (.inl h))

end

/-- Settles O13: the unit is the first field each of these commands checks, so the refusal comes before any effect. -/
theorem absentUnitsAreRefused : Obligations.AbsentUnitsAreRefused := by
  intro s p x
  exact ⟨fun r hr hj h => portRows_refuse_absent h r hr hj,
    fun r hr hj h => dmaRows_refuse_absent h r hr hj,
    fun r hr hj h => encoderRows_refuse_absent h r hr hj,
    fun r hr hop hj h => transportRows_refuse_absent h r hr hop hj,
    fun r hr hj h => auxiliaryRows_refuse_absent h r hr hj,
    fun r hr hj h => scanRows_refuse_absent h r hr hj,
    swathDefine_refuses_absent,
    patternPrint_refuses_undefined,
    resetPort_refuses_absent,
    resetSwath_refuses_absent,
    resetTransportAxis_refuses_absent,
    resetAuxiliaryAxis_refuses_absent,
    resetFurrowDie_refuses_absent⟩

end Sys2Proof.Laws
end

section
/-! SUPPORT. What the fabric finds at an offset of a furrow die the variant lacks: no register, no word of a memory window,
no posted write. Reads there give 0 and writes are dropped (R12). -/

namespace Sys2Proof.Laws

open Machine

/-! ## What an offset of a die names -/

/-- A word of a die's windows belongs to a port of that die: every window of Table 19.4 is 16 equal parts. -/
theorem dieWin_gp {f off : Nat} {w : WinWord} (h : dieWin f off = some w) : w.gp / 16 = f := by
  simp only [dieWin, Bool.and_eq_true, decide_eq_true_eq] at h
  repeat' split at h
  all_goals simp only [Option.some.injEq, reduceCtorEq] at h
  all_goals subst h; dsimp only; omega

section
variable {d : Dev} {f : Fin 7} {a : Nat}

theorem placeOf_window (h : isWindow a = true) : placeOf a = .window a := by
  simp only [isWindow, Bool.and_eq_true, decide_eq_true_eq] at h
  simp only [placeOf]
  rw [if_neg (by omega), if_neg (by omega)]

/-- An offset outside the windows names a register, or one bit of a register of the same die (R433). -/
theorem placeOf_notWindow (h : isWindow a = false) :
    placeOf a = .register a ∨ ∃ r b, placeOf a = .bitAlias r b ∧ r / 2 ^ 24 = a / 2 ^ 24 := by
  simp only [isWindow, Bool.and_eq_false_iff, decide_eq_false_iff_not] at h
  simp only [placeOf]
  by_cases hr : a % 2 ^ 24 < 0x100000
  · exact .inl (if_pos hr)
  · rw [if_neg hr, if_pos (by omega)]
    exact .inr ⟨_, _, rfl, by omega⟩

theorem windowBlock_die (ha : a / 2 ^ 24 = f.val + 1) : windowBlock a = some (.die f) := by
  have hf := f.isLt
  rw [windowBlock, dif_pos (by omega)]
  simp only [ha, Nat.add_sub_cancel]

/-- What a read of a die is ordered behind: the writes posted to that die (R432). -/
theorem blocksOf_die (ha : a / 2 ^ 24 = f.val + 1) : blocksOf a = [.die f] := by
  rw [blocksOf, windowBlock_die ha]

theorem reg?_absentDie (hd : d.hasDie f.val = false) (ha : a / 2 ^ 24 = f.val + 1) : d.reg? a = none := by
  have hf := f.isLt
  have hdie : d.hasDie (a / 2 ^ 24 - 1) = false := by rwa [ha]
  unfold Dev.reg?
  split
  · rfl
  · rw [if_neg (by omega), dif_pos (by omega), hdie]; rfl

theorem win?_absentDie (hd : d.hasDie f.val = false) (ha : a / 2 ^ 24 = f.val + 1) : d.win? a = none := by
  rw [Dev.win?, if_neg (by omega), ha, Nat.add_sub_cancel]
  cases hw : dieWin f.val (a % 2 ^ 24) with
  | none => rfl
  | some w => simp [Dev.hasPort, dieWin_gp hw, hd]

end

/-! ## Reads -/

theorem settle_of_none (rows : OtpRows) {p : Posted → Bool} {d : Dev} (m : Banks) (h : ∀ x ∈ d.mr.posted, p x = false) :
    settle rows p d m = (d, m) := by
  have hfirst : postedFirst rows p d m = (d, m) := by
    rw [postedFirst, List.find?_eq_none.mpr fun x hx => by simp [h x hx]]
  unfold settle
  induction d.mr.posted.length with
  | zero => rfl
  | succ n ih => rw [postedAll, hfirst]; exact ih

section
variable {d : Dev} {f : Fin 7} {a : Nat} (hd : d.hasDie f.val = false) (ha : a / 2 ^ 24 = f.val + 1)
include hd ha

/-- A word read at an absent die is 0, and the read changes nothing. -/
theorem busRead_absentDie (rows : OtpRows) (w : Master) (priv : Bool) (m : Banks)
    (hp : ∀ x ∈ d.mr.posted, x.block ≠ .die f) : busRead rows w priv d m a = (d, m, 0) := by
  have hs : settleReads rows w a d m = (d, m) :=
    settle_of_none rows m fun x hx => by simp [blocksOf_die ha, hp x hx]
  have hreg {r : Nat} (hr : r / 2 ^ 24 = a / 2 ^ 24) :
      d.takeLatches m w r = d ∧ d.regSeen m w priv r = 0 := by
    simp [Dev.takeLatches, Dev.regSeen, reg?_absentDie hd (hr.trans ha)]
  unfold busRead
  split
  · rfl
  · rw [hs]
    cases hw : isWindow a with
    | true => simp [placeOf_window hw, windowRead, win?_absentDie hd ha]
    | false =>
      rcases placeOf_notWindow hw with hr | ⟨r, b, hb, hr⟩
      · simp [hr, hreg rfl]
      · simp [hb, hreg hr, getF]

/-! ## Writes -/

/-- A word written to a window of an absent die is dropped at once: there is no link to post it over. -/
theorem windowPost_absentDie (rows : OtpRows) (w : Master) (priv : Bool) (m : Banks) (v : Word) (be : BitVec 4) :
    windowPost rows w priv false d m a [(v, be)] = (d.memWrDrop, m) := by
  have hstore : windowStore (d, m) a [(v, be)] = (d.memWrDrop, m) := by
    simp [windowStore, Dev.fillsWord, windowWrite, win?_absentDie hd ha]
  unfold windowPost
  split
  · rfl
  · rw [windowBlock_die ha]
    have hhere : d.dieHere (a / 2 ^ 24) = false := by rw [ha]; simp [Dev.dieHere, hd]
    simp only [hhere, hstore]; rfl

/-- A word written to a register of an absent die, or to a bit of one, is dropped and counted. -/
theorem busWrite_absentDie (rows : OtpRows) (w : Master) (priv : Bool) (m : Banks) (v : Nat) (be : BitVec 4)
    (hw : isWindow a = false) : busWrite rows w priv false d m a v be = (d.memWrDrop, m) := by
  rcases placeOf_notWindow hw with hr | ⟨r, b, hb, hr⟩
  · simp [busWrite, hr, regWrite, reg?_absentDie hd ha]
  · simp [busWrite, hb, bitWrite, reg?_absentDie hd (hr.trans ha)]

end

/-! ## Direct accesses -/

section
variable {s : State} {m : Master} {d : Dev} {f : Fin 7} {a : Nat} {priv : Bool}
  (hd : d.hasDie f.val = false) (ha : a / 2 ^ 24 = f.val + 1) (htop : a ≤ barTop)
include hd ha htop

theorem directRead_absentDie (hr : s.dev.reach m false = (d, some priv)) (hp : ∀ x ∈ d.mr.posted, x.block ≠ .die f)
    (hboot : isWindow a = true → d.sys.bootFail ≠ 4) : directRead m a s = (d.readOut m 0, s.mem) := by
  have hopen : (decide (d.sys.bootFail = 4) && isWindow a) = false := by
    cases hw : isWindow a with
    | true => rw [decide_eq_false (hboot hw)]; rfl
    | false => simp
  simp only [directRead, hr, busRead_absentDie hd ha _ _ _ _ hp, hopen, if_neg (Nat.not_lt.mpr htop)]
  rfl

theorem directReg_absentDie (hr : s.dev.reach m true = (d, some priv)) (v : Nat) (be : BitVec 4)
    (hw : isWindow a = false) : directReg m a v be s = d.memWrDrop := by
  rcases placeOf_notWindow hw with hpl | ⟨r, b, hpl, -⟩ <;>
    simp [directReg, hr, hpl, busWrite_absentDie hd ha _ _ _ _ _ _ hw, Nat.not_lt.mpr (Nat.le_add_right_of_le htop)]

theorem directWin_absentDie (hr : s.dev.reach m true = (d, some priv)) (v : Word) (be : BitVec 4)
    (hw : isWindow a = true) : directWin m a [(v, be)] s = (d.memWrDrop, s.mem) := by
  simp [directWin, hr, hw, windowPost_absentDie hd ha, Nat.not_lt.mpr (Nat.le_add_right_of_le htop)]

end

/-- The SET and CLEAR aliases of a die lie in its windows. -/
theorem isWindow_of_isAlias {a : Nat} (h : isAlias a = true) : isWindow a = true := by
  unfold isAlias at h
  simp only [isWindow, Bool.and_eq_true, decide_eq_true_eq]
  split at h <;> simp only [Bool.and_eq_true, decide_eq_true_eq] at h <;> omega

theorem execAliasWrite_of_isAlias {s : State} {m : Master} {a v : Word} {be : BitVec 4} (h : isAlias a.toNat = true) :
    execAliasWrite m a v be s = onMem (directWin m a.toNat [(v, be)]) s := by
  simp only [execAliasWrite, onMem, h, if_true]

/-- A direct read of one word of BAR0 in any form: one that is not aligned with all byte enables reads 0 (R422). -/
theorem busReadCmd_absentDie {s : State} {m : Master} {r : BusRead} {d : Dev} {f : Fin 7} {priv : Bool}
    (hd : d.hasDie f.val = false) (ha : r.address.offset.toNat / 2 ^ 24 = f.val + 1)
    (htop : r.address.offset.toNat ≤ barTop) (hr : s.dev.reach m false = (d, some priv))
    (hp : ∀ x ∈ d.mr.posted, x.block ≠ .die f) (hbar : r.address.bar2 = false)
    (hwin : isWindow r.address.offset.toNat = true → r.words = 1 ∧ d.sys.bootFail ≠ 4) :
    busReadCmd m r s = (d.readOut m 0, s.mem) := by
  have hread := directRead_absentDie hd ha htop hr hp fun hw => (hwin hw).2
  simp only [busReadCmd, hbar]
  by_cases hw : isWindow r.address.offset.toNat = true
  · simp [hw, (hwin hw).1, directReads, hread]
  · simp [hw, directZero, hr, hread]

section
variable {s : State} {d : Dev}

theorem onDev_of_eq {g : State → Dev} (h : g s = d) : onDev g s = .next { s with dev := d } := by
  rw [onDev, h]

theorem onMem_of_eq {g : State → Dev × Banks} (h : g s = (d, s.mem)) : onMem g s = .next { s with dev := d } := by
  rw [onMem, h]

end

/-- Settles O14: at an offset of an absent die there is neither a register nor a memory word, so a read finds nothing to
return and a write nothing to change. -/
theorem absentDieReadsZero : Obligations.AbsentDieReadsZero := by
  intro s f hf
  refine ⟨by simp [Dev.tineUp, hf], ?_, ?_⟩
  · intro m r d priv hr hp hd hbar ha htop hwin
    exact onMem_of_eq (busReadCmd_absentDie hd ha htop hr hp hbar hwin)
  · intro m a v be d priv hr hd ha htop
    have hwindow (hw : isWindow a.toNat = true) := directWin_absentDie hd ha htop hr v be hw
    exact ⟨fun hw => onDev_of_eq (directReg_absentDie hd ha htop hr v.toNat be hw), fun hw => onMem_of_eq (hwindow hw),
      fun hal => (execAliasWrite_of_isAlias hal).trans (onMem_of_eq (hwindow (isWindow_of_isAlias hal)))⟩

end Sys2Proof.Laws
end

section
/-! SUPPORT. What a tick of the timestamp counter brings about when no command waits (R22, log 1): nothing but the tick
itself, where no port has anything left for time alone to end. -/

namespace Sys2Proof.Laws

open Machine

theorem step_of_empty {s : State} (h : s.pending = []) : step s = .next { s with dev := s.dev.idle s.mem } := by
  rw [step, h]

section
variable {d : Dev} {gp : Fin 112}

/-! ## What has nothing to end stays -/

theorem runPiece_of_none (m : Banks) (h : d.ports[gp].piece = none) : d.runPiece m gp = d := by
  rw [Dev.runPiece, h]

theorem hotBoundary_of_not_due (h : d.ports[gp].heat.hotDue = false) : d.hotBoundary gp = d := by
  simp only [Dev.hotBoundary, h, Bool.false_and]; rfl

theorem wakeMode_of_not_changing (h : d.sys.changing = false) : d.wakeMode = d := by
  simp only [Dev.wakeMode, h, Bool.false_and]; rfl

/-- Where the tick leaves nothing to end, the whole idle step is the tick. -/
theorem idle_eq_tick {e : Dev} (m : Banks) (htick : d.tick.countCorrectable.upsetBit = e)
    (hports : ∀ gp : Fin 112, e.ports[gp].piece = none ∧ e.ports[gp].heat.hotDue = false)
    (hmode : e.sys.changing = false) : d.idle m = e := by
  rw [Dev.idle, htick, List.foldl_fixed', wakeMode_of_not_changing hmode]
  intro gp
  rw [runPiece_of_none _ (hports gp).1, hotBoundary_of_not_due (hports gp).2]

/-! ## The tick -/

/-- In reset the counter stands, and neither the link nor the memory runs (R53). -/
theorem tick_of_held (h : d.sys.held = true) : d.tick.countCorrectable.upsetBit = d := by
  have htick : d.tick = d := if_pos h
  have hlink : d.countCorrectable = d := by simp only [Dev.countCorrectable, h, Bool.not_true, Bool.false_and]; rfl
  rw [htick, hlink, Dev.upsetBit]
  split
  · rfl
  · simp only [h, Bool.true_or]; rfl

/-- A tick at which no correctable error comes and no bit flips moves the counter alone. -/
theorem tick_of_running (h : d.sys.held = false) (herr : Config.correctableError (d.sys.now + 1) = false)
    (hflip : Config.upset (d.sys.now + 1) = none) :
    d.tick.countCorrectable.upsetBit = d.modSys fun x => { x with now := x.now + 1 } := by
  have htick : d.tick = d.modSys fun x => { x with now := x.now + 1 } := if_neg (by simp [h])
  have hlink : (d.modSys fun x => { x with now := x.now + 1 }).countCorrectable
      = d.modSys fun x => { x with now := x.now + 1 } := by
    simp only [Dev.countCorrectable, Dev.modSys_sys, herr, Bool.and_false]; rfl
  rw [htick, hlink, Dev.upsetBit, Dev.modSys_sys, hflip]

theorem runPiece_ends {x : Piece} (m : Banks) (hx : d.ports[gp].piece = some x) (hend : x.stop ≤ d.fireNow gp) :
    (d.runPiece m gp).ports[gp].piece = none := by
  simp only [Dev.runPiece, hx, if_pos hend]
  simp [Dev.modPort, Port.endPiece]

end

/-- Settles O2: with nothing for time to end, every part of the idle step behind the tick leaves the device as it is. -/
theorem emptyQueueTicks : Obligations.EmptyQueueTicks := by
  intro s hs
  refine ⟨⟨_, step_of_empty hs⟩, fun hports hmode => ⟨fun hheld => ?_, fun hrun herr hflip => ?_⟩, fun gp x hx hend => ?_⟩
  · rw [step_of_empty hs, idle_eq_tick s.mem (tick_of_held hheld) hports hmode]
  · rw [step_of_empty hs, idle_eq_tick s.mem (tick_of_running hrun herr hflip) hports hmode]
  · exact runPiece_ends s.banks hx hend

end Sys2Proof.Laws
end

section
/-! SUPPORT. The rows by which the dies agree: what a strobe latches on each copy, and what a report, a late snapshot, a
copy brought into agreement and a switch record come to (R34 to R36, R97, R324). -/

namespace Sys2Proof.Laws

open Machine

/-! ## The strobe -/

/-- A copy of a device of which one copy was changed. -/
theorem modCopy_copy (d : Dev) (i ch : Fin 4) (k j : Fin 8) (f : EncCopy → EncCopy) :
    (d.modCopy i k f).pos.enc[ch].copies[j]
      = if i = ch ∧ k = j then f (d.pos.enc[ch].copies[j]) else d.pos.enc[ch].copies[j] := by
  rw [Dev.modCopy_pos, vmod_get]
  by_cases hi : i = ch
  · simp only [hi, true_and, if_true, vmod_get]
  · simp only [hi, false_and, if_false]

theorem modCopy_cfg (d : Dev) (i ch : Fin 4) (k : Fin 8) (f : EncCopy → EncCopy) :
    (d.modCopy i k f).pos.enc[ch].cfg = d.pos.enc[ch].cfg := by
  rw [Dev.modCopy_pos, vmod_get]
  split <;> rfl

@[simp] theorem tellHub_pos (d : Dev) (k : Fin 8) (x : CtrlMsg) : (d.tellHub k x).pos = d.pos := by
  unfold Dev.tellHub
  split <;> rfl

@[simp] theorem tellHub_otp (d : Dev) (k : Fin 8) (x : CtrlMsg) : (d.tellHub k x).otp = d.otp := by
  unfold Dev.tellHub
  split <;> rfl

/-- What a strobe does to one copy: it latches its counts and forgets what earlier strobes have left (R34). -/
def strobeCopy (n : Word) (guards : List (Fin 8 × Fin 4)) (ch : Fin 4) (d : Dev) (k : Fin 8) : Dev :=
  (d.tellHub k (.snapshot ch)).modCopy ch k fun c => { c with
    latch := some (n, c.gen, if d.encMode ch = 4 then c.quadCount else c.count, guards.contains (k, ch))
    fineDue := d.encMode ch == 4, fineOwed := false, fine := none }

/-- What a strobe does to one channel: an enabled one is latched on every die (R34). -/
def strobeChannel (n : Word) (guards : List (Fin 8 × Fin 4)) (d : Dev) (ch : Fin 4) : Dev :=
  if d.encMode ch = 0 then d else d.copyDies.foldl (strobeCopy n guards ch) d

theorem strobe_eq {d : Dev} (guards : List (Fin 8 × Fin 4)) (h : d.counting = true) :
    d.strobe guards = (fins 4).foldl (strobeChannel d.pos.snapNext guards)
      (d.modPos fun p => { p with snapNumber := d.pos.snapNext, snapNext := d.pos.snapNext + 1 }) := by
  simp only [Dev.strobe, h]
  rfl

/-- The device `t` while a strobe runs over the device `d`: the copies that `done` names are latched under number `n`; the
counts, the channels' settings and the dies are those of `d`. -/
structure Strobed (n : Word) (guards : List (Fin 8 × Fin 4)) (d t : Dev) (done : Fin 4 → Fin 8 → Prop) : Prop where
  number : t.pos.snapNumber = n
  next : t.pos.snapNext = n + 1
  cfg : ∀ ch : Fin 4, t.pos.enc[ch].cfg = d.pos.enc[ch].cfg
  feat : t.otp = d.otp
  counts : ∀ (ch : Fin 4) (k : Fin 8), let c := t.pos.enc[ch].copies[k]; let was := d.pos.enc[ch].copies[k]
    c.count = was.count ∧ c.quadCount = was.quadCount ∧ c.gen = was.gen
  latched : ∀ (ch : Fin 4) (k : Fin 8), done ch k → (t.pos.enc[ch].copies[k]).latch =
    let was := d.pos.enc[ch].copies[k]
    some (n, was.gen, if d.encMode ch = 4 then was.quadCount else was.count, guards.contains (k, ch))

section
variable {n : Word} {guards : List (Fin 8 × Fin 4)} {d t : Dev} {done : Fin 4 → Fin 8 → Prop}

theorem Strobed.encMode (h : Strobed n guards d t done) (ch : Fin 4) : t.encMode ch = d.encMode ch := by
  simp only [Dev.encMode, h.cfg]

theorem Strobed.copyDies (h : Strobed n guards d t done) : t.copyDies = d.copyDies := by
  have hdie (k : Nat) : t.hasDie k = d.hasDie k := by
    unfold Dev.hasDie Dev.furrowDies Dev.feat
    rw [h.feat]
  simp only [Dev.copyDies, hdie]

theorem Strobed.mono {done' : Fin 4 → Fin 8 → Prop} (h : Strobed n guards d t done) (hd : ∀ ch k, done' ch k → done ch k) :
    Strobed n guards d t done' :=
  { h with latched := fun ch k hk => h.latched ch k (hd ch k hk) }

theorem strobed_copy (h : Strobed n guards d t done) (ch : Fin 4) (k : Fin 8) :
    Strobed n guards d (strobeCopy n guards ch t k) fun c j => done c j ∨ (ch = c ∧ k = j) := by
  refine ⟨?_, ?_, fun c => ?_, ?_, fun c j => ?_, fun c j hj => ?_⟩
  · simp only [strobeCopy, Dev.modCopy_pos, tellHub_pos, h.number]
  · simp only [strobeCopy, Dev.modCopy_pos, tellHub_pos, h.next]
  · rw [strobeCopy, modCopy_cfg, tellHub_pos, h.cfg]
  · simp only [strobeCopy, Dev.modCopy_otp, tellHub_otp, h.feat]
  · simp only [strobeCopy, modCopy_copy, tellHub_pos]
    split <;> exact h.counts c j
  · obtain ⟨hcount, hquad, hgen⟩ := h.counts c j
    simp only [strobeCopy, modCopy_copy, tellHub_pos]
    split
    · next hc =>
      obtain ⟨rfl, rfl⟩ := hc
      simp only [h.encMode, hcount, hquad, hgen]
    · next hc => exact h.latched c j (hj.resolve_right hc)

theorem strobed_copies (ch : Fin 4) (ks : List (Fin 8)) : ∀ {t : Dev} {done : Fin 4 → Fin 8 → Prop},
    Strobed n guards d t done →
    Strobed n guards d (ks.foldl (strobeCopy n guards ch) t) fun c j => done c j ∨ (ch = c ∧ j ∈ ks) := by
  induction ks with
  | nil => exact fun h => h.mono fun _ _ hj => by simpa using hj
  | cons k ks ih =>
    exact fun h => (ih (strobed_copy h ch k)).mono fun c j hj => by
      rw [List.mem_cons, eq_comm (a := j)] at hj; tauto

theorem strobed_channels (chs : List (Fin 4)) : ∀ {t : Dev} {done : Fin 4 → Fin 8 → Prop}, Strobed n guards d t done →
    Strobed n guards d (chs.foldl (strobeChannel n guards) t)
      fun c j => done c j ∨ (c ∈ chs ∧ d.encMode c ≠ 0 ∧ j ∈ d.copyDies) := by
  induction chs with
  | nil => exact fun h => h.mono fun _ _ hj => by simpa using hj
  | cons ch chs ih =>
    intro t done h
    rw [List.foldl_cons, strobeChannel, h.encMode, h.copyDies]
    split
    · next h0 =>
      refine (ih h).mono fun c j hj => ?_
      rcases hj with hj | ⟨hc, hm, hk⟩
      · exact .inl hj
      · exact .inr ⟨(List.mem_cons.mp hc).resolve_left fun e => hm (e ▸ h0), hm, hk⟩
    · refine (ih (strobed_copies ch d.copyDies h)).mono fun c j hj => ?_
      rw [List.mem_cons, eq_comm (a := c)] at hj; tauto

end

/-- A strobe latches the enabled channels on the dies that are there. -/
theorem strobed_strobe {d : Dev} (guards : List (Fin 8 × Fin 4)) (h : d.counting = true) :
    Strobed d.pos.snapNext guards d (d.strobe guards) fun c j => d.encMode c ≠ 0 ∧ j ∈ d.copyDies := by
  have hstart : Strobed d.pos.snapNext guards d
      (d.modPos fun p => { p with snapNumber := d.pos.snapNext, snapNext := d.pos.snapNext + 1 }) fun _ _ => False :=
    ⟨rfl, rfl, fun _ => rfl, rfl, fun _ _ => ⟨rfl, rfl, rfl⟩, fun _ _ hf => hf.elim⟩
  rw [strobe_eq guards h]
  exact (strobed_channels (fins 4) hstart).mono fun c j hj => .inr ⟨mem_fins c, hj⟩

/-! ## Reports -/

/-- A report of the hub's own snapshot, from a copy in agreement: the counts are compared, then the fine ones. -/
theorem report_of_latches {d : Dev} {f : Fin 7} {ch : Fin 4} {n u v : Word} {g : BitVec 8} {ga gb : Bool}
    (hc : d.counting = true) (hd : d.hasDie f.val = true) (hleft : CtrlMsg.snapshot ch ∉ d.dies[f].ctrlWaitUp)
    (hsync : (d.pos.enc[ch].copies[copyOf f]).syncing = false)
    (hu : (d.pos.enc[ch].copies[copyOf f]).latch = some (n, g, u, ga))
    (hv : (d.pos.enc[ch].copies[0]).latch = some (n, g, v, gb)) :
    d.report f ch =
      let e := d.modCopy ch (copyOf f) fun c => { c with latch := none }
      if agree (if ga || gb then 1 else 0) u v = false then e.diverge ch f 0 n v u
      else if (d.pos.enc[ch].copies[copyOf f]).fineDue then e.modCopy ch (copyOf f) fun c => { c with fineOwed := true }
      else e.compareFine f ch := by
  have hwait : d.dies[f].ctrlWaitUp.contains (.snapshot ch) = false := by simpa using hleft
  simp only [Dev.report, hc, hd, hwait, hu, hv, hsync, ne_eq, not_true_eq_false, if_false, Bool.not_true, Bool.or_false,
    Bool.false_eq_true, Bool.not_eq_true']

/-! ## Late snapshots -/

/-- A list of which one element alone gives a value gives that value alone. -/
theorem filterMap_eq_singleton {α β : Type} {f : α → Option β} {a : α} {b : β} {l : List α} (hl : l.Nodup) (ha : a ∈ l)
    (hb : f a = some b) (hn : ∀ x, x ≠ a → f x = none) : l.filterMap f = [b] := by
  obtain ⟨l1, l2, rfl⟩ := List.append_of_mem ha
  have hleft : a ∉ l1 := fun h => (List.nodup_append.mp hl).2.2 a h a List.mem_cons_self rfl
  have hright : a ∉ l2 := (List.nodup_cons.mp (List.nodup_append.mp hl).2.1).1
  have hnil {l' : List α} (h : a ∉ l') : l'.filterMap f = [] :=
    List.filterMap_eq_nil_iff.mpr fun x hx => hn x fun e => h (e ▸ hx)
  rw [List.filterMap_append, List.filterMap_cons, hb, hnil hleft, hnil hright]
  rfl

section
variable {d : Dev} {f : Fin 7} (hc : d.counting = true) (hd : d.hasDie f.val = true)
include hc hd

theorem snapshotLate_none (h : ∀ ch : Fin 4, (d.pos.enc[ch].copies[copyOf f]).latch = none) : d.snapshotLate f = d := by
  have hdue : (fins 4).filterMap (d.snapshotDue f) = [] :=
    List.filterMap_eq_nil_iff.mpr fun ch _ => by rw [Dev.snapshotDue, h ch]; rfl
  rw [Dev.snapshotLate, hc, hd, hdue]
  rfl

theorem snapshotLate_one {ch : Fin 4} {n v : Word} {g : BitVec 8} {x : Word × Bool}
    (hl : (d.pos.enc[ch].copies[copyOf f]).latch = some (n, g, x))
    (hother : ∀ k : Fin 4, k ≠ ch → (d.pos.enc[k].copies[copyOf f]).latch = none)
    (hsome : ∀ y, (d.hub ch).latch = some y → v = y.2.2.1) (hnone : (d.hub ch).latch = none → v = (d.hub ch).count) :
    d.snapshotLate f =
      (d.modCopy ch (copyOf f) fun c => { c with latch := none }).diverge ch f 1 n v 0 := by
  have hone : d.snapshotDue f ch = some (ch, n, v) := by
    rw [Dev.snapshotDue, hl]
    cases hh : (d.hub ch).latch with
    | none => rw [hnone hh]; rfl
    | some y => rw [hsome y hh]; rfl
  have hdue : (fins 4).filterMap (d.snapshotDue f) = [(ch, n, v)] :=
    filterMap_eq_singleton (List.nodup_finRange 4) (mem_fins ch) hone fun k hk => by
      rw [Dev.snapshotDue, hother k hk]; rfl
  rw [Dev.snapshotLate, hc, hd, hdue]
  rfl

end

/-! ## Switch records -/

/-- The oldest record of a die, once it has left, meets the hub's of the same switch. -/
theorem switchRecord_of_records {d : Dev} {f : Fin 7} {w : Fin 16} {k : Nat} {u n v snap : Word}
    {rest : List (Nat × Word × Word)} (hd : d.hasDie f.val = true)
    (hdie : (d.swaths[w].gens[copyOf f]).records = (k, u, n) :: rest)
    (hhub : (d.swaths[w].gens[0]).records.find? (fun z => z.1 == k) = some (k, v, snap))
    (hleft : d.dies[f].ctrlWaitUp.count (.switchRecord w) ≤ rest.length) :
    d.switchRecord f w =
      let e := d.modSwath w fun q => { q with gens := vmod q.gens (copyOf f) fun g => { g with records := rest } }
      let c := d.pos.enc[d.swaths[w].channel].cfg
      if agree (if c.mode = 4 then c.fineTol else 0) u v then e else e.diverge d.swaths[w].channel f 2 snap v u := by
  have hgone : (((k, u, n) :: rest).length - d.dies[f].ctrlWaitUp.count (.switchRecord w) = 0) = False := by
    rw [List.length_cons, eq_iff_iff, iff_false]; omega
  simp only [Dev.switchRecord, hdie, hhub, hd, hgone, Bool.not_true, decide_false, Bool.or_false, Bool.false_eq_true,
    if_false]
  rfl

/-! ## The rows -/

section
variable (s : State) (f : Fin 7) (ch : Fin 4)

theorem exec_snapshotStrobe (guards : List (Fin 8 × Fin 4)) :
    exec (.snapshotStrobe guards) s = .next { s with dev := s.dev.strobe guards } := rfl
theorem exec_snapshotReport :
    exec (.snapshotReport f ch) s = .next { s with dev := (s.dev.report f ch).dieReady f } := rfl
theorem exec_snapshotLate : exec (.snapshotLate f) s = .next { s with dev := s.dev.snapshotLate f } := rfl
theorem exec_frwResyncTimeout : exec (.frwResyncTimeout f) s = .next { s with dev := s.dev.resyncTimeout f } := rfl
theorem exec_resyncNoEdge :
    exec (.resyncNoEdge f ch) s = .next { s with dev := (s.dev.resyncNoEdge f ch).dieReady f } := rfl
theorem exec_switchRecordReport (w : Fin 16) :
    exec (.switchRecordReport f w) s = .next { s with dev := s.dev.switchRecord f w } := rfl

end

/-- Settles O52: each row is its operation on the device; the strobe's is followed copy by copy. -/
theorem agreementRowsComplete : Obligations.AgreementRowsComplete := by
  refine ⟨?strobe, ?report, ?late, ?timeout, ?noEdge, ?record⟩
  case strobe =>
    intro s guards n hc hn
    subst hn
    obtain ⟨hnumber, hnext, -, -, hcounts, hlatched⟩ := strobed_strobe guards hc
    exact ⟨_, exec_snapshotStrobe s guards, hnumber, hnext, fun ch k hm hk => hlatched ch k ⟨hm, hk⟩,
      fun ch k => (hcounts ch k).1, rfl, rfl⟩
  case report =>
    intro s f ch e n g u v ga gb d he hc hd hleft hsync hu hv hdev
    subst he hdev
    rw [exec_snapshotReport, report_of_latches hc hd hleft hsync hu hv]
    refine ⟨fun ha hf => ?_, fun ha hf => ?_, fun ha => ?_⟩
    · simp only [ha, hf, Bool.true_eq_false, Bool.false_eq_true, if_false]
    · simp only [ha, hf, Bool.true_eq_false, if_false, if_true]
    · simp only [ha, if_true]
  case late =>
    intro s f hc hd
    rw [exec_snapshotLate]
    exact ⟨fun h => by rw [snapshotLate_none hc hd h],
      fun ch n v g x hl hother hsome hnone => by
        rw [snapshotLate_one hc hd hl hother hsome hnone]⟩
  case timeout =>
    intro s f hd hs
    rw [exec_frwResyncTimeout, Dev.resyncTimeout, hd, hs]
    rfl
  case noEdge =>
    intro s f ch hd hs
    rw [exec_resyncNoEdge, Dev.resyncNoEdge, hd, hs]
    rfl
  case record =>
    intro s f w y c k u n v snap rest d hd hy hdie hhub hleft hc hdev
    subst hy hc hdev
    rw [exec_switchRecordReport, switchRecord_of_records hd hdie hhub hleft]
    exact apply_ite (fun d => Host.Outcome.next { s with dev := d }) (agree _ u v = true) _ _

end Sys2Proof.Laws
end

section
/-! SUPPORT. The rows of the starts and resets of the part, of its references and of its pace (R24 to R26, R53, R54, R58,
R82 to R91). -/

namespace Sys2Proof.Laws

open Machine

section
variable {s : State} {d : Dev}

/-- A row that answers with another memory. -/
theorem onMem_of_pair {g : State → Dev × Banks} {m : Banks} (h : g s = (d, m)) :
    onMem g s = .next { s with dev := d, mem := m } := by
  rw [onMem, h]

/-! ## Cold starts -/

@[simp] theorem enterMode_refLost (m : BitVec 4) : (d.enterMode m).sys.refLost = d.sys.refLost := by
  obtain ⟨x, hx⟩ := setMode_eq d m
  rw [still_sys (still_enterMode m), hx]
  rfl

@[simp] theorem atStep_refLost (k : BitVec 4) : (d.atStep k).sys.refLost = d.sys.refLost := rfl

/-- Step 1 of a cold start samples the straps and the nonce epoch (R82). -/
def sampleStraps (d : Dev) (c : ColdStart) : Dev :=
  (d.modSys fun x =>
    { x with
      held := false, porstN := true, mgmtSec := c.mgmtSec, hostIf := c.hostIf, packageP65 := c.packageP65
      supplyOrder := c.orderBroken, coldArgs := some c }).modSes fun t => { t with epoch := c.epoch }

/-- With both references there, step 1 does not wait (R58). -/
theorem coldStart_of_references (rows : OtpRows) (c : ColdStart) (h : d.sys.refLost = 0) :
    d.coldStart rows c =
      ((((sampleStraps d c).enterMode mBoot).atStep 1).modSys fun x => { x with coldArgs := none }).coldFrom2 rows c :=
  if_pos (by rw [atStep_refLost, enterMode_refLost]; exact h)

/-- A rise of PORST_N starts a part held in reset by a low PORST_N, with every bank at its reset contents (R54, R84). -/
theorem execColdStart_of_held (c : ColdStart) (hheld : s.dev.sys.held = true) (hporst : s.dev.sys.porstN = false) :
    execColdStart c s = .next { s with dev := s.dev.coldStart s.rows c, mem := {} } :=
  onMem_of_pair (if_pos (by rw [hheld, hporst]; rfl))

theorem execRailsInRange_of_held (c : ColdStart) (hheld : s.dev.sys.held = true) (hporst : s.dev.sys.porstN = true) :
    execRailsInRange c s = .next { s with dev := s.dev.coldStart s.rows c, mem := {} } :=
  onMem_of_pair (if_pos (by rw [hheld, hporst]; rfl))

theorem headPwrWait_at_step7 (ids : List (Fin 112 × DWord)) (hheld : d.sys.held = false) (hmode : d.mode = mBoot)
    (hstep : d.sys.bootStep = 7) (hhalt : d.halting = false) :
    d.headPwrWait ids = ((d.readIds ids).atStep 8).coldScan :=
  if_neg (by simp [hheld, hmode, hstep, hhalt])

/-! ## Warm starts -/

theorem wrstFall_ignored (h : d.sys.held = true ∨ d.coldBoot = true) :
    d.wrstFall = d.modSys fun x => { x with wrstN := false } :=
  if_pos (by simpa using h)

theorem wrstFall_of_running (hheld : d.sys.held = false) (hboot : d.coldBoot = false) :
    d.wrstFall = ((d.modSys fun x => { x with wrstN := false }).modOtp fun x =>
      { x with queue := [] }).dropScans.killOutputs :=
  if_neg (by simp [hheld, hboot])

/-- A warm start runs where WRST_N is low or a RESET has left one due; which of them began it is recorded (R89, R90). -/
theorem warmRow_of_running (m : Banks) (rows : OtpRows) (w : WarmStart) (hheld : d.sys.held = false)
    (hboot : d.coldBoot = false) (hdue : d.sys.wrstN = false ∨ d.sys.warmDue = true) :
    d.warmRow m rows w = (d.warmStart rows (if d.sys.wrstN then 2 else 1) w, m.clear isLineByte) := by
  have hwait : (d.sys.held || (d.sys.wrstN && !d.sys.warmDue)) = false := by
    rcases hdue with h | h <;> simp [hheld, h]
  rw [Dev.warmRow, hwait, hboot]
  rfl

/-! ## References -/

/-- A reference lost after step 1 raises its source, once (R58). -/
theorem refLoss_of_running (ft : Bool) (hheld : d.sys.held = false) (hwas : d.sys.refLost &&& refBit ft = 0)
    (hcold : d.sys.coldArgs = none) :
    d.refLoss ft = (d.modSys fun x => { x with refLost := x.refLost ||| refBit ft }).detect (idRef ft) := by
  simp [Dev.refLoss, hheld, hwas, hcold]

/-- A reference is back: it is no longer lost, and its source's cause is gone (R58). -/
def refReturned (d : Dev) (ft : Bool) : Dev :=
  (d.modSys fun x => { x with refLost := x.refLost &&& ~~~(refBit ft) }).causeGone (idRef ft)

section
variable {ft : Bool} (m : Banks) (rows : OtpRows)

theorem refBack_of_no_start (h : (refReturned d ft).sys.coldArgs = none) :
    d.refBack m rows ft = (refReturned d ft, m) := by
  simp only [refReturned] at h ⊢
  simp only [Dev.refBack, h]

/-- A start held at step 1 stays held while a reference is lost, and for good once a reaction has ended it (R58, R384). -/
theorem refBack_of_held {c : ColdStart} (hc : (refReturned d ft).sys.coldArgs = some c)
    (h : (refReturned d ft).sys.refLost ≠ 0 ∨ (refReturned d ft).halting = true) :
    d.refBack m rows ft = (refReturned d ft, m) := by
  simp only [refReturned] at hc h ⊢
  simp only [Dev.refBack, hc]
  refine if_neg ?_
  simp only [Bool.and_eq_true, decide_eq_true_eq, Bool.not_eq_true', not_and, Bool.not_eq_false]
  exact fun hback => h.resolve_left (not_not_intro hback)

theorem refBack_of_start {c : ColdStart} (hc : (refReturned d ft).sys.coldArgs = some c)
    (hlost : (refReturned d ft).sys.refLost = 0) (hhalt : (refReturned d ft).halting = false) :
    d.refBack m rows ft =
      (((refReturned d ft).modSys fun x => { x with bootFail := 0, coldArgs := none }).coldFrom2 rows c, {}) := by
  simp only [refReturned] at hc hlost hhalt ⊢
  simp only [Dev.refBack, hc]
  exact if_pos (by simp [hlost, hhalt])

end

/-! ## PCIe resets -/

/-- The endpoint in reset: no link, MSI-X as its reset leaves it (R87, R447). -/
def endpointReset (d : Dev) : Dev := d.modPci fun x => { x.noMsix with perst := false, speed := 0, width := 0 }

theorem perstFall_ignored (hperst : d.pci.perst = true)
    (h : (endpointReset d).sys.held = true ∨ (endpointReset d).coldBoot = true) : d.perstFall = endpointReset d := by
  simp only [Dev.perstFall, hperst, Bool.not_true, Bool.false_eq_true, if_false]
  exact if_pos (Bool.or_eq_true _ _ ▸ h)

theorem perstFall_of_running (hperst : d.pci.perst = true) (hheld : (endpointReset d).sys.held = false)
    (hboot : (endpointReset d).coldBoot = false) :
    d.perstFall = (if (endpointReset d).pcieOff then endpointReset d else (endpointReset d).modPci fun x =>
      { x with perstFalls := satTo 0xFFFF x.perstFalls }).dropPcie.detect 0x012 := by
  have hrun : ((endpointReset d).sys.held || (endpointReset d).coldBoot) = false := by rw [hheld, hboot]; rfl
  simp only [Dev.perstFall, hperst, Bool.not_true, Bool.false_eq_true, if_false]
  exact if_neg (Bool.eq_false_iff.mp hrun)

theorem pf1Flr_of_pcieUp (h : d.pcieUp = true) :
    d.pf1Flr = ((d.wakeFrom 2 true).modPci fun x => { x.noMsix with flrs := satTo 0xFFFF x.flrs }).dropPcie :=
  if_neg (by simp [h])

/-! ## Pace -/

theorem vallIdx_eq {α : Type} {n : Nat} {f : Nat → α → α} {v w : Vector α n} (h : ∀ k : Fin n, w[k] = f k.val v[k]) :
    vallIdx f v = w :=
  Vector.ext fun i hi => by rw [vallIdx_get]; exact (h ⟨i, hi⟩).symm

theorem paceWindow_of_running {r pace : Vector (BitVec 16) 8} (hheld : d.sys.held = false) (hmode : d.mode ≠ mFallow)
    (h : ∀ k : Fin 8, pace[k] = if d.dieHere k.val then r[k] else 0) :
    d.paceWindow r = ((d.modSys fun x => { x with pace }).followPace).refreshRates := by
  have hpace : vallIdx (fun k v => if d.dieHere k then v else 0) r = pace := vallIdx_eq h
  rw [← hpace]
  exact if_neg (by simpa [hheld] using hmode)

end

/-! ## The rows -/

section
variable (s : State) (ft : Bool)

theorem exec_coldStart (c : ColdStart) : exec (.coldStart c) s = execColdStart c s := rfl
theorem exec_railsInRange (c : ColdStart) : exec (.railsInRange c) s = execRailsInRange c s := rfl
theorem exec_headPwrWait (ids : List (Fin 112 × DWord)) :
    exec (.headPwrWait ids) s = .next { s with dev := s.dev.headPwrWait ids } := rfl
theorem exec_wrstNFall : exec .wrstNFall s = .next { s with dev := s.dev.wrstFall } := rfl
theorem exec_warmStart (w : WarmStart) :
    exec (.warmStart w) s = onMem (fun s => s.dev.warmRow s.mem s.rows w) s := rfl
theorem exec_referenceLoss : exec (.referenceLoss ft) s = .next { s with dev := s.dev.refLoss ft } := rfl
theorem exec_referenceRestored :
    exec (.referenceRestored ft) s = onMem (fun s => s.dev.refBack s.mem s.rows ft) s := rfl
theorem exec_pePerstNFall : exec .pePerstNFall s = .next { s with dev := s.dev.perstFall } := rfl
theorem exec_pf1Flr : exec .pf1Flr s = .next { s with dev := s.dev.pf1Flr } := rfl
theorem exec_paceWindow (r : Vector (BitVec 16) 8) :
    exec (.paceWindow r) s = .next { s with dev := s.dev.paceWindow r } := rfl

end

/-- Settles O22: each row is its operation on the device, which the state's conditions bring to one branch. -/
theorem startRowsComplete : Obligations.StartRowsComplete := by
  refine ⟨?hold, ?cold, ?head, ?wrst, ?warm⟩
  case hold => exact fun s => ⟨rfl, rfl, rfl, mk3_val mBoot⟩
  case cold =>
    intro s c d hheld href hd
    subst hd
    refine ⟨fun hporst => ?_, fun hporst => ?_⟩
    · rw [exec_coldStart, execColdStart_of_held c hheld hporst, coldStart_of_references s.rows c href]
      rfl
    · rw [exec_railsInRange, execRailsInRange_of_held c hheld hporst, coldStart_of_references s.rows c href]
      rfl
  case head =>
    intro s ids hheld hmode hstep hhalt
    rw [exec_headPwrWait, headPwrWait_at_step7 ids hheld hmode hstep hhalt]
  case wrst =>
    intro s
    refine ⟨fun h => ?_, fun hheld hboot => ?_⟩
    · rw [exec_wrstNFall, wrstFall_ignored h]
    · rw [exec_wrstNFall, wrstFall_of_running hheld hboot]
  case warm =>
    intro s w hheld hboot
    have hrow (hdue : s.dev.sys.wrstN = false ∨ s.dev.sys.warmDue = true) :=
      onMem_of_pair (g := fun s => s.dev.warmRow s.mem s.rows w) (warmRow_of_running s.mem s.rows w hheld hboot hdue)
    refine ⟨fun hwrst => ?_, fun hwrst hdue => ?_⟩
    · rw [exec_warmStart, hrow (.inl hwrst), hwrst]
      rfl
    · rw [exec_warmStart, hrow (.inr hdue), hwrst]
      rfl

/-- Settles O23: as in O22; of a reference's return the three cases are whether a cold start is held at step 1, and whether
it may go on. -/
theorem referenceRowsComplete : Obligations.ReferenceRowsComplete := by
  refine ⟨?loss, ?back, ?rise, ?fall, ?flr, ?pace⟩
  case loss =>
    intro s ft hheld hwas hcold
    rw [exec_referenceLoss, refLoss_of_running ft hheld hwas hcold]
  case back =>
    intro s ft d hd
    subst hd
    rw [exec_referenceRestored]
    exact ⟨fun h => onMem_of_eq (refBack_of_no_start s.mem s.rows h),
      fun c hc h => onMem_of_eq (refBack_of_held s.mem s.rows hc h),
      fun c hc hlost hhalt => onMem_of_pair (refBack_of_start s.mem s.rows hc hlost hhalt)⟩
  case rise => exact fun s => rfl
  case fall =>
    intro s d hperst hd
    subst hd
    rw [exec_pePerstNFall]
    refine ⟨fun h => ?_, fun hheld hboot => ?_⟩
    · rw [perstFall_ignored hperst h]
      rfl
    · rw [perstFall_of_running hperst hheld hboot]
      rfl
  case flr =>
    intro s h
    rw [exec_pf1Flr, pf1Flr_of_pcieUp h]
  case pace =>
    intro s r pace hheld hmode h
    rw [exec_paceWindow, paceWindow_of_running hheld hmode h]

end Sys2Proof.Laws
end

section
/-! SUPPORT. No event, no detection of a source and no reaction to one touches the OTP block: what a start has taken from
the array stands until the next (R405). -/

namespace Sys2Proof.Laws

open Machine

theorem otp_foldl {α : Type} {f : Dev → α → Dev} (h : ∀ d a, (f d a).otp = d.otp) :
    ∀ (l : List α) (d : Dev), (l.foldl f d).otp = d.otp
  | [], _ => rfl
  | a :: l, d => (otp_foldl h l (f d a)).trans (h d a)

theorem foldl_modPort_otp (f : Port → Port) (l : List (Fin 112)) (d : Dev) :
    (l.foldl (fun d gp => d.modPort gp f) d).otp = d.otp := otp_foldl (fun d gp => Dev.modPort_otp d gp f) l d

section
variable (d : Dev) (gp : Fin 112) (id : Nat)

@[simp] theorem occur_otp (cls : Fin 16) (kind source : Nat) (data : List Byte) :
    (d.occur cls kind source data).otp = d.otp := still_otp (still_occur cls kind source data)

@[simp] theorem answer_otp (p : Packet) (code offset : Nat) (ps : List Byte) :
    (d.answer p code offset ps).otp = d.otp := still_otp (still_answer p code offset ps)

@[simp] theorem raise_otp (v : Nat) : (d.raise v).otp = d.otp := still_otp (still_raise v)

@[simp] theorem enterMode_otp (m : BitVec 4) : (d.enterMode m).otp = d.otp := by
  obtain ⟨x, hx⟩ := setMode_eq d m
  rw [still_otp (still_enterMode m), hx]
  rfl

/-! ## Sources -/

@[simp] theorem unlatch_otp : (d.unlatch id).otp = d.otp := by
  unfold Dev.unlatch
  extract_lets x
  split <;> rfl

@[simp] theorem causeLeft_otp (was : Bool) : (d.causeLeft id was).otp = d.otp := by
  unfold Dev.causeLeft
  extract_lets x
  split
  · rw [unlatch_otp]; split <;> simp
  · rfl

@[simp] theorem endCause_otp : (d.endCause id).otp = d.otp := causeLeft_otp _ id _

/-! ## Ports -/

@[simp] theorem setHpen_otp (v : Bool) : (d.setHpen gp v).otp = d.otp := by
  unfold Dev.setHpen
  extract_lets was e
  split <;> rfl

@[simp] theorem abortScan_otp : (d.abortScan gp).otp = d.otp := by
  unfold Dev.abortScan
  extract_lets c e
  split
  · rfl
  · exact occur_otp e _ _ _ _

@[simp] theorem portOff_otp : (d.portOff gp).otp = d.otp := by simp [Dev.portOff]

@[simp] theorem stopPiece_otp (unit : Piece → Nat) : (d.stopPiece gp unit).otp = d.otp := by
  unfold Dev.stopPiece
  split
  · rfl
  · extract_lets now u stop
    split
    · rfl
    · split <;> rfl

@[simp] theorem critHold_otp : (d.critHold gp).otp = d.otp := by
  unfold Dev.critHold
  extract_lets p out cut e stop e'
  have hout (d : Dev) (k : RowId) (r : Row) : (out d k r).otp = d.otp := by
    simp only [out]; split <;> rfl
  have he : e'.otp = d.otp := by simp [e', e, hout]
  clear_value cut
  cases cut <;> exact he

@[simp] theorem containPort_otp (crit : Bool) : (d.containPort crit gp).otp = d.otp := by
  unfold Dev.containPort
  cases crit <;> simp

@[simp] theorem cutPort_otp : (d.cutPort gp).otp = d.otp := by
  simp only [Dev.cutPort, portOff_otp, Dev.modPort_otp]
  split <;> rfl

/-! ## Axes -/

@[simp] theorem taxOff_otp (n : Fin 4) : (d.taxOff n).otp = d.otp := endCause_otp _ _

@[simp] theorem taxKill_otp (n : Fin 4) : (d.taxKill n).otp = d.otp := by
  simp only [Dev.taxKill]
  split_ifs <;> simp

@[simp] theorem taxStop_otp (n : Fin 4) : (d.taxStop n).otp = d.otp := by
  simp only [Dev.taxStop]
  split_ifs <;> simp

@[simp] theorem auxUnpower_otp (n : Fin 8) : (d.auxUnpower n).otp = d.otp := by
  simp only [Dev.auxUnpower, endCause_otp, Dev.modAux_otp]
  split <;> simp

@[simp] theorem auxOff_otp (n : Fin 8) : (d.auxOff n).otp = d.otp := auxUnpower_otp _ n

@[simp] theorem auxStop_otp (n : Fin 8) : (d.auxStop n).otp = d.otp := by
  simp only [Dev.auxStop]
  split_ifs <;> simp

@[simp] theorem setBrk_otp (v : Bool) : (d.setBrk v).otp = d.otp := by
  unfold Dev.setBrk
  split <;> simp

/-! ## Feeds, swaths and jobs -/

@[simp] theorem dmaComplete_otp (c : Fin 32) : ∀ (n : Nat) (d : Dev), (Dev.dmaComplete c n d).otp = d.otp
  | 0, _ => rfl
  | n + 1, d => by
    unfold Dev.dmaComplete
    split
    · rfl
    · split
      · rw [dmaComplete_otp c n]; split <;> simp
      · rfl

@[simp] theorem dmaSettle_otp (c : Fin 32) : (d.dmaSettle c).otp = d.otp := dmaComplete_otp c _ d

@[simp] theorem stopFeeds_otp : d.stopFeeds.otp = d.otp := by
  refine otp_foldl (fun d c => ?_) (fins 32) d
  dsimp only
  split <;> simp

section
variable (s : Fin 16) (epoch lines : Nat)

@[simp] theorem endFeed_otp (ends : Bool) : (d.endFeed s epoch lines ends).otp = d.otp := by
  unfold Dev.endFeed
  extract_lets e
  have he : e.otp = d.otp := foldl_modPort_otp _ _ d
  split
  · exact he
  · rw [dmaSettle_otp]; exact he

@[simp] theorem dropTokens_otp : (d.dropTokens s epoch lines).otp = d.otp := by
  unfold Dev.dropTokens
  exact foldl_modPort_otp _ _ d

@[simp] theorem leaveRun_otp : (d.leaveRun s epoch).otp = d.otp := by
  unfold Dev.leaveRun
  exact foldl_modPort_otp _ _ d

@[simp] theorem settleSwath_otp : (d.settleSwath s).otp = d.otp := by
  unfold Dev.settleSwath
  extract_lets w e d1 d2
  have h1 : d1.otp = d.otp := otp_foldl (fun d k => leaveRun_otp d s k) _ d
  split
  · rw [Dev.modSwath_otp, ← h1]
    unfold d2
    split <;> simp
  · rfl

@[simp] theorem settleActive_otp : d.settleActive.otp = d.otp := by
  unfold Dev.settleActive
  split <;> rfl

@[simp] theorem endSwath_otp : (d.endSwath s).otp = d.otp := by
  unfold Dev.endSwath
  extract_lets w
  split <;> simp

@[simp] theorem dropPending_otp : (d.dropPending s).otp = d.otp := by
  unfold Dev.dropPending
  split <;> simp

end

@[simp] theorem disarmKeep_otp : d.disarmKeep.otp = d.otp := by
  unfold Dev.disarmKeep
  split
  · rfl
  · next a _ =>
    extract_lets e
    have he : e.otp = d.otp := (occur_otp _ _ _ _ _).trans (otp_foldl dropPending_otp a.toSwitch _)
    rw [otp_foldl fun d (w : WorkEntry) => answer_otp d w.packet stOk noField (le4 a.boundary.toNat), settleActive_otp,
      he]

@[simp] theorem disarm_otp : d.disarm.otp = d.otp := disarmKeep_otp d

/-! ## Reactions -/

@[simp] theorem overtake_otp : d.overtake.otp = d.otp := by
  unfold Dev.overtake
  rw [otp_foldl fun d (w : WorkEntry) => answer_otp d w.packet stHalted noField []]
  rfl

@[simp] theorem stopActions_otp : d.stopActions.otp = d.otp := by
  unfold Dev.stopActions
  extract_lets d1 d2 d3 d4 d5 d6
  have h1 : d1.otp = d.otp := (stopFeeds_otp _).trans (overtake_otp d)
  have h2 : d2.otp = d.otp := (disarm_otp d1).trans h1
  have h3 : d3.otp = d.otp := (otp_foldl endSwath_otp _ d2).trans h2
  have h4 : d4.otp = d.otp := (otp_foldl (fun d gp => (Dev.modPort_otp _ gp _).trans (stopPiece_otp d gp _)) _ d3).trans h3
  have h5 : d5.otp = d.otp := (otp_foldl abortScan_otp _ d4).trans h4
  have h6 : d6.otp = d.otp := (otp_foldl taxStop_otp _ d5).trans h5
  exact (otp_foldl auxStop_otp _ d6).trans h6

@[simp] theorem killOutputs_otp : d.killOutputs.otp = d.otp := by
  rw [Dev.killOutputs, otp_foldl auxOff_otp, setBrk_otp, Dev.modBus_otp, otp_foldl taxKill_otp, otp_foldl cutPort_otp,
    Dev.modFlt_otp]

@[simp] theorem killActions_otp : d.killActions.otp = d.otp := by simp [Dev.killActions]

@[simp] theorem containUnit_otp (u : FaultUnit) : (d.containUnit id u).otp = d.otp := by
  unfold Dev.containUnit
  extract_lets new e
  have he : e.otp = d.otp := by unfold e; split <;> rfl
  rw [← he]
  have hports (u : FaultUnit) (crit : Bool) :
      ((e.unitPorts u).foldl (Dev.containPort · crit) (Dev.containUnit.returnFlits e u)).otp = e.otp := by
    rw [otp_foldl fun d gp => containPort_otp d gp crit]
    cases u <;> rfl
  split
  · split
    · exact hports _ _
    · exact hports _ _
    · exact hports _ _
    · split_ifs <;> simp
    · split <;> simp
    · rfl
  · split
    · exact otp_foldl critHold_otp _ e
    · rfl

@[simp] theorem react_otp (k : Nat) (us : List FaultUnit) : (d.react id k us).otp = d.otp := by
  unfold Dev.react
  extract_lets d1 d2
  have h1 : d1.otp = d.otp := by unfold d1; split <;> rfl
  have h2 : d2.otp = d.otp := (otp_foldl (fun d u => containUnit_otp d id u) us d1).trans h1
  split_ifs <;> simp [h2]

@[simp] theorem wakeFrom_otp (source : BitVec 4) (ready : Bool) : (d.wakeFrom source ready).otp = d.otp := by
  unfold Dev.wakeFrom
  split
  · rw [occur_otp]
    split <;> simp
  · rfl

@[simp] theorem collect_otp (k : Nat) (forced : Bool) (us : List FaultUnit) :
    (d.collect id k forced us).otp = d.otp := by
  unfold Dev.collect
  split
  · extract_lets esc start d1 d2
    have h2 : d2.otp = d.otp := by
      unfold d2
      split
      · exact occur_otp d1 _ _ _ _
      · exact Dev.modFlt_otp d _
    split_ifs
    · simp [h2]
    · rw [otp_foldl fun d u => containUnit_otp d id u, h2]
    · exact h2
  · split
    · rfl
    · exact (react_otp _ id k us).trans (Dev.modFlt_otp d _)

@[simp] theorem detectCore_otp (forced : Bool) (floor : Nat) (info : Option Nat) :
    (d.detectCore id forced floor info).otp = d.otp := by
  unfold Dev.detectCore
  split
  · rfl
  extract_lets d1 x k boot d2 us k' d3 d4
  have h3 : d3.otp = d.otp := by unfold d3; split <;> rfl
  have h4 : d4.otp = d.otp := by unfold d4; split <;> simp [Dev.faultWake, h3]
  split_ifs <;> simp [h4, d1]

@[simp] theorem checkOvf_otp : d.checkOvf.otp = d.otp := by
  unfold Dev.checkOvf
  extract_lets full
  split_ifs <;> simp

@[simp] theorem event_otp (cls : Fin 16) (kind source : Nat) (data : List Byte) :
    (d.event cls kind source data).otp = d.otp := by simp [Dev.event]

/-! ## Head discovery -/

@[simp] theorem readId_otp (ids : List (Fin 112 × DWord)) : (d.readId ids gp).otp = d.otp := by
  unfold Dev.readId
  split <;> simp

@[simp] theorem readIds_otp (ids : List (Fin 112 × DWord)) : (d.readIds ids).otp = d.otp :=
  otp_foldl (fun d gp => readId_otp d gp ids) _ d

end

end Sys2Proof.Laws
end

section
/-! SUPPORT. What a cold start leaves of nozzle maps and raw values, when step 8 scans, and what WRST_N does in BOOT (R84,
R86). -/

namespace Sys2Proof.Laws

open Machine

/-! ## Memory at its reset contents -/

theorem winBlank_mapAddr {gp n : Nat} (hn : n < 10240) : winBlank (mapAddr gp n) = 0x14 := by
  unfold winBlank mapAddr dieBase
  extract_lets o
  rw [if_pos]
  simp only [Bool.and_eq_true, decide_eq_true_eq]
  omega

/-- The raw table lies above the map windows of its die. -/
theorem winBlank_raw {gp n : Nat} (hn : n < 20480) : winBlank (rawAddr gp 0 + n) = 0 := by
  unfold winBlank rawAddr dieBase
  extract_lets o
  rw [if_neg]
  simp only [Bool.and_eq_true, decide_eq_true_eq]
  omega

/-- In a memory at its reset contents every map byte is 0x14 and every raw entry 0 (R84, R416). -/
theorem blank_maps_and_raw {gp n : Nat} (hn : n < 10240) : ({} : Banks).byte (mapAddr gp n) = 0x14
    ∧ ({} : Banks).byte (rawAddr gp n) = 0 ∧ ({} : Banks).byte (rawAddr gp n + 1) = 0 :=
  ⟨winBlank_mapAddr hn, winBlank_raw (n := 2 * n) (by omega), winBlank_raw (n := 2 * n + 1) (by omega)⟩

/-! ## Step 8 -/

section
variable {d : Dev}

theorem coldScan_skipped (h : d.otp.coldScan = false) : d.coldScan = d.toReady :=
  if_neg (by simp [h])

theorem coldScan_asked (h : d.otp.coldScan = true) :
    d.coldScan = (let e := d.modSys fun x => { x with coldScan := true }
      (((fins 112).filter fun gp => e.ports[gp].powered && e.ports[gp].headValid).foldl
        (fun d gp => d.beginScan 1 (scanLimit d.ports[gp].headId) true gp) e).toReady) :=
  if_pos h

/-- Whether step 8 scans is what step 3 took from the array: head discovery leaves it as it is. -/
theorem coldScan_after_discovery (ids : List (Fin 112 × DWord)) :
    ((d.readIds ids).atStep 8).otp.coldScan = d.otp.coldScan :=
  congrArg Otp.coldScan (readIds_otp d ids)

/-! ## WRST_N in BOOT -/

theorem coldBoot_of_boot (hmode : d.mode = mBoot) : d.coldBoot = !d.sys.warm := by simp [Dev.coldBoot, hmode]

/-- The rise of WRST_N in the BOOT of a cold start is the pin's alone (R86). -/
theorem warmRow_of_coldBoot (m : Banks) (rows : OtpRows) (w : WarmStart) (hheld : d.sys.held = false)
    (hboot : d.coldBoot = true) (hwrst : d.sys.wrstN = false) :
    d.warmRow m rows w = (d.modSys fun x => { x with wrstN := true }, m) := by
  rw [Dev.warmRow, hheld, hwrst, hboot]
  rfl

end

/-- Settles O15: a cold start leaves every bank blank, and step 8 follows the bit that step 3 has taken. -/
theorem coldScanOnlyWhenAsked : Obligations.ColdScanOnlyWhenAsked := by
  refine ⟨?blank, ?bit, ?step8⟩
  case blank =>
    intro s t c hheld hporst hexec gp _ n hn
    rw [exec_coldStart, execColdStart_of_held c hheld hporst] at hexec
    obtain rfl := Host.Outcome.next.inj hexec
    exact blank_maps_and_raw hn
  case bit => exact fun d rows fails => rfl
  case step8 =>
    intro s ids hheld hmode hstep hhalt
    rw [exec_headPwrWait, headPwrWait_at_step7 ids hheld hmode hstep hhalt]
    refine ⟨fun hskip => ?_, fun d hd hasked => ?_⟩
    · rw [coldScan_skipped ((coldScan_after_discovery ids).trans hskip)]
    · rw [coldScan_asked ((coldScan_after_discovery ids).trans hasked), hd]

/-- Settles O16: in BOOT it is the kind of the start that tells whether WRST_N acts. -/
theorem wrstDuringBoot : Obligations.WrstDuringBoot := by
  refine ⟨fun s w hheld hmode hwarm => ?cold, fun s w hheld hmode hwarm => ?warm⟩
  case cold =>
    have hboot : s.dev.coldBoot = true := by rw [coldBoot_of_boot hmode, hwarm]; rfl
    rw [exec_wrstNFall, exec_warmStart, wrstFall_ignored (.inr hboot)]
    exact ⟨rfl, fun hwrst => onMem_of_eq (warmRow_of_coldBoot s.mem s.rows w hheld hboot hwrst)⟩
  case warm =>
    have hboot : s.dev.coldBoot = false := by rw [coldBoot_of_boot hmode, hwarm]; rfl
    rw [exec_wrstNFall, exec_warmStart, wrstFall_of_running hheld hboot]
    refine ⟨rfl, fun hwrst => ?_⟩
    have hrow := warmRow_of_running s.mem s.rows w hheld hboot (.inl hwrst)
    rw [hwrst] at hrow
    exact onMem_of_pair hrow

end Sys2Proof.Laws
end

section
/-! SUPPORT. The changes of mode that commands ask for: SET_MODE in its turn (R78 to R80, Table 4.2), FALLOW (R99 to R101)
and the eight forms of RESET (R90 to R98, Table 4.10). -/

namespace Sys2Proof.Laws

open Machine

section
variable {sp : CmdSpec} {p : Packet} {x : Session} {s : State} {d : Dev}

/-- A ready command whose reply carries no parameters ends on the device its body leaves. -/
theorem cmdDev_finish {body : Ctx → Chk (Dev × Finish)} {f : Finish} (h : Ready sp p x s)
    (hb : body ⟨s, p, x⟩ = .ok (d, f)) (hf : f.size = 0) : cmdDev sp body p s = d.finish p f :=
  cmdDev_ok h.1 hb (hf ▸ h.2)

/-- A command that is answered at once or parks, as a condition decides. -/
theorem onDev_ite {body : Ctx → Chk (Dev × Finish)} {c : Prop} [Decidable c] {r₁ r₂ : Dev × Finish} (h : Ready sp p x s)
    (hb : body ⟨s, p, x⟩ = .ok (if c then r₁ else r₂)) (h₁ : r₁.2.size = 0) (h₂ : r₂.2.size = 0) :
    onDev (cmdDev sp body p) s =
      if c then .next { s with dev := r₁.1.finish p r₁.2 } else .next { s with dev := r₂.1.finish p r₂.2 } := by
  split
  · next hc => exact onDev_of_eq (cmdDev_finish h (hb.trans (congrArg _ (if_pos hc))) h₁)
  · next hc => exact onDev_of_eq (cmdDev_finish h (hb.trans (congrArg _ (if_neg hc))) h₂)

/-! ## Parked commands -/

/-- What parking the command of a packet makes of an entry of the work queue. -/
def parkEntry (p : Packet) (w : Park) (e : WorkEntry) : WorkEntry := if e.packet = p then { e with park := some w } else e

@[simp] theorem parkEntry_packet (w : Park) (e : WorkEntry) : (parkEntry p w e).packet = e.packet := by
  unfold parkEntry
  split <;> rfl

@[simp] theorem parkEntry_orphan (w : Park) (e : WorkEntry) : (parkEntry p w e).orphan = e.orphan := by
  unfold parkEntry
  split <;> rfl

theorem finish_park_work (w : Park) : (d.finish p (.park w)).ses.work = d.ses.work.map (parkEntry p w) := rfl

/-- A command that parks goes on to act for the session it acted for. -/
theorem actsFor_park (w : Park) : (d.finish p (.park w)).actsFor p = d.actsFor p := by
  have horphan : ((d.finish p (.park w)).entryOf p).orphan = (d.entryOf p).orphan := by
    have hfind : (d.finish p (.park w)).ses.work.find? (fun e : WorkEntry => e.packet = p)
        = (d.ses.work.find? fun e : WorkEntry => e.packet = p).map (parkEntry p w) := by
      rw [finish_park_work, List.find?_map]
      simp only [Function.comp_def, parkEntry_packet]
    rw [Dev.entryOf, Dev.entryOf, hfind]
    cases d.ses.work.find? fun e : WorkEntry => e.packet = p with
    | none => rfl
    | some e => exact parkEntry_orphan w e
  rw [Dev.actsFor, horphan]
  rfl

/-! ## SET_MODE -/

/-- No transition of Table 4.2 leads from a mode to itself. -/
theorem not_modeListed_self : ∀ m : BitVec 4, modeListed m m = false := by decide

/-- The only SET_MODE that waits is the one just parked. -/
theorem find_modeWait (hq : d.taken p = true) (hother : ∀ e ∈ d.ses.work, e.park ≠ some .modeWait) :
    ∃ e, (d.finish p (.park .modeWait)).ses.work.find? (fun e : WorkEntry => e.park == some .modeWait) = some e
      ∧ e.packet = p := by
  obtain ⟨e, he, hp⟩ : ∃ e ∈ d.ses.work, e.packet = p := by
    unfold Dev.taken at hq
    split at hq
    · next e he => exact ⟨e, List.mem_of_find?_eq_some he, of_decide_eq_true hq⟩
    · cases hq
  have hsome : ((d.finish p (.park .modeWait)).ses.work.find? fun e : WorkEntry => e.park == some .modeWait).isSome := by
    rw [List.find?_isSome]
    exact ⟨_, List.mem_map_of_mem he, by simp [hp]⟩
  obtain ⟨y, hy⟩ := Option.isSome_iff_exists.mp hsome
  refine ⟨y, hy, ?_⟩
  obtain ⟨z, hz, rfl⟩ := List.mem_map.mp (List.mem_of_find?_eq_some hy)
  have hwait := List.find?_some hy
  by_cases hzp : z.packet = p
  · simp [hzp]
  · simp only [hzp, if_false, beq_iff_eq] at hwait
    exact absurd hwait (hother z hz)

/-- With no change of mode under way the parked SET_MODE has its turn, and then the others (R80). -/
theorem nextMode_of_park (n : Nat) (hq : d.taken p = true) (hother : ∀ e ∈ d.ses.work, e.park ≠ some .modeWait)
    (hchanging : d.sys.changing = false) :
    (d.finish p (.park .modeWait)).nextMode (n + 1) = ((d.finish p (.park .modeWait)).tryMode p).nextMode n := by
  obtain ⟨e, he, rfl⟩ := find_modeWait hq hother
  have hstill : (d.finish e.packet (.park .modeWait)).sys.changing = false := hchanging
  rw [Dev.nextMode, hstill, he]
  rfl

/-- SET_MODE is judged in its turn, first against Table 6.2 alone. -/
theorem exec_setMode {n : Nat} (h : Ready specSetMode p x s) (hmode : par p 0 1 ∈ [2, 3, 4, 5, 7])
    (hroom : replyFits p x.macRequired 1 = true) (hchanging : s.dev.sys.changing = false)
    (hother : ∀ e ∈ s.dev.ses.work, e.park ≠ some .modeWait) (hlen : s.dev.ses.work.length = n + 1) :
    exec (.setMode p) s = .next { s with dev := ((s.dev.finish p (.park .modeWait)).tryMode p).nextMode n } := by
  have hrange : (decide (2 ≤ par p 0 1) && decide (par p 0 1 ≤ 5) || par p 0 1 == 7) = true := by
    simp only [List.mem_cons, List.not_mem_nil, or_false] at hmode
    rcases hmode with h | h | h | h | h <;> rw [h] <;> rfl
  have hbody : setModeCmd ⟨s, p, x⟩ = .ok (s.dev, .park .modeWait) := by
    have hneed : (Ctx.mk s p x).needRoom 1 noField = .ok () := need_of hroom
    simp only [setModeCmd, needP_of hrange, hneed]
    rfl
  have hwork : (s.dev.finish p (.park .modeWait)).ses.work.length = n + 1 := by
    rw [finish_park_work, List.length_map, hlen]
  obtain ⟨-, -, -, -, -, htaken, -⟩ := h.1
  have hdev : cmdDev specSetMode setModeCmd p s = s.dev.finish p (.park .modeWait) := cmdDev_finish h hbody rfl
  rw [← nextMode_of_park n htaken hother hchanging, ← hwork, ← hdev]
  rfl

/-- The mode a SET_MODE asks for. -/
abbrev askedMode (p : Packet) : BitVec 4 := BitVec.ofNat 4 (par p 0 1)

theorem tryMode_of_same (h : askedMode p = d.mode) :
    d.tryMode p = d.answer p stOk noField (leBytes 1 d.mode.toNat) := if_pos h

theorem tryMode_of_unlisted (h : askedMode p ≠ d.mode) (hlist : modeListed d.mode (askedMode p) = false) :
    d.tryMode p = d.answer p stMode noField [] :=
  (if_neg h).trans (if_pos (by rw [hlist]; rfl))

section
variable (hlist : modeListed d.mode (askedMode p) = true)
include hlist

theorem asked_ne_of_listed : askedMode p ≠ d.mode := fun h => by
  rw [h, not_modeListed_self] at hlist
  cases hlist

theorem tryMode_of_role (hacts : d.actsFor p = x) (hrole : d.modeRole x d.mode (askedMode p) = false) :
    d.tryMode p = d.answer p stRole noField [] := by
  rw [Dev.tryMode, if_neg (asked_ne_of_listed hlist), hlist, hacts, hrole]
  rfl

/-- A listed transition that the role allows begins; where every row stands at a line boundary it completes at once, else
it waits for that (R79). -/
theorem tryMode_of_allowed (hacts : d.actsFor p = x) (hrole : d.modeRole x d.mode (askedMode p) = true) :
    d.tryMode p =
      if (d.leaveMode (askedMode p)).rowsStill then
        ((d.leaveMode (askedMode p)).arriveMode (askedMode p)).answer p stOk noField (leBytes 1 d.mode.toNat)
      else (d.leaveMode (askedMode p)).finish p (.park (.modeChange d.mode (askedMode p))) := by
  rw [Dev.tryMode, if_neg (asked_ne_of_listed hlist), hlist, hacts, hrole]
  rfl

end

/-! ## FALLOW -/

/-- ENTER_FALLOW's body answers the command and puts the part to sleep (R99). -/
theorem enterFallowCmd_of_mayFallow (h : s.dev.mayFallow = true) :
    enterFallowCmd ⟨s, p, x⟩ =
      (let r := (s.dev.answer p stOk noField []).fallow s.rows s.mem
      .ok (r.1, r.2, .done)) := by
  rw [enterFallowCmd, needFree_of h]
  rfl

/-- A wake source of a host interface that is strapped on ends FALLOW (Tables 2.5, 4.4, R100). -/
theorem exec_fallowWake {source : BitVec 4} (hheld : s.dev.sys.held = false) (hsource : within 1 4 source.toNat)
    (hpcie : source = 2 → s.dev.linkOn (.pcie 0) = true) (hudp : source = 3 → s.dev.linkOn (.udp 0 0) = true) :
    exec (.fallowWake source) s = .next { s with dev := s.dev.wakeFrom source true } := by
  have hcases : ∀ b : BitVec 4, within 1 4 b.toNat → b = 1 ∨ b = 2 ∨ b = 3 ∨ b = 4 := by decide
  refine onDev_of_eq (g := fun s => _) (if_neg ?_)
  rw [hheld]
  rcases hcases source hsource with rfl | rfl | rfl | rfl
  · simp
  · simpa using hpcie
  · simpa using hudp
  · simp

/-- The part at the end of FALLOW, before it enters READY: no encoder channel is referenced any more (Table 4.9). -/
def awake (d : Dev) (source : BitVec 4) : Dev :=
  ((d.modSys fun x => { x with wakeSource := source }).modPos fun x =>
    { x with enc := vall (fun (e : Enc) =>
      { e with copies := vall (fun (c : EncCopy) => { c with unreferenced := true }) e.copies }) x.enc }).modPci fun x =>
    { x with power := 0 }

/-- The end of FALLOW is the entry of READY and a record of POWER (R101). -/
theorem still_wakeFrom {source : BitVec 4} (h : d.mode = mFallow) :
    stillPart (d.wakeFrom source true) = stillPart ((awake d source).setMode mReady) := by
  rw [Dev.wakeFrom, if_pos h]
  exact (still_occur _ _ _ _).trans (still_enterMode _)

theorem awake_copy {source : BitVec 4} (ch : Fin 4) (k : Fin 8) :
    (awake d source).pos.enc[ch].copies[k] = { d.pos.enc[ch].copies[k] with unreferenced := true } := by
  simp [awake]

/-! ## Resets -/

theorem resetWarmCmd_of_still (h : s.dev.axisOn = false) :
    resetWarmCmd ⟨s, p, x⟩ = .ok
      ((((s.dev.answer p stOk noField []).modSes fun t => { t with running := false }).modOtp fun y =>
        { y with queue := [] }).modSys fun y => { y with warmDue := true }, .done) := by
  rw [resetWarmCmd, needFree_of (by rw [h]; rfl)]
  rfl

/-- The unit that a command names by its number. -/
theorem ofNat_of_eq_val {n : Nat} [NeZero n] {a : Nat} {i : Fin n} (h : a = i.val) : Fin.ofNat n a = i := by
  subst h
  exact Fin.ofNat_val_eq_self i

/-- A unit number that is one of the machine's lies in the range of its field. -/
theorem unitRange_of_eq {a : Nat} {hi : Nat} {i : Fin (hi + 1)} (h : par p a 2 = i.val) :
    needRange (pktParams p) a 2 0 hi = .ok () :=
  needRange_of ⟨Nat.zero_le _, h.le.trans (Nat.le_of_lt_succ i.isLt)⟩

/-- The reset of a port or a swath is answered once the lines being fired have ended (Table 4.10, R145). -/
theorem onDev_resetUnit {body : Ctx → Chk (Dev × Finish)} {u : FaultUnit} (hd : d = s.dev.beginReset u)
    (h : Ready sp p x s) (hb : body ⟨s, p, x⟩ = .ok (s.dev.resetUnit u)) :
    onDev (cmdDev sp body p) s = if d.unitStill u then answered s p (d.endReset u) []
      else .next { s with dev := d.finish p (.park (.unitReset u)) } := by
  rw [Dev.resetUnit, ← hd] at hb
  simpa only [Dev.finish] using onDev_ite h hb rfl rfl

theorem resetPortCmd_of_port {gp : Fin 112} (hunit : par p 0 2 = gp.val) (hport : s.dev.hasPort gp.val = true)
    (hdie : s.dev.dieResetting gp = false) : resetPortCmd ⟨s, p, x⟩ = .ok (s.dev.resetUnit (.port gp)) := by
  have hhas : needP (s.dev.hasPort (par p 0 2)) 0 = .ok () := needP_of (hunit ▸ hport)
  have hfree : needFree (!s.dev.dieResetting gp) = .ok () := needFree_of (by rw [hdie]; rfl)
  simp only [resetPortCmd, unitRange_of_eq hunit, hhas, ofNat_of_eq_val hunit, hfree]
  rfl

theorem resetSwathCmd_of_swath {w : Fin 16} (hunit : par p 0 2 = w.val)
    (hdie : ∀ gp ∈ s.dev.swathPorts w, s.dev.dieResetting gp = false) :
    resetSwathCmd ⟨s, p, x⟩ = .ok (s.dev.resetUnit (.swath w)) := by
  have hfree : needFree (!(s.dev.swathPorts w).any fun gp => s.dev.dieResetting gp) = .ok () :=
    needFree_of (by simpa using hdie)
  simp only [resetSwathCmd, unitRange_of_eq hunit, ofNat_of_eq_val hunit, hfree]
  rfl

theorem resetTaxCmd_of_axis {n : Fin 4} (hunit : par p 0 2 = n.val) (htax : s.dev.hasTax = true) :
    resetTaxCmd ⟨s, p, x⟩ = .ok ((s.dev.taxDisable n).leaveContain (.transport n), .ok []) := by
  simp only [resetTaxCmd, unitRange_of_eq hunit, needP_of htax, ofNat_of_eq_val hunit]
  rfl

theorem resetAuxCmd_of_axis {n : Fin 8} (hunit : par p 0 2 = n.val) (haux : s.dev.hasAux = true) :
    resetAuxCmd ⟨s, p, x⟩ = .ok (((s.dev.auxOff n).dropAux n).leaveContain (.aux n), .ok []) := by
  simp only [resetAuxCmd, unitRange_of_eq hunit, needP_of haux, ofNat_of_eq_val hunit]
  rfl

theorem resetSessionCmd_of_open {y : Session} (hid : within 1 255 (par p 0 2))
    (hopen : s.dev.session? (par p 0 2) = some y) :
    resetSessionCmd ⟨s, p, x⟩ = .ok (if par p 0 2 = x.id.toNat
      then ((s.dev.answer p stOk noField []).closeSession y.id 1, .done) else (s.dev.closeSession y.id 1, .ok [])) := by
  simp only [resetSessionCmd, needRange_of hid, hopen]
  exact (apply_ite Except.ok _ _ _).symm

/-- What the reset of a furrow die begins with: its ports stop, its link is trained, its copies start over (R96, R97). -/
def beginDieReset (d : Dev) (f : Fin 7) : Dev :=
  (((d.modDie f fun y => { y with resetting := true }).beginReset (.die f)).retrain f).resyncDie f

theorem resetDieCmd_of_die {f : Fin 7} (hd : d = beginDieReset s.dev f) (hunit : par p 0 2 = f.val)
    (hdie : s.dev.hasDie f.val = true) (hfree : s.dev.dies[f].resetting = false) :
    resetDieCmd ⟨s, p, x⟩ = .ok (if d.dieSyncing f || !d.unitStill (.die f)
      then (d, .park (.dieReset f)) else (d.dieDone f, .ok [])) := by
  have hhas : needP (s.dev.hasDie (par p 0 2)) 0 = .ok () := needP_of (hunit ▸ hdie)
  have hfree : needFree (!s.dev.dies[f].resetting) = .ok () := needFree_of (by rw [hfree]; rfl)
  simp only [resetDieCmd, unitRange_of_eq hunit, hhas, ofNat_of_eq_val hunit, hfree, ← beginDieReset.eq_def, ← hd]
  exact (apply_ite Except.ok _ _ _).symm

end

/-- Settles O24: the SET_MODE just parked is the one whose turn it is, and its turn is one of five. -/
theorem setModeCompletes : Obligations.SetModeCompletes := by
  intro s p x n d old new h hmode hroom hchanging hother hlen hd hold hnew
  obtain ⟨-, -, -, -, -, -, hx, -⟩ := h.1
  have hacts : d.actsFor p = x := by rw [hd, actsFor_park, hx]
  have hsame : old = d.mode := by rw [hold, hd]; rfl
  subst hsame hnew
  rw [exec_setMode h hmode hroom hchanging hother hlen, ← hd]
  refine ⟨fun hsame => ?_, fun hne hlist => ?_, fun hlist hrole => ?_, fun hlist hrole hstill => ?_,
    fun hlist hrole hfiring => ?_⟩
  · rw [tryMode_of_same hsame]
  · rw [tryMode_of_unlisted hne hlist]
  · rw [tryMode_of_role hlist hacts hrole]
  · rw [tryMode_of_allowed hlist hacts hrole, if_pos hstill]
  · rw [tryMode_of_allowed hlist hacts hrole, if_neg (Bool.eq_false_iff.mp hfiring)]

/-- Settles O25: entry is the command's body; the end of FALLOW is the entry of READY, which leaves all but the mode, and
what the wake itself changes, as it is. -/
theorem fallowEnteredAndLeft : Obligations.FallowEnteredAndLeft := by
  refine ⟨fun s p x h hmay => ?enter, fun s source hmode hheld hsource hpcie hudp => ?wake⟩
  case enter =>
    exact ⟨_, rfl, onMem_of_pair (cmdMem_ok h.1 (enterFallowCmd_of_mayFallow hmay) h.2)⟩
  case wake =>
    obtain ⟨y, hy⟩ := setMode_eq (awake s.dev source) mReady
    have hstill := (still_wakeFrom (source := source) hmode).trans (congrArg stillPart hy)
    refine ⟨_, exec_fallowWake hheld hsource hpcie hudp, ?_, ?_, still_power hstill, fun ch k => ?_,
      (still_ports hstill).trans rfl, (still_mot hstill).trans rfl, (still_flt hstill).trans rfl, rfl, rfl⟩
    · exact (congrArg (fun z : Sys => z.mode.val) (still_sys hstill)).trans (mk3_val mReady)
    · exact congrArg Sys.wakeSource (still_sys hstill)
    · have hcopy := (congrArg (fun z : Position => z.enc[ch].copies[k]) (still_pos hstill)).trans (awake_copy ch k)
      exact ⟨congrArg EncCopy.unreferenced hcopy, (congrArg EncCopy.count hcopy).trans rfl⟩

/-- Settles O26: each form is its body, brought to one branch by what the unit is and whether its rows still fire. -/
theorem resetCommandsComplete : Obligations.ResetCommandsComplete := by
  refine ⟨?warm, ?controlPlane, ?port, ?swath, ?transport, ?aux, ?session, ?die⟩
  case warm =>
    exact fun s p x h hstill => onDev_of_eq (cmdDev_finish h (resetWarmCmd_of_still hstill) rfl)
  case controlPlane => exact fun s p x h => onDev_of_eq (cmdDev_finish (f := .done) h rfl rfl)
  case port =>
    exact fun s p x gp h hunit hport hdie => ⟨_, rfl, onDev_resetUnit rfl h (resetPortCmd_of_port hunit hport hdie)⟩
  case swath =>
    exact fun s p x w h hunit hdie => ⟨_, rfl, onDev_resetUnit rfl h (resetSwathCmd_of_swath hunit hdie)⟩
  case transport => exact fun s p x n h hunit htax => onDev_ok h.1 (resetTaxCmd_of_axis hunit htax) h.2
  case aux => exact fun s p x n h hunit haux => onDev_ok h.1 (resetAuxCmd_of_axis hunit haux) h.2
  case session =>
    exact fun s p x y h hid hopen => onDev_ite h (resetSessionCmd_of_open hid hopen) rfl rfl
  case die =>
    intro s p x f h hunit hdie hfree
    obtain ⟨d, hd⟩ : ∃ d, d = beginDieReset s.dev f := ⟨_, rfl⟩
    exact ⟨d, hd, onDev_ite h (resetDieCmd_of_die hd hunit hdie hfree) rfl rfl⟩

end Sys2Proof.Laws
end

section
/-! SUPPORT. How a packet given as a row of Table 6.2 is received, waits, is refused or acts (R106, R124, R184 to R196):
every row is `runCmd`, so what the steps of Table 5.3 decide holds of all of them at once. -/

namespace Sys2Proof.Laws

open Machine

/-! ## Steps 1 to 3, and the SQ slot -/

section
variable {d e : Dev} {p : Packet} {q : Fin 256}

theorem front_of_badCrc (h : pktStep1 p = false) : d.front p = (d.dropCrc, false) := by
  simp [Dev.front, h]

theorem front_of_badLength (h : pktStep1 p = true) (h3 : pktStep3 p = some none) : d.front p = (d.dropLen, false) := by
  simp [Dev.front, h, h3]

theorem front_of_badHeader {code offset : Nat} (h : pktStep1 p = true) (h3 : pktStep3 p = some (some (code, offset))) :
    d.front p = (d.refusePacket p code offset, false) := by
  simp [Dev.front, h, h3]

theorem front_of_verdict {b : Bool} (h : (d.front p).2 = b) : d.front p = ((d.front p).1, b) := by rw [← h]

/-- A packet that passes steps 1 to 7 has passed the first three. -/
theorem step3_of_front (h : (d.front p).2 = true) : pktStep1 p = true ∧ pktStep3 p = none := by
  cases h1 : pktStep1 p with
  | false => rw [front_of_badCrc h1] at h; cases h
  | true =>
    refine ⟨rfl, ?_⟩
    match h3 : pktStep3 p with
    | none => rfl
    | some none => rw [front_of_badLength h1 h3] at h; cases h
    | some (some (c, o)) => rw [front_of_badHeader h1 h3] at h; cases h

theorem slotFront_of_badCrc (h : pktStep1 p = false) :
    d.slotFront q p = (d.dropCrc.cqWrite q 0 0 0 true (d.qpSession q) (.free, 0), false) := by
  simp [Dev.slotFront, h]

theorem slotFront_of_badLength (h : pktStep1 p = true) (h3 : pktStep3 p = some none) :
    d.slotFront q p = (d.dropLen.cqWrite q p.seq 0 0 true (d.qpSession q) (.free, 0), false) := by
  simp [Dev.slotFront, h, h3]

/-- A fetched packet that is not discarded without a reply meets the checks like any other. -/
theorem slotFront_eq_front (h : pktStep1 p = true) (h3 : pktStep3 p ≠ some none) : d.slotFront q p = d.front p := by
  simp [Dev.slotFront, h, h3]

/-! ## Arrival -/

/-- The checks that an arriving packet meets: over PCIe it fills a CQ slot even when it is discarded (R124). -/
def meets (d : Dev) (p : Packet) : Dev × Bool :=
  match p.via with
  | .pcie q => d.slotFront q p
  | _ => d.front p

theorem arrive_of_arrivesOn (h : arrivesOn d p e) : d.arrive p = meets e p := by
  unfold arrivesOn at h
  cases hv : p.via <;> simp only [hv] at h <;> obtain ⟨hroom, rfl⟩ := h
  case pcie => simp [Dev.arrive, meets, hv, hroom]
  case udp => simp [Dev.arrive, meets, hv, Nat.not_le.mpr hroom]
  case spi => simp [Dev.arrive, meets, hv, Nat.not_le.mpr hroom]

theorem meets_of_badCrc (h : pktStep1 p = false) : meets d p = (discardedOn d p 0 d.dropCrc, false) := by
  cases hv : p.via <;> simp [meets, discardedOn, hv, slotFront_of_badCrc h, front_of_badCrc h]

theorem meets_of_badLength (h : pktStep1 p = true) (h3 : pktStep3 p = some none) :
    meets d p = (discardedOn d p p.seq d.dropLen, false) := by
  cases hv : p.via <;> simp [meets, discardedOn, hv, slotFront_of_badLength h h3, front_of_badLength h h3]

theorem meets_eq_front (h : pktStep1 p = true) (h3 : pktStep3 p ≠ some none) : meets d p = d.front p := by
  unfold meets
  split
  · exact slotFront_eq_front h h3
  · rfl

theorem arrive_of_noSlot (hv : p.via = .pcie q) (h : d.takesSlot q = false) : d.arrive p = (d, false) := by
  simp [Dev.arrive, hv, h]

theorem arrive_of_udpFull {ip : Word} {port : BitVec 16} (hv : p.via = .udp ip port) (h : 16 ≤ d.ses.ethRx.length) :
    d.arrive p = (d.dropNet, false) := by
  simp [Dev.arrive, hv, h]

theorem arrive_of_spiFull (hv : p.via = .spi) (h : 2 ≤ d.ses.spiRx.length) : d.arrive p = (d.dropSpi, false) := by
  simp [Dev.arrive, hv, h]

/-! ## The turn of a received command -/

theorem begin_of_waits (h : d.current ≠ none ∨ ∀ w, d.nextCommand = some w → w.packet ≠ p) :
    d.begin p = (d, false) := by
  unfold Dev.begin
  split
  · next w hcur hnext =>
    have hne : w.packet ≠ p := h.resolve_left (not_not_intro hcur) w hnext
    rw [if_neg hne]
  · rfl

/-! ## The steps before step 8 -/

section
variable (hlink : d.linkOn p.via = true)
include hlink

theorem take_of_asleep (hmode : d.mode = mFallow) :
    d.take p = ((d.wakeFrom (viaWake p.via) true).dropDoorbell, false) := by
  simp [Dev.take, hlink, hmode]

variable (hmode : d.mode ≠ mFallow)
include hmode

theorem take_of_closed (hopen : d.intakeOpen = false) : d.take p = (d, false) := by
  simp only [Dev.take, hlink, hmode, hopen]; rfl

variable (hopen : d.intakeOpen = true)
include hopen

theorem take_of_taken (h : d.taken p = true) : d.take p = (d, true) := by
  simp only [Dev.take, hlink, hmode, hopen, queued_of_taken h, h]; rfl

theorem take_of_queued (hq : d.queued p = true) (h : d.taken p = false) : d.take p = d.begin p := by
  simp only [Dev.take, hlink, hmode, hopen, hq, h]; rfl

theorem take_of_stopped (hq : d.queued p = false) (h : d.arrive p = (e, false)) : d.take p = (e, false) := by
  simp only [Dev.take, hlink, hmode, hopen, hq, h]; rfl

theorem take_of_passed (hq : d.queued p = false) (h : d.arrive p = (e, true)) :
    d.take p = (e.enqueue p).begin p := by
  simp only [Dev.take, hlink, hmode, hopen, hq, h]; rfl

end

end

/-! ## A row of Table 6.2 -/

section
variable {sp : CmdSpec} {p : Packet} {x : Session} {s : State} {d : Dev} {code offset : Nat}

theorem packet_of_codes (hop : p.opcode = sp.opcode) (hvar : p.variant = sp.variant) : sp.packet p = p := by
  rw [CmdSpec.packet, ← hop, ← hvar]

/-- A packet that is not taken changes what its arrival changes, and the row commits nothing. -/
theorem runCmd_of_notTaken {α : Type} {body : Ctx → Chk (Dev × α × Finish)} {keep : State → α}
    (hop : p.opcode = sp.opcode) (hvar : p.variant = sp.variant) (h : s.dev.take p = (d, false)) :
    runCmd sp body keep p s = (d, keep s) := by
  simp [runCmd, packet_of_codes hop hvar, h]

/-- A command that steps 9 to 11 refuse is answered with their status, and the row commits nothing. -/
theorem runCmd_of_judgedOut {α : Type} {body : Ctx → Chk (Dev × α × Finish)} {keep : State → α} (h : Taken sp p x s)
    (hj : s.judge sp p x = .error (code, offset)) :
    runCmd sp body keep p s = (s.dev.answer p code offset [], keep s) := by
  obtain ⟨hlink, hmode, hopen, hop, hvar, htaken, hacts⟩ := h
  simp [runCmd, packet_of_codes hop hvar, take_of_taken hlink hmode hopen htaken, hacts, hj]

/-- What a row of Table 6.2 means: a command of that row that changes the device alone, or one that may write memory. -/
inductive RunsAs (sp : CmdSpec) (p : Packet) (s : State) (o : Out) : Prop
  | dev {body : Ctx → Chk (Dev × Finish)} (h : o = onDev (cmdDev sp body p) s)
  | mem {body : Ctx → Chk (Dev × Banks × Finish)} (h : o = onMem (cmdMem sp body p) s)

theorem RunsAs.of_notTaken {o : Out} (h : RunsAs sp p s o) (hop : p.opcode = sp.opcode) (hvar : p.variant = sp.variant)
    (ht : s.dev.take p = (d, false)) : o = .next { s with dev := d } := by
  cases h with
  | dev h => exact h.trans (onDev_of_eq (by rw [cmdDev, runCmd_of_notTaken hop hvar ht]))
  | mem h => exact h.trans (onMem_of_eq (runCmd_of_notTaken hop hvar ht))

theorem RunsAs.of_judgedOut {o : Out} (h : RunsAs sp p s o) (ht : Taken sp p x s)
    (hj : s.judge sp p x = .error (code, offset)) : o = refused s p code offset := by
  cases h with
  | dev h => exact h.trans (onDev_of_eq (by rw [cmdDev, runCmd_of_judgedOut ht hj]))
  | mem h => exact h.trans (onMem_of_eq (runCmd_of_judgedOut ht hj))

/-! ## Steps 9 to 11 -/

theorem judge_of_role (h : sp.role x (pktParams p) = false) : s.judge sp p x = .error (stRole, noField) := by
  rw [State.judge, h]; rfl

section
variable (hrole : sp.role x (pktParams p) = true)
include hrole

theorem judge_of_named {o : Nat} (h : sp.named s x (pktParams p) = some o) : s.judge sp p x = .error (stRole, o) := by
  rw [State.judge, hrole, h]; rfl

variable (hnamed : sp.named s x (pktParams p) = none)
include hnamed

theorem judge_of_mode (h : s.dev.judgedMode ∉ sp.modes) :
    s.judge sp p x = .error (if s.dev.judgedMode = mHalted then stHalted else stMode, noField) := by
  have hmode : sp.modes.contains s.dev.judgedMode = false := by simpa using h
  simp only [State.judge, hrole, hnamed, hmode]
  rfl

theorem judge_of_length (hmode : s.dev.judgedMode ∈ sp.modes) (h : sp.len (pktParams p) = false) :
    s.judge sp p x = .error (stBadLength, 10) := by
  have hmode : sp.modes.contains s.dev.judgedMode = true := by simpa using hmode
  simp only [State.judge, hrole, hnamed, hmode, h]
  rfl

end

end

/-! ## Every row is one -/

/-- Each row of a list means a command of its row of Table 6.2. -/
def AllRun (rows : List CmdRow) : Prop :=
  ∀ r ∈ rows, ∀ (p : Packet) (s : State), RunsAs (r.spec s.dev) p s (exec (r.instr p) s)

theorem AllRun.append {a b : List CmdRow} (ha : AllRun a) (hb : AllRun b) : AllRun (a ++ b) :=
  List.forall_mem_append.mpr ⟨ha, hb⟩

theorem sessionRows_run : AllRun sessionRows := by
  intro r hr p s
  fin_cases hr <;> exact .dev rfl

theorem systemRows_run : AllRun systemRows := by
  intro r hr p s
  fin_cases hr <;> exact .dev rfl

theorem registerRows_run : AllRun registerRows := by
  intro r hr p s
  fin_cases hr <;> exact .mem rfl

theorem dmaRows_run : AllRun dmaRows := by
  intro r hr p s
  fin_cases hr <;> exact .dev rfl

theorem jobRows_run : AllRun jobRows := by
  simp only [AllRun, jobRows, List.forall_mem_cons]
  exact ⟨fun _ _ => .dev rfl,   -- SWATH_DEFINE
    fun _ _ => .mem rfl,        -- JOB_WRITE
    fun _ _ => .dev rfl,        -- JOB_READ
    fun _ _ => .dev rfl,        -- JOB_SWITCH
    fun _ _ => .dev rfl,        -- JOB_CANCEL, disarm
    fun _ _ => .dev rfl,        -- JOB_CANCEL, end
    fun _ _ => .dev rfl,        -- JOB_STATUS
    List.forall_mem_nil _⟩

theorem portRows_run : AllRun portRows := by
  simp only [AllRun, portRows, List.forall_mem_cons]
  exact ⟨fun _ _ => .dev rfl,   -- PORT_CONFIG
    fun _ _ => .dev rfl,        -- PORT_ENABLE
    fun _ _ => .mem rfl,        -- WAVE_WRITE
    fun _ _ => .dev rfl,        -- HEAT_CONFIG
    fun _ _ => .dev rfl,        -- PULSE_AUX
    fun _ _ => .dev rfl,        -- PORT_STATUS
    List.forall_mem_nil _⟩

theorem headRows_run : AllRun headRows := by
  simp only [AllRun, headRows, scanRows, nozzleRows, List.cons_append, List.nil_append, List.forall_mem_cons]
  exact ⟨fun _ _ => .dev rfl,   -- SCAN_START, foreground
    fun _ _ => .dev rfl,        -- SCAN_START, background
    fun _ _ => .mem rfl,        -- MAP_EDIT, a run
    fun _ _ => .mem rfl,        -- MAP_EDIT, a list
    fun _ _ => .dev rfl,        -- MAP_READ
    fun _ _ => .dev rfl,        -- RAW_READ
    fun _ _ => .dev rfl,        -- BAND_SET
    fun _ _ => .mem rfl,        -- CAL_WRITE
    fun _ _ => .dev rfl,        -- PATTERN_PRINT
    List.forall_mem_nil _⟩

theorem encoderRows_run : AllRun encoderRows := by
  intro r hr p s
  fin_cases hr <;> exact .dev rfl

theorem transportRows_run : AllRun transportRows := by
  intro r hr p s
  fin_cases hr <;> exact .dev rfl

theorem auxiliaryRows_run : AllRun auxiliaryRows := by
  intro r hr p s
  fin_cases hr <;> exact .dev rfl

theorem faultRows_run : AllRun faultRows := by
  intro r hr p s
  fin_cases hr <;> exact .dev rfl

theorem restRows_run : AllRun restRows := by
  simp only [AllRun, restRows, List.forall_mem_cons]
  exact ⟨fun _ _ => .dev rfl,                         -- OTP_READ
    fun _ _ => .dev rfl,                              -- OTP_PROGRAM
    fun _ _ => .dev rfl,                              -- OTP_FINALISE
    fun _ _ => .dev (body := tmxSelectCmd) rfl,       -- TMX_SELECT
    fun _ _ => .mem rfl,                              -- ENTER_FALLOW
    fun _ _ => .dev rfl,                              -- EVENT_SUBSCRIBE
    fun _ _ => .dev rfl,                              -- EVENT_READ
    fun _ _ => .dev rfl,                              -- EVENT_COUNTERS
    List.forall_mem_nil _⟩

/-- Every row of Table 6.2 but SET_MODE is one command of its row, and nothing besides. -/
theorem commandRows_run : AllRun commandRows :=
  sessionRows_run |>.append systemRows_run |>.append registerRows_run |>.append dmaRows_run |>.append jobRows_run
    |>.append portRows_run |>.append headRows_run |>.append encoderRows_run |>.append transportRows_run
    |>.append auxiliaryRows_run |>.append faultRows_run |>.append restRows_run

/-! ## SET_MODE, which lets the next change of mode go on (R80) -/

section
variable {p : Packet} {x : Session} {s : State} {d : Dev}

theorem exec_setMode_of_cmd (h : cmdDev specSetMode setModeCmd p s = d) :
    exec (.setMode p) s = .next { s with dev := d.nextMode d.ses.work.length } := by
  rw [← h]; rfl

theorem exec_setMode_of_judgedOut {code offset : Nat} (h : Taken specSetMode p x s)
    (hj : s.judge specSetMode p x = .error (code, offset)) (hd : d = s.dev.answer p code offset []) :
    exec (.setMode p) s = .next { s with dev := d.nextMode d.ses.work.length } :=
  exec_setMode_of_cmd (by rw [cmdDev, runCmd_of_judgedOut h hj, hd])

end

/-- Settles O11: every row goes through `runCmd`, which answers a refusal of steps 9 to 11 before the body runs. -/
theorem refusedCommandCommitsNothing : Obligations.RefusedCommandCommitsNothing := by
  constructor
  · intro r hr s p x ht
    have hrun : RunsAs (r.spec s.dev) p s (exec (r.instr p) s) := commandRows_run r hr p s
    exact ⟨fun hrole => hrun.of_judgedOut ht (judge_of_role hrole),
      fun o hrole hnamed => hrun.of_judgedOut ht (judge_of_named hrole hnamed),
      fun hrole hnamed hmode => hrun.of_judgedOut ht (judge_of_mode hrole hnamed hmode),
      fun hrole hnamed hmode hlen => hrun.of_judgedOut ht (judge_of_length hrole hnamed hmode hlen)⟩
  · intro s p x d ht
    exact ⟨fun hmode => exec_setMode_of_judgedOut ht (judge_of_mode rfl rfl hmode),
      fun hmode hlen => exec_setMode_of_judgedOut ht (judge_of_length rfl rfl hmode hlen)⟩

/-- A packet of a row of Table 6.2 that is not taken changes what its arrival changes; behind SET_MODE the next change of
mode goes on. -/
theorem exec_of_notTaken {s : State} {p : Packet} {c : Instr} {sp : CmdSpec} {after : Dev → Dev} {d : Dev}
    (hrow : (∃ r ∈ commandRows, c = r.instr p ∧ sp = r.spec s.dev ∧ after = id)
      ∨ (c = .setMode p ∧ sp = specSetMode ∧ after = fun d => d.nextMode d.ses.work.length))
    (hop : p.opcode = sp.opcode) (hvar : p.variant = sp.variant) (h : s.dev.take p = (d, false)) :
    exec c s = .next { s with dev := after d } := by
  rcases hrow with ⟨r, hr, rfl, rfl, rfl⟩ | ⟨rfl, rfl, rfl⟩
  · exact (commandRows_run r hr p s).of_notTaken hop hvar h
  · exact exec_setMode_of_cmd (by rw [cmdDev, runCmd_of_notTaken hop hvar h])

/-- Settles O12: a row begins with `Dev.take`, and what that leaves of a packet it does not take is all that happens. -/
theorem rejectedPacketsCommitNothing : Obligations.RejectedPacketsCommitNothing := by
  intro s p c sp after hrow hlink hop hvar
  have hexec {d : Dev} (h : s.dev.take p = (d, false)) : exec c s = .next { s with dev := after d } :=
    exec_of_notTaken hrow hop hvar h
  refine ⟨fun hmode => hexec (take_of_asleep hlink hmode), fun hmode hopen => hexec (take_of_closed hlink hmode hopen),
    ?lost, ?waits, ?arrives⟩
  case lost =>
    intro hmode hopen hq
    have hstop {d : Dev} (h : s.dev.arrive p = (d, false)) := hexec (take_of_stopped hlink hmode hopen hq h)
    exact ⟨fun q hv h => hstop (arrive_of_noSlot hv h), fun ip port hv h => hstop (arrive_of_udpFull hv h),
      fun hv h => hstop (arrive_of_spiFull hv h)⟩
  case waits =>
    intro hmode hopen hq htaken hwait
    exact hexec ((take_of_queued hlink hmode hopen hq htaken).trans (begin_of_waits hwait))
  case arrives =>
    intro d hmode hopen hq harr
    have hmeets : s.dev.arrive p = meets d p := arrive_of_arrivesOn harr
    have hstop {e : Dev} (h : meets d p = (e, false)) :=
      hexec (take_of_stopped hlink hmode hopen hq (hmeets.trans h))
    refine ⟨fun h1 => hstop (meets_of_badCrc h1), fun h1 h3 => hstop (meets_of_badLength h1 h3), ?_, ?_, ?_⟩
    · intro code offset h1 h3
      exact hstop ((meets_eq_front h1 (by simp [h3])).trans (front_of_badHeader h1 h3))
    · intro h1 h3 hfront
      exact hstop ((meets_eq_front h1 (by simp [h3])).trans (front_of_verdict hfront))
    · rintro e hfront rfl hwait
      obtain ⟨h1, h3⟩ := step3_of_front hfront
      have hpass : s.dev.arrive p = ((d.front p).1, true) :=
        hmeets.trans ((meets_eq_front h1 (by simp [h3])).trans (front_of_verdict hfront))
      exact hexec ((take_of_passed hlink hmode hopen hq hpass).trans (begin_of_waits hwait))

end Sys2Proof.Laws
end

section
/-! SUPPORT. The session and event commands (R112 to R121, R132 to R135, R142, R143, R181 to R183): what each body answers
once its checks hold. -/

namespace Sys2Proof.Laws

open Machine

section
variable {p : Packet} {x : Session} {s : State}

theorem needRoom_of {n offset : Nat} (h : replyFits p x.macRequired n = true) :
    (Ctx.mk s p x).needRoom n offset = .ok () :=
  need_of h

/-! ## Sessions -/

theorem entropy_length (k : Nat) : (entropy k).length = 16 := leBytes_length 16 _

/-- The provisional ID that a challenge reserves (R114, R115). -/
def challenged (d : Dev) (p : Packet) (id : BitVec 8) : Provisional :=
  { id, role := BitVec.ofNat 2 (par p 0 1), slot := BitVec.ofNat 3 (par p 1 1), via := p.via
    macRequired := par p 2 1 == 1 || viaUdp p.via, credits := d.creditsFor p.via (par p 3 1)
    hostNonce := (pktParams p).drop 4, deviceNonce := entropy d.ses.nonces }

theorem openChallenge_of_free {id : BitVec 8} {ids : List (BitVec 8)} (hrole : par p 0 1 ≤ 3) (hslot : par p 1 1 ≤ 7)
    (hmac : par p 2 1 ≤ 1) (hcred : par p 3 1 ≤ 64) (husable : s.dev.slotUsable s.rows (par p 1 1) = true)
    (hlock : s.dev.ses.lockout.getLsbD (par p 1 1) = false) (hfree : s.dev.ses.freeIds = id :: ids)
    (hprov : s.dev.ses.prov.length < 32) (hqp : s.dev.qpTaken p.via = false) (hroom : replyFits p x.macRequired 20 = true) :
    openChallenge ⟨s, p, x⟩ = .ok (s.dev.modSes fun t =>
        { t with freeIds := ids, nonces := t.nonces + 1, prov := t.prov ++ [challenged s.dev p id] },
      .ok (leBytes 2 id.toNat ++ leBytes 2 1000 ++ entropy s.dev.ses.nonces)) := by
  have hneed : (s.dev.slotUsable s.rows (par p 1 1) && !s.dev.ses.lockout.getLsbD (par p 1 1)) = true := by
    rw [husable, hlock]; rfl
  have hbusy : (decide (s.dev.ses.prov.length < 32) && !s.dev.qpTaken p.via) = true := by
    rw [decide_eq_true hprov, hqp]; rfl
  have hids : (Ctx.mk s p x).d.ses.freeIds = id :: ids := hfree
  simp only [openChallenge, needRange_of ⟨Nat.zero_le _, hrole⟩, needRange_of ⟨Nat.zero_le _, hslot⟩,
    needRange_of ⟨Nat.zero_le _, hmac⟩, needRange_of ⟨Nat.zero_le _, hcred⟩, needRoom_of hroom, hids,
    needFree_of hbusy, need_of hneed]
  rfl

/-- The session that the right proof opens (R116, R117). -/
def proved (s : State) (p : Packet) (v : Provisional) : Session :=
  { noSession p with
    id := v.id, role := v.role, slot := v.slot, key := hmacSha256 (slotKey s.rows v.slot.toNat) (3 :: openMessage v)
    macRequired := v.macRequired, credits := v.credits, expectedSeq := 1
    idleSeconds := s.dev.ses.sesIdle, idleSince := s.dev.sys.now }

theorem openProof_of_right {v : Provisional} (hv : s.dev.prov? p = some v)
    (hroom : replyFits p v.macRequired 36 = true)
    (hproof : (pktParams p).take 32 = hmacSha256 (slotKey s.rows v.slot.toNat) (1 :: openMessage v)) :
    openProof ⟨s, p, x⟩ = .ok ((((s.dev.modSes fun t => { t with
          prov := t.prov.filter fun (y : Provisional) => y.id != v.id
          openS := t.openS ++ [proved s p v] }).answer p stOk noField
        (hmacSha256 (slotKey s.rows v.slot.toNat) (2 :: openMessage v) ++ leBytes 1 v.credits
          ++ leBytes 1 v.role.toNat ++ leBytes 2 s.dev.ses.sesIdle)).event
        evSession 1 v.id.toNat [BitVec.ofNat 8 v.role.toNat]), .done) := by
  simp only [openProof, hv, need_of hroom, if_pos hproof]
  rfl

theorem sessionInfoCmd_of_open {y : Session} (hid : par p 0 2 ≤ 255)
    (hy : s.dev.session? (if par p 0 2 = 0 then x.id.toNat else par p 0 2) = some y) :
    sessionInfoCmd ⟨s, p, x⟩ = .ok (s.dev, .ok (s.dev.sessionReply y)) := by
  simp only [sessionInfoCmd, needRange_of ⟨Nat.zero_le _, hid⟩, hy]
  rfl

theorem sessionReply_length (d : Dev) (y : Session) : (d.sessionReply y).length = 16 := by
  simp [Dev.sessionReply]

theorem gateOpenCmd_of_free (h : s.dev.ses.gate = none ∨ s.dev.ses.gate = some x.id) :
    gateOpenCmd ⟨s, p, x⟩ = .ok (s.dev.modSes fun t =>
      { t with gate := if t.openS.any (fun y => y.id == x.id) then some x.id else t.gate }, .ok []) := by
  have hfree : (s.dev.ses.gate == none || s.dev.ses.gate == some x.id) = true := by simpa using h
  simp only [gateOpenCmd, needFree_of hfree]
  rfl

theorem gateCloseCmd_of_held (h : s.dev.ses.gate = some x.id) :
    gateCloseCmd ⟨s, p, x⟩ = .ok (s.dev.modSes fun t => { t with gate := none }, .ok []) := by
  have hheld : (s.dev.ses.gate == some x.id) = true := by simpa using h
  simp only [gateCloseCmd, needFree_of hheld]
  rfl

end

/-- Settles O32: with its checks met each body changes what the command asks for, and the reply fits its transport. -/
theorem sessionCommandsComplete : Obligations.SessionCommandsComplete := by
  refine ⟨?challenge, ?proof, ?close, ?info, ?gateOpen, ?gateClose⟩
  case challenge =>
    intro s p x id ids h hrole hslot _ hmac hcred husable hlock hfree hprov hqp hroom
    refine ⟨entropy_length _, onDev_ok h.1
      (openChallenge_of_free hrole hslot hmac hcred husable hlock hfree hprov hqp hroom) ?_⟩
    simpa [entropy_length] using hroom
  case proof =>
    intro s p x v h hv hroom hproof
    exact onDev_of_eq (cmdDev_finish h (openProof_of_right hv hroom hproof) rfl)
  case close =>
    intro s p x h
    exact onDev_of_eq (cmdDev_finish h (body := closeCmd) rfl rfl)
  case info =>
    intro s p x y h hid hy hroom
    exact onDev_ok h.1 (sessionInfoCmd_of_open hid hy) (by rwa [sessionReply_length])
  case gateOpen =>
    intro s p x h hfree
    exact onDev_ok h.1 (gateOpenCmd_of_free hfree) h.2
  case gateClose =>
    intro s p x h hheld
    exact onDev_ok h.1 (gateCloseCmd_of_held hheld) h.2

/-! ## Events -/

section
variable {p : Packet} {x : Session} {s : State}

theorem seqBytes_length (d : Dev) : d.seqBytes.length = 64 := by
  simp [Dev.seqBytes, List.length_flatMap]

theorem seqBytes_fit (d : Dev) {mac : Bool} (h : replyFits p mac 64 = true) : replyFits p mac d.seqBytes.length = true := by
  rwa [seqBytes_length]

theorem eventSubscribeCmd_of_fields (hcls : getB 14 (par p 0 2) = false) (hport : par p 2 2 = 0 ∨ 1024 ≤ par p 2 2) :
    ∃ d : Dev,
      d = (s.dev.modSession x.id fun y => { y with
        subs := BitVec.ofNat 16 (par p 0 2), subPort := BitVec.ofNat 16 (par p 2 2)
        lost := if par p 0 2 = 0 then 0 else y.lost }).unread x.id (fun k => getB k (par p 0 2))
      ∧ eventSubscribeCmd ⟨s, p, x⟩ = .ok (d, .ok d.seqBytes) := by
  have hcls' : (!getB 14 (par p 0 2)) = true := by rw [hcls]; rfl
  have hport' : (par p 2 2 == 0 || decide (1024 ≤ par p 2 2)) = true := by simpa using hport
  refine ⟨_, rfl, ?_⟩
  simp only [eventSubscribeCmd, needP_of hcls', needP_of hport']
  rfl

/-- The session has read these entries: it waits for them no longer, and has been told what it lost (R135). -/
def readOff (d : Dev) (id : BitVec 8) (mine : List RingEntry) : Dev :=
  ((d.modRing (List.map fun e =>
      if mine.contains e then { e with readers := e.readers.filter (· != id) } else e)).modSession id
    fun y => { y with lost := 0 }).freeEntries.checkOvf

/-- The oldest entries a session has not read, at most `n`. -/
def unreadEntries (d : Dev) (id : BitVec 8) (n : Nat) : List RingEntry :=
  (d.ev.ring.filter fun e => e.readers.contains id).take n

/-- The STREAM record that tells a session how many records it lost (R182). -/
def lostRecord (d : Dev) (x : Session) : EventRecord :=
  { cls := 15, kind := 0, source := BitVec.ofNat 16 x.id.toNat, classSeq := d.ev.seq[15] + 1
    ts := d.sys.now, count := x.lost, data := eventData [] }

theorem countEvent_ring (d : Dev) (cls : Fin 16) : (d.countEvent cls).ev.ring = d.ev.ring := by
  unfold Dev.countEvent
  extract_lets d1
  split
  · unfold Dev.raise
    split <;> rfl
  · rfl

section
variable (hn : within 1 126 (par p 0 2)) (hroom : replyFits p x.macRequired (4 + 32 * par p 0 2) = true)
include hn hroom

theorem eventReadCmd_of_none_lost (hlost : x.lost = 0) :
    eventReadCmd ⟨s, p, x⟩ = .ok (readOff s.dev x.id (unreadEntries s.dev x.id (par p 0 2)),
      .ok (eventParams ((unreadEntries s.dev x.id (par p 0 2)).map fun e => e.record))) := by
  simp only [eventReadCmd, needRange_of hn, needRoom_of hroom, hlost]
  rfl

theorem eventReadCmd_of_lost (hlost : x.lost ≠ 0) :
    eventReadCmd ⟨s, p, x⟩ = .ok
      (readOff (s.dev.countEvent evStream) x.id (unreadEntries s.dev x.id (par p 0 2 - 1)),
      .ok (eventParams (lostRecord s.dev x :: (unreadEntries s.dev x.id (par p 0 2 - 1)).map fun e => e.record))) := by
  simp only [eventReadCmd, needRange_of hn, needRoom_of hroom, if_neg hlost, countEvent_ring]
  rfl

end

end

/-- Settles O33: the bodies' checks hold, and EVENT_READ's reply carries at most the records it has room for. -/
theorem eventCommandsComplete : Obligations.EventCommandsComplete := by
  refine ⟨?subscribe, ?read, ?readLost, ?counters, ?expiry⟩
  case subscribe =>
    intro s p x h hcls hport hroom
    obtain ⟨d, hd, hbody⟩ := eventSubscribeCmd_of_fields hcls hport
    exact ⟨d, hd, onDev_ok h.1 hbody (seqBytes_fit d hroom)⟩
  case read =>
    intro s p x h hn hroom hlost
    exact ⟨_, rfl, onDev_ok h.1 (eventReadCmd_of_none_lost hn hroom hlost)⟩
  case readLost =>
    intro s p x h hn hroom hlost
    exact ⟨_, _, rfl, rfl, onDev_ok h.1 (eventReadCmd_of_lost hn hroom hlost)⟩
  case counters =>
    intro s p x h hroom
    exact onDev_ok h.1 (body := fun c => .ok (c.d, .ok c.d.seqBytes)) rfl (seqBytes_fit s.dev hroom)
  case expiry =>
    intro s e rest hring
    simp only [exec, execEventEntryExpiry, onDev, hring]
    rfl

end Sys2Proof.Laws
end

section
/-! SUPPORT. Queue-pair fetches and turns of the intake (R106, R122, R124, R194, R196), doorbells, Ethernet frames and
expiries (R100, R117, R120, R125 to R128, R443), and the SPI operations (R129 to R131). -/

namespace Sys2Proof.Laws

open Machine

/-- The next states of two devices that are the same. -/
theorem next_of_dev {s : State} {d e : Dev} (h : d = e) :
    (.next { s with dev := d } : Out) = .next { s with dev := e } := by rw [h]

/-! ## Fetches -/

section
variable {d : Dev} {q : Fin 256} {slot : SqSlot} {bytes : List Byte}

theorem sqFetch_of_notFetches (h : d.fetches q = false) : d.sqFetch q slot bytes = d := by
  simp [Dev.sqFetch, Dev.takesSlot, h]

section
variable (hopen : d.intakeOpen = true) (hmode : d.mode ≠ mFallow) (hslot : d.takesSlot q = true)
include hopen hmode hslot

theorem sqFetch_of_short (h : parsePacket (.pcie q) 0 slot.replyLen slot.replyAddr bytes = none) :
    d.sqFetch q slot bytes = (d.sqAdvance q).dropCrc.cqWrite q 0 0 0 true (d.qpSession q) (.free, 0) := by
  simp only [Dev.sqFetch, hopen, hmode, hslot, h]; rfl

/-- A slot that holds a packet meets the checks; a packet that passes them waits to be taken. -/
theorem sqFetch_of_packet {p : Packet} {e : Dev} {b : Bool}
    (h : parsePacket (.pcie q) 0 slot.replyLen slot.replyAddr bytes = some p) (he : (d.sqAdvance q).slotFront q p = (e, b)) :
    d.sqFetch q slot bytes = if b then e.enqueue p else e := by
  simp only [Dev.sqFetch, hopen, hmode, hslot, h, he]; rfl

end

/-! ## Turns of the intake -/

section
variable (hopen : d.intakeOpen = true) (hmode : d.mode ≠ mFallow)
include hopen hmode

theorem intake_of_none (h : d.emptyBuffers.nextCommand = none) : d.intake = d.emptyBuffers := by
  simp only [Dev.intake, hopen, h]
  exact if_pos (by simpa using hmode)

theorem intake_of_next {w : WorkEntry} (h : d.emptyBuffers.nextCommand = some w) :
    d.intake = if w.packet.variant.toNat < allocated w.packet.opcode.toNat then d.emptyBuffers.intoWork w
      else (d.emptyBuffers.intoWork w).answer w.packet stBadOpcode noField [] := by
  simp only [Dev.intake, hopen, h]
  exact if_pos (by simpa using hmode)

end

end

/-- Settles O34: a fetch moves the ring on and runs `Dev.slotFront`; a turn of the intake empties the buffers and takes the
next command. -/
theorem intakeCompletes : Obligations.IntakeCompletes := by
  refine ⟨?fetch, ?stays, ?turn⟩
  case fetch =>
    intro s q slot bytes d hfetch hopen hmode hslots hd
    obtain rfl : d = s.dev.sqAdvance q := hd
    have hslot : s.dev.takesSlot q = true := by simpa [Dev.takesSlot, hfetch] using hslots
    refine ⟨fun h => next_of_dev (sqFetch_of_short hopen hmode hslot h), fun p h => ?_⟩
    have hrow {e : Dev} {b : Bool} (he : (s.dev.sqAdvance q).slotFront q p = (e, b)) :
        exec (.sqFetch q slot bytes) s = .next { s with dev := if b then e.enqueue p else e } :=
      next_of_dev (sqFetch_of_packet hopen hmode hslot h he)
    refine ⟨fun h1 => hrow (slotFront_of_badCrc h1), fun h1 h3 => hrow (slotFront_of_badLength h1 h3), ?_, ?_⟩
    · exact fun h1 h3 hf => hrow ((slotFront_eq_front h1 h3).trans (front_of_verdict hf))
    · exact fun h1 h3 hf => hrow ((slotFront_eq_front h1 h3).trans (front_of_verdict hf))
  case stays =>
    intro s q slot bytes h
    exact next_of_dev (sqFetch_of_notFetches h)
  case turn =>
    rintro s d hopen hmode rfl
    refine ⟨fun h => next_of_dev (intake_of_none hopen hmode h), ?_⟩
    rintro w p e h rfl rfl
    have hturn := intake_of_next hopen hmode h
    exact ⟨fun hop => next_of_dev (hturn.trans (if_pos hop)), fun hop => next_of_dev (hturn.trans (if_neg hop))⟩

/-! ## Doorbells -/

section
variable {d : Dev} {q : Fin 256} {v : Word}

section
variable (hheld : d.sys.held = false) (hlink : d.linkOn (.pcie q) = true)
include hheld hlink

theorem sqTail_of_asleep (hmode : d.mode = mFallow) : d.sqTail q v = (d.wakeFrom 2 true).dropDoorbell := by
  simp [Dev.sqTail, hheld, hlink, hmode]

theorem cqHead_of_asleep (hmode : d.mode = mFallow) : d.cqHead q v = (d.wakeFrom 2 true).dropDoorbell := by
  simp [Dev.cqHead, hheld, hlink, hmode]

variable (hmode : d.mode ≠ mFallow) (hok : d.doorbellOk q v = true)
include hmode hok

theorem sqTail_of_allowed : d.sqTail q v =
    d.modSes fun t => { t with qp := vmod t.qp q fun y => { y with sqTail := v.setWidth 7 } } := by
  simp only [Dev.sqTail, hheld, hlink, hmode, hok, BitVec.ofNat_toNat]; rfl

theorem cqHead_of_allowed {x : QueuePair} {n id : Nat} {e : Dev} (hx : x = d.ses.qp[q]) (hid : id = (d.qpSession q).toNat)
    (hn : n = (v.toNat + x.entries.toNat - x.cqHead.toNat) % x.entries.toNat)
    (he : e = (d.modSes fun t => { t with qp := vmod t.qp q fun y =>
      { y with cqHead := v.setWidth 7, cqOut := y.cqOut.drop n } }).cqPass q (x.cqOut.take n)) :
    d.cqHead q v = if d.idleRuns id then e else e.idleRun id := by
  subst hx hid hn he
  simp only [Dev.cqHead, hheld, hlink, hmode, hok, BitVec.ofNat_toNat]; rfl

end

/-! ## Frames -/

/-- A frame of the port is accepted and counted, and its answer leaves and is counted (R443). -/
def answersFrame (d : Dev) (x : Emission) : Dev :=
  ((d.modEth fun e => { e with rx := satInc e.rx }).emit x).modEth fun e => { e with tx := satInc e.tx }

section
variable (hheld : d.sys.held = false) (hlink : d.linkOn (.udp 0 0) = true) (hboot : d.sys.bootFail ≠ 4)
  (hmode : d.mode ≠ mFallow)
include hheld hlink hboot hmode

theorem ethFrame_of_full (f : EthFrame) (hfull : 16 ≤ d.ses.ethRx.length) : d.ethFrame f = d.dropNet := by
  simp only [Dev.ethFrame, hheld, hlink, hboot, hmode, decide_eq_true hfull]; rfl

theorem ethFrame_of_other : d.ethFrame .other = d.dropNet := by
  simp only [Dev.ethFrame, hheld, hlink, hboot, hmode]
  exact ite_self _

variable (hvalid : d.eth.valid = true) (hroom : d.ses.ethRx.length < 16)
include hvalid hroom

theorem ethFrame_of_arp : d.ethFrame (.arp d.eth.ip) = answersFrame d .arpReply := by
  have hfull : decide (16 ≤ d.ses.ethRx.length) = false := decide_eq_false (Nat.not_le.mpr hroom)
  simp only [Dev.ethFrame, hheld, hlink, hboot, hmode, hfull, hvalid, beq_self_eq_true]; rfl

theorem ethFrame_of_echo {ip : Word} (hip : ip = d.eth.ip ∨ ip = d.eth.broadcast) :
    d.ethFrame (.icmpEcho ip) = answersFrame d .echoReply := by
  have hfull : decide (16 ≤ d.ses.ethRx.length) = false := decide_eq_false (Nat.not_le.mpr hroom)
  have hmine : (d.eth.valid && ip == d.eth.ip || (d.eth.valid && ip == d.eth.broadcast)) = true := by
    simpa [hvalid] using hip
  simp only [Dev.ethFrame, hheld, hlink, hboot, hmode, hfull, hmine]; rfl

theorem ethFrame_of_datagram {src : Word} {mac : BitVec 48} {sport : BitVec 16} {b : List Byte} {p : Packet}
    (hhead : udpHeaderOk b = true)
    (hp : parsePacket (.udp src sport) (BitVec.ofNat 32 (pU b 4 4)) 4096 0 (b.drop 16) = some p) :
    d.ethFrame (.udp d.eth.ip src mac sport 47300 false b) =
      (d.modEth fun e => e.heard p.via mac).modSes fun t => { t with ethRx := t.ethRx ++ [(p, true)] } := by
  have hfull : decide (16 ≤ d.ses.ethRx.length) = false := decide_eq_false (Nat.not_le.mpr hroom)
  simp only [Dev.ethFrame, hheld, hlink, hboot, hmode, hfull, hvalid, beq_self_eq_true, hhead, hp]; rfl

end

end

/-! ## Expiries -/

section
variable {s : State}

theorem exec_provisionalIdExpiry {x : Provisional} (h : x ∈ s.dev.ses.prov) :
    exec (.provisionalIdExpiry x.id) s = .next { s with
      dev := s.dev.modSes fun t => { t with
        prov := t.prov.filter fun (y : Provisional) => y.id != x.id, freeIds := t.freeIds ++ [x.id] } } := by
  have hany : s.dev.ses.prov.any (fun y => y.id == x.id) = true := List.any_eq_true.mpr ⟨x, h, beq_self_eq_true _⟩
  simp only [exec, execProvisionalIdExpiry, onDev, hany]; rfl

theorem exec_sessionIdleTimeout {id : BitVec 8} {x : Session} (hx : s.dev.session? id.toNat = some x)
    (hidle : s.dev.creditsUsed x = 0) (hres : x.reservedResponse = none) :
    exec (.sessionIdleTimeout id) s = .next { s with dev := s.dev.closeSession id 2 } := by
  simp only [exec, execSessionIdleTimeout, onDev, hx, hidle, hres]; rfl

/-- Clearing one bit of a word leaves the others. -/
theorem getLsbD_clear (t : BitVec 8) (i : Fin 8) (k : Nat) :
    (t &&& ~~~(BitVec.ofNat 8 (2 ^ i.val))).getLsbD k = (t.getLsbD k && k != i.val) := by
  have hbit : (2 ^ i.val).testBit k = (k == i.val) := by
    rw [Nat.testBit_two_pow, Bool.beq_eq_decide_eq, decide_eq_decide, eq_comm]
  have hrange : t.getLsbD k = true → k < 8 := BitVec.lt_of_getLsbD
  simp only [BitVec.getLsbD_and, BitVec.getLsbD_not, BitVec.getLsbD_ofNat, hbit]
  cases h : t.getLsbD k with
  | false => rfl
  | true => simp [hrange h, bne]

end

/-- Settles O35: each edge finds its transport on and the part awake, and changes what its rule names. -/
theorem transportEdgesComplete : Obligations.TransportEdgesComplete := by
  refine ⟨?doorbells, ?asleep, ?answers, ?datagram, ?dropped, ?provisional, ?idle, ?lockout⟩
  case doorbells =>
    intro s q v hheld hlink hmode hok
    refine ⟨next_of_dev (sqTail_of_allowed hheld hlink hmode hok), ?_⟩
    intro x n id d hx hid hn hd
    exact next_of_dev (cqHead_of_allowed hheld hlink hmode hok hx hid hn hd)
  case asleep =>
    intro s q v hheld hlink hmode
    exact ⟨next_of_dev (sqTail_of_asleep hheld hlink hmode), next_of_dev (cqHead_of_asleep hheld hlink hmode)⟩
  case answers =>
    rintro s ip d hheld hlink hboot hmode hvalid hroom rfl
    refine ⟨?_, fun hip => next_of_dev (ethFrame_of_echo hheld hlink hboot hmode hvalid hroom hip)⟩
    rintro rfl
    exact next_of_dev (ethFrame_of_arp hheld hlink hboot hmode hvalid hroom)
  case datagram =>
    intro s src mac sport b p hheld hlink hboot hmode hvalid hhead hroom hp
    exact next_of_dev (ethFrame_of_datagram hheld hlink hboot hmode hvalid hroom hhead hp)
  case dropped =>
    intro s hheld hlink hboot hmode
    exact ⟨next_of_dev (ethFrame_of_other hheld hlink hboot hmode),
      fun f hfull => next_of_dev (ethFrame_of_full hheld hlink hboot hmode f hfull)⟩
  case provisional => exact fun s x h => exec_provisionalIdExpiry h
  case idle => exact fun s id x hx hidle hres => exec_sessionIdleTimeout hx hidle hres
  case lockout => exact fun s slot => ⟨_, rfl, rfl, getLsbD_clear _ slot⟩

/-! ## SPI -/

section
variable {d : Dev} {f : Dev → Dev} {b : List Byte}

theorem spiOp_of_noAnswer (hboot : d.sys.bootFail = 4) : d.spiOp f = d := by
  simp [Dev.spiOp, hboot]

theorem spiWrite_of_noAnswer (hboot : d.sys.bootFail = 4) : d.spiWrite b = d := by
  simp [Dev.spiWrite, hboot]

section
variable (hheld : d.sys.held = false) (hboot : d.sys.bootFail ≠ 4)
include hheld hboot

theorem spiOp_of_asleep (hmode : d.mode = mFallow) : d.spiOp f = d.wakeFrom 4 true := by
  simp only [Dev.spiOp, hheld, hboot, hmode]; rfl

theorem spiWrite_of_asleep (hmode : d.mode = mFallow) : d.spiWrite b = (d.wakeFrom 4 true).dropDoorbell := by
  simp only [Dev.spiWrite, hheld, hboot, hmode]; rfl

variable (hmode : d.mode ≠ mFallow)
include hmode

theorem spiOp_of_awake : d.spiOp f = f d := by
  simp only [Dev.spiOp, hheld, hboot, hmode]; rfl

/-- A packet over SPI is lost with the buffers full, counted when it is too long for one, and else received (R130). -/
theorem spiWrite_of_awake {e : Dev} (he : e = d.emit (.spiOut [d.spiStatusByte])) :
    d.spiWrite b = if 2 ≤ d.ses.spiRx.length then e.dropSpi else if 4096 < b.length then e.dropCrc
      else e.modSes fun t => { t with spiRx := t.spiRx ++ [parsePacket .spi 0 4096 0 b] } := by
  subst he
  simp only [Dev.spiWrite, hheld, hboot, hmode]; rfl

end

theorem spiRead_of_empty (n : Nat) (h : d.ses.spiOut = []) : d.spiRead n = d.emit (.spiOut ((leBytes 4 0).take n)) := by
  simp only [Dev.spiRead, Dev.spiReadBytes, h]

/-- A READ shifts out the oldest reply, which leaves its queues once all of it has been clocked (R130, R193). -/
theorem spiRead_of_oldest {r : Reply} {rest : List Reply} {bs : List Byte} {n : Nat} {e e' : Dev}
    (h : d.ses.spiOut = r :: rest) (hbs : bs = leBytes 4 (replyBytes r).length ++ replyBytes r)
    (he : e = d.emit (.spiOut (bs.take n)))
    (he' : e' = e.modSes fun t => { t with
      spiOut := rest
      openS := t.openS.map fun (x : Session) =>
        if x.via = Via.spi && x.id.toNat = r.session.toNat then x.leaves r.slot else x }) :
    d.spiRead n =
      if bs.length ≤ n then (if d.idleRuns r.session.toNat then e' else e'.idleRun r.session.toNat) else e := by
  subst hbs he he'
  simp only [Dev.spiRead, Dev.spiReadBytes, h]; rfl

end

/-- Settles O36: an SPI operation runs when the part is awake and answers; else the part wakes, or takes nothing. -/
theorem spiRowsComplete : Obligations.SpiRowsComplete := by
  refine ⟨?write, ?empty, ?read, ?status, ?noAnswer, ?asleep⟩
  case write =>
    intro s b d hheld hboot hmode hd
    have hwrite := spiWrite_of_awake (b := b) hheld hboot hmode hd
    refine ⟨fun hroom hlen => ?_, fun hfull => ?_, fun hroom hlen => ?_⟩
    · exact next_of_dev (hwrite.trans ((if_neg (Nat.not_le.mpr hroom)).trans (if_neg (Nat.not_lt.mpr hlen))))
    · exact next_of_dev (hwrite.trans (if_pos hfull))
    · exact next_of_dev (hwrite.trans ((if_neg (Nat.not_le.mpr hroom)).trans (if_pos hlen)))
  case empty =>
    intro s n hheld hboot hmode hout
    exact next_of_dev ((spiOp_of_awake hheld hboot hmode).trans (spiRead_of_empty n hout))
  case read =>
    intro s n r rest bs d hheld hboot hmode hout hbs hd
    have hread := spiRead_of_oldest hout hbs hd rfl
    refine ⟨fun hn => ?_, ?_⟩
    · exact next_of_dev ((spiOp_of_awake hheld hboot hmode).trans (hread.trans (if_neg (Nat.not_le.mpr hn))))
    · rintro e hn rfl
      exact next_of_dev ((spiOp_of_awake hheld hboot hmode).trans (hread.trans (if_pos hn)))
  case status =>
    intro s hheld hboot hmode
    exact ⟨next_of_dev (spiOp_of_awake hheld hboot hmode), next_of_dev (spiOp_of_awake hheld hboot hmode)⟩
  case noAnswer =>
    intro s n b _ hboot
    exact ⟨next_of_dev (spiOp_of_noAnswer hboot), next_of_dev (spiOp_of_noAnswer hboot),
      next_of_dev (spiOp_of_noAnswer hboot), next_of_dev (spiWrite_of_noAnswer hboot)⟩
  case asleep =>
    intro s n b hheld hboot hmode
    exact ⟨next_of_dev (spiOp_of_asleep hheld hboot hmode), next_of_dev (spiOp_of_asleep hheld hboot hmode),
      next_of_dev (spiOp_of_asleep hheld hboot hmode), next_of_dev (spiWrite_of_asleep hheld hboot hmode)⟩

end Sys2Proof.Laws
end

section
/-! SUPPORT. Which sessions are open, and at which transport address, changes when one opens or closes (R113, R121): no
reply, no event record, no detection of a fault source and no reaction to one opens, closes or moves a session. -/

namespace Sys2Proof.Laws

open Machine

/-- A session's ID and its transport address. -/
def door (x : Session) : BitVec 8 × Via := (x.id, x.via)

/-- The open sessions, each with its transport address. -/
def doors (d : Dev) : List (BitVec 8 × Via) := d.ses.openS.map door

theorem doors_foldl {α : Type} {f : Dev → α → Dev} (h : ∀ d a, doors (f d a) = doors d) :
    ∀ (l : List α) (d : Dev), doors (l.foldl f d) = doors d
  | [], _ => rfl
  | a :: l, d => (doors_foldl h l (f d a)).trans (h d a)

/-- Sessions that each stay where they are. -/
theorem map_door {f : Session → Session} (h : ∀ x, door (f x) = door x) (l : List Session) :
    (l.map f).map door = l.map door := by
  rw [List.map_map]
  exact List.map_congr_left fun x _ => h x

section
variable (d : Dev) (gp : Fin 112) (id : Nat)

@[simp] theorem doors_modSys (f : Sys → Sys) : doors (d.modSys f) = doors d := rfl
@[simp] theorem doors_modFlt (f : Faults → Faults) : doors (d.modFlt f) = doors d := rfl
@[simp] theorem doors_modBus (f : Bus → Bus) : doors (d.modBus f) = doors d := rfl
@[simp] theorem doors_modSwath (s : Fin 16) (f : Swath → Swath) : doors (d.modSwath s f) = doors d := rfl
@[simp] theorem doors_modPort (f : Port → Port) : doors (d.modPort gp f) = doors d := rfl

theorem doors_foldl_modPort (f : Port → Port) (l : List (Fin 112)) :
    doors (l.foldl (fun d gp => d.modPort gp f) d) = doors d :=
  doors_foldl (fun d gp => doors_modPort d gp f) l d

theorem doors_modSession (i : BitVec 8) {f : Session → Session} (h : ∀ x, door (f x) = door x) :
    doors (d.modSession i f) = doors d :=
  map_door (fun x => by split; exacts [h x, rfl]) _

/-! ## Event records -/

@[simp] theorem doors_raise (v : Nat) : doors (d.raise v) = doors d := by
  unfold Dev.raise
  split <;> rfl

@[simp] theorem doors_datagram (kind : Nat) (v : Via) (r : Reply) : doors (d.datagram kind v r) = doors d := by
  unfold Dev.datagram
  split
  · split <;> rfl
  · rfl

theorem doors_push (x : Session) (r : EventRecord) : doors (d.push x r) = doors d := by
  unfold Dev.push
  split
  · exact (doors_datagram _ _ _ _).trans (doors_modSession d x.id fun _ => rfl)
  · rfl

@[simp] theorem doors_writeRecord (r : EventRecord) : doors (d.writeRecord r) = doors d := by
  have h := doors_foldl (fun d x => doors_push d x r) (d.ses.openS.filter fun (x : Session) => x.subs.getLsbD r.cls) d
  simp only [Dev.writeRecord]
  split <;> exact h

theorem doors_drainCounters : ∀ (n : Nat) (d : Dev), doors (d.drainCounters n) = doors d
  | 0, _ => rfl
  | n + 1, d => by
    unfold Dev.drainCounters
    split
    · rfl
    · split
      · exact (doors_drainCounters n _).trans (doors_writeRecord _ _)
      · rfl

@[simp] theorem doors_freeEntries : doors d.freeEntries = doors d := (doors_drainCounters _ _).trans rfl

theorem doors_countEvent (cls : Fin 16) : doors (d.countEvent cls) = doors d := by
  unfold Dev.countEvent
  extract_lets ev e
  split
  · exact doors_raise e _
  · rfl

@[simp] theorem doors_occur (cls : Fin 16) (kind source : Nat) (data : List Byte) :
    doors (d.occur cls kind source data) = doors d := by
  unfold Dev.occur
  extract_lets seq e r same ev wide
  have h : doors e = doors d := doors_countEvent d cls
  split_ifs
  · exact h
  · exact (doors_writeRecord e r).trans h
  · exact h
  · exact h
  · exact h

/-! ## Replies -/

theorem doors_idleRun : doors (d.idleRun id) = doors d := by
  unfold Dev.idleRun
  split
  · next x _ => split; exacts [doors_modSession d x.id fun _ => rfl, rfl]
  · rfl

theorem doors_idleStop : doors (d.idleStop id) = doors d := by
  unfold Dev.idleStop
  split
  · next x _ => split; exacts [doors_modSession d x.id fun _ => rfl, rfl]
  · rfl

theorem doors_holdReply (r : Reply) : doors (d.holdReply r) = doors d := by
  refine map_door (fun x => ?_) d.ses.openS
  split
  · cases r.slot <;> rfl
  · rfl

theorem doors_cqWrite (q : Fin 256) (seq status : Word) (n : Nat) (b : Bool) (bound : BitVec 16)
    (out : RespSlot × BitVec 16) : doors (d.cqWrite q seq status n b bound out) = doors d :=
  (doors_raise _ _).trans rfl

theorem doors_deliver (r : Reply) : doors (d.deliver r) = doors d := by
  have hstop : doors (if r.slot = .session then d.idleStop r.session.toNat else d) = doors d := by
    split
    · exact doors_idleStop d _
    · rfl
  unfold Dev.deliver
  split
  · exact doors_datagram d _ _ _
  · exact (doors_cqWrite _ _ _ _ _ _ _ _).trans ((doors_holdReply _ _).trans hstop)
  · exact (doors_holdReply _ _).trans hstop

theorem doors_answerDups (w : Word) : ∀ (l : List Packet) (d : Dev), doors (d.answerDups w l) = doors d
  | [], _ => rfl
  | _ :: l, d => (doors_answerDups w l _).trans ((doors_deliver _ _).trans (doors_modSession d _ fun _ => rfl))

@[simp] theorem doors_answer (p : Packet) (code offset : Nat) (ps : List Byte) :
    doors (d.answer p code offset ps) = doors d := by
  unfold Dev.answer
  extract_lets params w orphan ran own dups r d1 d2 d3
  have h1 : doors d1 = doors d := by
    clear_value own
    rcases own with _ | x
    · rfl
    · exact doors_modSession d x.id fun _ => rfl
  have h2 : doors d2 = doors d := by
    refine Eq.trans (b := doors (if orphan then d1 else d1.deliver r)) rfl ?_
    split
    · exact h1
    · exact (doors_deliver d1 r).trans h1
  have h3 : doors d3 = doors d := by
    unfold d3
    split
    · exact h2
    · exact (doors_answerDups w dups d2).trans h2
  split
  · exact h3
  · exact (doors_idleRun d3 _).trans h3

/-! ## Sources -/

theorem doors_unlatch : doors (d.unlatch id) = doors d := by
  unfold Dev.unlatch
  extract_lets x
  split <;> rfl

@[simp] theorem doors_causeLeft (was : Bool) : doors (d.causeLeft id was) = doors d := by
  unfold Dev.causeLeft
  extract_lets x
  split
  · rw [doors_unlatch]
    split
    · exact doors_occur d _ _ _ _
    · rfl
  · rfl

@[simp] theorem doors_endCause : doors (d.endCause id) = doors d := doors_causeLeft _ id _

/-! ## Ports -/

@[simp] theorem doors_abortScan : doors (d.abortScan gp) = doors d := by
  unfold Dev.abortScan
  extract_lets c e
  split
  · rfl
  · exact doors_occur e _ _ _ _

@[simp] theorem doors_portOff : doors (d.portOff gp) = doors d := by
  have hpen : doors (d.setHpen gp false) = doors d := by
    unfold Dev.setHpen
    extract_lets was e
    split <;> rfl
  exact (doors_abortScan _ _).trans ((doors_endCause _ _).trans hpen)

@[simp] theorem doors_stopPiece (unit : Piece → Nat) : doors (d.stopPiece gp unit) = doors d := by
  unfold Dev.stopPiece
  split
  · rfl
  · extract_lets now u stop
    split
    · rfl
    · split <;> rfl

@[simp] theorem doors_critHold : doors (d.critHold gp) = doors d := by
  unfold Dev.critHold
  extract_lets p out cut e stop e'
  have hout (d : Dev) (k : RowId) (r : Row) : doors (out d k r) = doors d := by
    simp only [out]; split <;> rfl
  have he : doors e' = doors d :=
    (doors_stopPiece e gp _).trans ((hout _ _ _).trans (hout _ _ _))
  clear_value cut
  cases cut <;> exact he

@[simp] theorem doors_containPort (crit : Bool) : doors (d.containPort crit gp) = doors d := by
  unfold Dev.containPort
  extract_lets line e e'
  have he : doors e = doors d := by
    unfold e
    split
    · exact doors_critHold d gp
    · exact doors_stopPiece d gp _
  exact (doors_occur _ _ _ _ _).trans ((doors_abortScan e' gp).trans he)

@[simp] theorem doors_cutPort : doors (d.cutPort gp) = doors d := by
  unfold Dev.cutPort
  extract_lets p e stop
  refine (doors_portOff _ gp).trans (Eq.trans (b := doors e) rfl ?_)
  unfold e
  split <;> rfl

/-! ## Axes -/

@[simp] theorem doors_taxOff (n : Fin 4) : doors (d.taxOff n) = doors d := (doors_endCause _ _).trans rfl

@[simp] theorem doors_taxKill (n : Fin 4) : doors (d.taxKill n) = doors d := by
  unfold Dev.taxKill
  extract_lets t
  split_ifs
  · rfl
  · rfl
  · exact doors_taxOff d n

@[simp] theorem doors_taxStop (n : Fin 4) : doors (d.taxStop n) = doors d := by
  unfold Dev.taxStop
  extract_lets t
  split_ifs
  · rfl
  · exact doors_taxOff d n
  · rfl

@[simp] theorem doors_auxUnpower (n : Fin 8) : doors (d.auxUnpower n) = doors d := by
  unfold Dev.auxUnpower
  extract_lets a e
  refine (doors_endCause _ _).trans (Eq.trans (b := doors e) rfl ?_)
  unfold e
  split
  · exact doors_occur d _ _ _ _
  · rfl

@[simp] theorem doors_auxOff (n : Fin 8) : doors (d.auxOff n) = doors d := (doors_auxUnpower _ n).trans rfl

@[simp] theorem doors_auxStop (n : Fin 8) : doors (d.auxStop n) = doors d := by
  unfold Dev.auxStop
  extract_lets a
  split_ifs
  · rfl
  · exact doors_auxOff d n
  · rfl

@[simp] theorem doors_setBrk (v : Bool) : doors (d.setBrk v) = doors d := by
  unfold Dev.setBrk
  split
  · rfl
  · exact (doors_occur _ _ _ _ _).trans rfl

/-! ## Feeds, swaths and jobs -/

theorem doors_dmaComplete (c : Fin 32) : ∀ (n : Nat) (d : Dev), doors (Dev.dmaComplete c n d) = doors d
  | 0, _ => rfl
  | n + 1, d => by
    unfold Dev.dmaComplete
    split
    · rfl
    · split
      · extract_lets e e'
        refine (doors_dmaComplete c n _).trans ?_
        unfold e'
        split
        · exact (doors_raise _ _).trans (doors_occur e _ _ _ _)
        · rfl
      · rfl

@[simp] theorem doors_dmaSettle (c : Fin 32) : doors (d.dmaSettle c) = doors d := doors_dmaComplete c _ d

@[simp] theorem doors_stopFeeds : doors d.stopFeeds = doors d := by
  refine doors_foldl (fun d c => ?_) (fins 32) d
  extract_lets x
  split
  · exact (doors_endCause _ _).trans rfl
  · rfl

section
variable (s : Fin 16) (epoch lines : Nat)

@[simp] theorem doors_endFeed (ends : Bool) : doors (d.endFeed s epoch lines ends) = doors d := by
  unfold Dev.endFeed
  extract_lets e
  have he : doors e = doors d := doors_foldl_modPort d _ _
  split
  · exact he
  · exact (doors_dmaSettle _ _).trans he

@[simp] theorem doors_dropTokens : doors (d.dropTokens s epoch lines) = doors d := doors_foldl_modPort d _ _

@[simp] theorem doors_leaveRun : doors (d.leaveRun s epoch) = doors d := doors_foldl_modPort d _ _

theorem doors_settleSwath : doors (d.settleSwath s) = doors d := by
  unfold Dev.settleSwath
  extract_lets w e d1 d2
  have h1 : doors d1 = doors d := doors_foldl (fun d k => doors_leaveRun d s k) _ d
  split
  · refine Eq.trans (b := doors d2) rfl (Eq.trans ?_ h1)
    unfold d2
    split
    · exact doors_occur d1 _ _ _ _
    · exact doors_endFeed d1 s _ _ _
  · rfl

theorem doors_settleActive : doors d.settleActive = doors d := by
  unfold Dev.settleActive
  split <;> rfl

@[simp] theorem doors_endSwath : doors (d.endSwath s) = doors d := by
  unfold Dev.endSwath
  extract_lets w
  split
  · exact (doors_settleActive _).trans ((doors_settleSwath _ s).trans rfl)
  · rfl

theorem doors_dropPending : doors (d.dropPending s) = doors d := by
  unfold Dev.dropPending
  split
  · rw [doors_modSwath, doors_dropTokens, doors_endFeed]
  · rfl

end

@[simp] theorem doors_disarm : doors d.disarm = doors d := by
  refine Eq.trans (b := doors d.disarmKeep) rfl ?_
  unfold Dev.disarmKeep
  split
  · rfl
  · next a _ =>
    extract_lets e
    have he : doors e = doors d := (doors_occur _ _ _ _ _).trans (doors_foldl doors_dropPending a.toSwitch _)
    exact (doors_foldl (fun d (w : WorkEntry) => doors_answer d w.packet _ _ _) _ _).trans
      ((doors_settleActive e).trans he)

/-! ## Reactions -/

theorem doors_overtake : doors d.overtake = doors d :=
  (doors_foldl (fun d (w : WorkEntry) => doors_answer d w.packet _ _ _) _ _).trans rfl

@[simp] theorem doors_stopActions : doors d.stopActions = doors d := by
  have hpiece (d : Dev) (gp : Fin 112) :
      doors ((d.stopPiece gp fun x => x.lineNs).modPort gp Port.dropBurst) = doors d := doors_stopPiece d gp _
  rw [Dev.stopActions, doors_modSys, doors_foldl doors_auxStop, doors_foldl doors_taxStop, doors_foldl doors_abortScan,
    doors_foldl hpiece, doors_foldl doors_endSwath, doors_disarm, doors_stopFeeds, doors_overtake]

theorem doors_killOutputs : doors d.killOutputs = doors d := by
  rw [Dev.killOutputs, doors_foldl doors_auxOff, doors_setBrk, doors_modBus, doors_foldl doors_taxKill,
    doors_foldl doors_cutPort, doors_modFlt]

@[simp] theorem doors_killActions : doors d.killActions = doors d :=
  (doors_stopActions _).trans (doors_killOutputs d)

@[simp] theorem doors_containUnit (u : FaultUnit) : doors (d.containUnit id u) = doors d := by
  unfold Dev.containUnit
  extract_lets new e
  have he : doors e = doors d := by unfold e; split <;> rfl
  refine Eq.trans ?_ he
  have hports (u : FaultUnit) (crit : Bool) :
      doors ((e.unitPorts u).foldl (Dev.containPort · crit) (Dev.containUnit.returnFlits e u)) = doors e := by
    refine (doors_foldl (fun d gp => doors_containPort d gp crit) _ _).trans ?_
    cases u <;> rfl
  split
  · split
    · exact hports _ _
    · exact hports _ _
    · exact hports _ _
    · split_ifs
      · rfl
      · exact doors_taxKill e _
      · rfl
    · split
      · rfl
      · exact doors_auxUnpower e _
    · rfl
  · split
    · exact doors_foldl doors_critHold _ e
    · rfl

@[simp] theorem doors_react (k : Nat) (us : List FaultUnit) : doors (d.react id k us) = doors d := by
  unfold Dev.react
  extract_lets d1 d2
  have h1 : doors d1 = doors d := by unfold d1; split <;> rfl
  have h2 : doors d2 = doors d := (doors_foldl (fun d u => doors_containUnit d id u) us d1).trans h1
  split_ifs <;> simp [h2]

theorem doors_enterMode (m : BitVec 4) : doors (d.enterMode m) = doors d := by
  obtain ⟨x, hx⟩ := setMode_eq d m
  rw [Dev.enterMode, doors_occur, hx]
  rfl

@[simp] theorem doors_wakeFrom (source : BitVec 4) (ready : Bool) : doors (d.wakeFrom source ready) = doors d := by
  unfold Dev.wakeFrom
  split
  · extract_lets d1 d2 d3 d4
    have h3 : doors d3 = doors d := rfl
    rw [doors_occur, ← h3]
    unfold d4
    split
    · exact doors_enterMode d3 _
    · rfl
  · rfl

@[simp] theorem doors_collect (k : Nat) (forced : Bool) (us : List FaultUnit) :
    doors (d.collect id k forced us) = doors d := by
  unfold Dev.collect
  split
  · extract_lets esc start d1 d2
    have h2 : doors d2 = doors d := by
      unfold d2
      split
      · exact doors_occur d1 _ _ _ _
      · rfl
    split_ifs
    · exact (doors_react _ id k us).trans h2
    · exact (doors_foldl (fun d u => doors_containUnit d id u) us d2).trans h2
    · exact h2
  · split
    · rfl
    · exact doors_react _ id k us

@[simp] theorem doors_detectCore (forced : Bool) (floor : Nat) (info : Option Nat) :
    doors (d.detectCore id forced floor info) = doors d := by
  unfold Dev.detectCore
  split
  · rfl
  extract_lets d1 x k boot d2 us k' d3 d4
  have h3 : doors d3 = doors d := by unfold d3; split <;> rfl
  have h4 : doors d4 = doors d := by unfold d4; split <;> simp [Dev.faultWake, h3]
  split_ifs
  · rfl
  · exact h4
  · exact (doors_collect d4 id k' forced us).trans h4

@[simp] theorem doors_checkOvf : doors d.checkOvf = doors d := by
  unfold Dev.checkOvf
  extract_lets full
  split_ifs
  · exact doors_detectCore _ _ _ _ _
  · exact doors_endCause d _
  · rfl

@[simp] theorem doors_event (cls : Fin 16) (kind source : Nat) (data : List Byte) :
    doors (d.event cls kind source data) = doors d := (doors_checkOvf _).trans (doors_occur d cls kind source data)

end

end Sys2Proof.Laws
end

section
/-! SUPPORT. The registers of an enabled queue pair (R123, Tables 5.19, 5.20): which setter a write to one of them reaches,
and the sessions that a cleared Enable closes. -/

namespace Sys2Proof.Laws

open Machine

/-! ## Closing sessions (R121) -/

section
variable (d : Dev)

theorem doors_leaveContain (u : FaultUnit) : doors (d.leaveContain u) = doors d := by
  have hport (d : Dev) (gp : Fin 112) :
      doors (if d.portContained gp then d else d.occur evPort 3 gp.val (le4 d.ports[gp].lineNow.toNat)) = doors d := by
    split
    · rfl
    · exact doors_occur d _ _ _ _
  have hsource (d : Dev) (id : Nat) :
      doors (let x := d.src id
        if x.active then (d.modSrc id fun x => { x with latched := false }).detectCore id (!x.cause && !x.hotCause)
          (if x.hotCause then 3 else 0) none
        else d.unlatch id) = doors d := by
    extract_lets x
    split
    · exact doors_detectCore _ id _ _ _
    · exact doors_unlatch d id
  have hout (d : Dev) : doors d.outAfterContain = doors d := by
    unfold Dev.outAfterContain
    split_ifs <;> rfl
  rw [Dev.leaveContain, doors_checkOvf, hout, doors_foldl hsource, doors_foldl hport, doors_modFlt,
    doors_foldl doors_endCause]

/-- A session that closes leaves the open ones, and no other does. -/
theorem doors_closeSession (id : BitVec 8) (cause : Nat) :
    doors (d.closeSession id cause) = (doors d).filter fun o => o.1 != id := by
  unfold Dev.closeSession
  split
  · next hnone =>
    refine (List.filter_eq_self.mpr fun o ho => ?_).symm
    obtain ⟨x, hx, rfl⟩ := List.mem_map.mp ho
    simpa [door] using List.find?_eq_none.mp hnone x hx
  · extract_lets d1 ev d2 d3
    have h2 : doors d2 = (d.ses.openS.filter fun x => x.id != id).map door := rfl
    rw [doors_event, doors_leaveContain, doors_freeEntries, h2, doors, List.filter_map]
    rfl

theorem mem_doors_closeSessions (cause : Nat) (o : BitVec 8 × Via) : ∀ (ids : List (BitVec 8)) (d : Dev),
    o ∈ doors (ids.foldl (fun d id => d.closeSession id cause) d) → o ∈ doors d ∧ o.1 ∉ ids
  | [], d, h => ⟨h, List.not_mem_nil⟩
  | id :: ids, d, h => by
    obtain ⟨hmem, hids⟩ := mem_doors_closeSessions cause o ids _ h
    rw [doors_closeSession, List.mem_filter, bne_iff_ne] at hmem
    exact ⟨hmem.1, List.not_mem_cons_of_ne_of_not_mem hmem.2 hids⟩

/-- Once every session that meets a condition has closed, none that is open meets it. -/
theorem via_of_mem_doors_closeAll {p : Via → Bool} {cause : Nat} {o : BitVec 8 × Via}
    (h : o ∈ doors (d.closeAll p cause)) : p o.2 = false := by
  obtain ⟨hmem, hids⟩ := mem_doors_closeSessions cause o _ d h
  obtain ⟨x, hx, rfl⟩ := List.mem_map.mp hmem
  by_contra hp
  exact hids (List.mem_map.mpr ⟨x, List.mem_filter.mpr ⟨hx, by simpa [door] using hp⟩, rfl⟩)

end

/-! ## Registers of a queue pair -/

/-- BAR0 offset of a register of a queue pair. -/
def qpReg (q : Fin 256) (o : Nat) : Nat := 0x4000 + 0x20 * q.val + o

section
variable {d : Dev} {q : Fin 256} {o v : Nat}

theorem placeOf_qpReg (ho : o < 0x20) : placeOf (qpReg q o) = .register (qpReg q o) := by
  have hlt : qpReg q o % 2 ^ 24 < 0x100000 := by unfold qpReg; omega
  exact if_pos hlt

theorem qpReg_page (ho : o < 0x20) : qpReg q o / 0x1000 = 4 ∨ qpReg q o / 0x1000 = 5 := by
  unfold qpReg; omega

theorem hubReg_qpReg (ho : o < 0x20) : hubReg d (qpReg q o) = sesReg (qpReg q o) := by
  unfold hubReg
  rcases qpReg_page (q := q) ho with h | h <;> rw [h] <;> rfl

theorem reg?_qpReg (ho : o < 0x20) (h4 : o % 4 = 0) : d.reg? (qpReg q o) = sesReg (qpReg q o) := by
  have hword : ¬ qpReg q o % 4 ≠ 0 := by unfold qpReg; omega
  have hhub : qpReg q o / 2 ^ 24 = 0 := by unfold qpReg; omega
  have hself : qpReg q o % 2 ^ 24 = qpReg q o := by unfold qpReg; omega
  rw [Dev.reg?, if_neg hword, if_pos hhub, hself, hubReg_qpReg ho]

/-- The offsets of a queue pair's registers that may be written (Table 5.19). -/
abbrev qpWritable : List Nat := [0x00, 0x04, 0x08, 0x0C, 0x10]

/-- The writable registers of a queue pair are unprivileged, and of the hub itself. -/
theorem sesReg_qpReg (ho : o ∈ qpWritable) :
    ∃ r, sesReg (qpReg q o) = some r ∧ r.pv = false ∧ r.block = none ∧ r.rw ≠ 0 := by
  have hlt : o < 0x20 := by fin_cases ho <;> decide
  have hge : 0x4000 ≤ qpReg q o ∧ qpReg q o < 0x6000 := by unfold qpReg; omega
  have hmod : qpReg q o % 0x20 = o := by unfold qpReg; omega
  have hses : (decide (0x2008 ≤ qpReg q o) && decide (qpReg q o ≤ 0x201C)) = false := by simp; omega
  have hqp : (decide (0x4000 ≤ qpReg q o) && decide (qpReg q o < 0x6000)) = true := by simpa using hge
  unfold sesReg
  rw [if_neg (by omega), if_neg (by omega), hses, if_neg Bool.false_ne_true, if_neg (by omega), if_neg (by omega),
    if_neg (by omega), if_neg (by omega), if_pos hqp, hmod]
  fin_cases ho <;> exact ⟨_, rfl, rfl, rfl, by decide⟩

/-- A direct write to a writable register of a queue pair takes effect at once. -/
theorem directReg_qpReg {s : State} {m : Master} {priv : Bool} (hr : s.dev.reach m true = (d, some priv))
    (ho : o ∈ qpWritable) : directReg m (qpReg q o) v 0xF s = d.store s.mem (qpReg q o) v := by
  have hlt : o < 0x20 ∧ o % 4 = 0 := by fin_cases ho <;> decide
  have htop : ¬ barTop + 3 < qpReg q o := by unfold qpReg barTop; omega
  have hword : ¬ qpReg q o % 4 ≠ 0 := by unfold qpReg; omega
  obtain ⟨r, hses, hpv, hblock, hrw⟩ := sesReg_qpReg (q := q) ho
  have hreg : d.reg? (qpReg q o) = some r := (reg?_qpReg hlt.1 hlt.2).trans hses
  simp [directReg, hr, htop, placeOf_qpReg hlt.1, busWrite, hword, regWrite, hreg, Reg.bars, hpv, Reg.blockAt, hblock, hrw]

theorem store_qpReg (m : Banks) (ho : o < 0x20) : d.store m (qpReg q o) v =
    if o = 0x10 then d.setQpCtl q v else d.setQpBase q o v := by
  have hdie : ¬ (1 ≤ qpReg q o / 2 ^ 24 ∧ qpReg q o / 2 ^ 24 < 8) := by unfold qpReg; omega
  have hself : qpReg q o % 2 ^ 24 = qpReg q o := by unfold qpReg; omega
  have hmod : qpReg q o % 0x20 = o := by unfold qpReg; omega
  have hq : Fin.ofNat 256 ((qpReg q o - 0x4000) / 0x20) = q := ofNat_of_eq_val (by unfold qpReg; omega)
  rw [Dev.store, dif_neg hdie, hself]
  rcases qpReg_page (q := q) ho with h | h <;> simp only [h, hmod, hq]

/-! ## While Enable is 1 (R123) -/

theorem setQpBase_of_enabled (h : d.ses.qp[q].enable = true) : d.setQpBase q o v = d.dropDoorbell := if_pos h

/-- The Entries that a write to SES_QP_CTL asks for (Table 5.19). -/
def askedEntries (v : Nat) : Nat := if 2 ≤ getF 0 7 v ∧ getF 0 7 v ≤ 65 then getF 0 7 v else 17

theorem askedEntries_eq (v : Nat) : askedEntries v = if within 2 65 (v % 128) then v % 128 else 17 := by
  have h : getF 0 7 v = v % 128 := by simp [getF]
  rw [askedEntries, h]

theorem askedEntries_lt (v : Nat) : askedEntries v < 128 := by
  unfold askedEntries
  split <;> omega

theorem modQp_congr {f g : QueuePair → QueuePair} (h : f d.ses.qp[q] = g d.ses.qp[q]) : d.modQp q f = d.modQp q g := by
  simp only [Dev.modQp, Dev.modSes, vmod, h]

theorem modQp_get (f : QueuePair → QueuePair) : (d.modQp q f).ses.qp[q] = f d.ses.qp[q] := vmod_same _ _ _

section
variable (hen : d.ses.qp[q].enable = true)
include hen

theorem setQpCtl_of_otherEntries (hon : getB 8 v = true) (he : askedEntries v ≠ d.ses.qp[q].entries.toNat) :
    d.setQpCtl q v = d.dropDoorbell := by
  unfold Dev.setQpCtl
  exact if_pos (by simp only [hen, hon]; exact decide_eq_true he)

/-- With Enable and Entries kept, Vector alone changes. -/
theorem setQpCtl_of_sameEntries (hon : getB 8 v = true) (he : askedEntries v = d.ses.qp[q].entries.toNat) :
    d.setQpCtl q v = d.modQp q fun y => { y with vector := BitVec.ofNat 9 (getF 16 9 v) } := by
  have hsame : d.setQpCtl q v = d.modQp q fun y =>
      { (if !y.enable then y.restart else y) with
        entries := BitVec.ofNat 7 (askedEntries v), enable := true, vector := BitVec.ofNat 9 (getF 16 9 v) } := by
    unfold Dev.setQpCtl
    simp only [hen, hon]
    exact if_neg (by simpa [askedEntries] using he)
  refine hsame.trans (modQp_congr ?_)
  simp only [hen, he, BitVec.ofNat_toNat, BitVec.setWidth_eq]
  rfl

theorem setQpCtl_of_disable (hon : getB 8 v = false) :
    d.setQpCtl q v = (d.closeAll (fun w => w == .pcie q) 4).modQp q fun y => { y with
      entries := BitVec.ofNat 7 (askedEntries v), enable := false, vector := BitVec.ofNat 9 (getF 16 9 v) } := by
  unfold Dev.setQpCtl
  simp only [hen, hon]
  rfl

/-- A cleared Enable leaves no session open at the queue pair. -/
theorem openS_setQpCtl_of_disable (hon : getB 8 v = false) : ∀ x ∈ (d.setQpCtl q v).ses.openS, x.via ≠ .pcie q := by
  rw [setQpCtl_of_disable hen hon]
  intro x hx hvia
  have hmem : door x ∈ doors (d.closeAll (fun w => w == .pcie q) 4) := List.mem_map.mpr ⟨x, hx, rfl⟩
  have hclosed : (x.via == .pcie q) = false := via_of_mem_doors_closeAll d hmem
  simp [hvia] at hclosed

end

end

/-- A direct write to SES_QP_CTL, and one to a base register, reach their setters. -/
theorem exec_sesQpCtlWrite {s : State} {m : Master} {d : Dev} {priv : Bool} (q : Fin 256) (v : Word)
    (hr : s.dev.reach m true = (d, some priv)) :
    exec (.sesQpCtlWrite m q v) s = .next { s with dev := d.setQpCtl q v.toNat } := by
  have ha : 0x4010 + 0x20 * q.val = qpReg q 0x10 := by unfold qpReg; omega
  have hreg : directReg m (0x4010 + 0x20 * q.val) v.toNat 0xF s = d.setQpCtl q v.toNat := by
    rw [ha, directReg_qpReg hr (by decide), store_qpReg s.mem (by decide)]
    rfl
  exact onDev_of_eq hreg

theorem exec_registerWrite_qpBase {s : State} {m : Master} {d : Dev} {priv : Bool} {q : Fin 256} {a v : Word} {o : Nat}
    (hr : s.dev.reach m true = (d, some priv)) (ho : o ∈ [0x00, 0x04, 0x08, 0x0C])
    (ha : a.toNat = 0x4000 + 0x20 * q.val + o) :
    exec (.registerWrite m { offset := a } v 0xF) s = .next { s with dev := d.setQpBase q o v.toNat } := by
  have hw : o ∈ qpWritable ∧ o < 0x20 ∧ o ≠ 0x10 := by fin_cases ho <;> decide
  obtain ⟨hmem, hlt, hne⟩ := hw
  have hreg : directReg m (qpReg q o) v.toNat 0xF s = d.setQpBase q o v.toNat := by
    rw [directReg_qpReg hr hmem, store_qpReg s.mem hlt, if_neg hne]
  have ha : a.toNat = qpReg q o := ha
  have hexec : exec (.registerWrite m { offset := a } v 0xF) s =
      .next { s with dev := directReg m a.toNat v.toNat 0xF s } := rfl
  rw [hexec, ha, hreg]

/-- Settles O17: a write to a register of a queue pair is never posted, so its setter decides what it does; a cleared Enable
closes every session on the queue pair first. -/
theorem enabledQueuePairWrites : Obligations.EnabledQueuePairWrites := by
  intro s m d priv q v e hr hen he
  have hctl := exec_sesQpCtlWrite q v hr
  replace he : askedEntries v.toNat = e := (askedEntries_eq _).trans he.symm
  have hvec : BitVec.ofNat 9 (getF 16 9 v.toNat) = v.extractLsb' 16 9 := by
    apply BitVec.eq_of_toNat_eq
    simp [getF, Nat.shiftRight_eq_div_pow]
  refine ⟨?base, ?keep, ?change, ?disable⟩
  case base =>
    intro a o ho ha
    rw [exec_registerWrite_qpBase hr ho ha, setQpBase_of_enabled hen]
  case keep =>
    intro hon hsame
    rw [hctl, setQpCtl_of_sameEntries hen hon (he.trans hsame), hvec]
    rfl
  case change =>
    intro hon hother
    rw [hctl, setQpCtl_of_otherEntries hen hon (he ▸ hother)]
  case disable =>
    intro hoff
    refine ⟨_, hctl, ?_, ?_, ?_, openS_setQpCtl_of_disable hen hoff⟩ <;>
      simp only [setQpCtl_of_disable hen hoff, modQp_get, hvec, he]
    exact (BitVec.toNat_ofNat ..).trans (Nat.mod_eq_of_lt (he ▸ askedEntries_lt _))

end Sys2Proof.Laws
end

section
/-! SUPPORT. DEVICE_INFO, DEVICE_STATUS, the fault commands, TMX_SELECT and the TAP (R146, R177, R180, R380, R385, R387,
R412, R413): what each body answers once its checks hold. -/

namespace Sys2Proof.Laws

open Machine

section
variable {p : Packet} {x : Session} {s : State}

/-! ## Faults -/

theorem needSource_of {id : Nat} (hid : par p 0 2 = id) (huse : s.dev.sourceInUse id = true) :
    (Ctx.mk s p x).needSource = .ok id := by
  subst hid
  rw [Ctx.needSource, needP_of huse]
  rfl

theorem fltClassCmd_of_allowed {id k : Nat} (hid : par p 0 2 = id) (hk : par p 2 1 = k)
    (huse : s.dev.sourceInUse id = true) (hmax : k ≤ 5) (hmin : lowestClass id ≤ k) (hunit : k ≠ 3 ∨ hasUnit id = true)
    (hzero : reservedZero p 3 1) :
    fltClassCmd ⟨s, p, x⟩ = .ok (s.dev.modSrc id fun y => { y with cls := Tv.mk3 (BitVec.ofNat 3 k) }, .ok []) := by
  subst hk
  have hcls : (decide (par p 2 1 ≤ 5) && decide (lowestClass id ≤ par p 2 1) && (par p 2 1 != 3 || hasUnit id)) = true := by
    simpa [hmax, hmin] using hunit
  simp only [fltClassCmd, needSource_of hid huse, bind, Except.bind, needP_of hcls, needZero_of hzero]
  rfl

theorem fltForceCmd_of_source {id : Nat} (hid : par p 0 2 = id) (huse : s.dev.sourceInUse id = true)
    (hrange : within 0 1 (par p 2 1)) (hzero : reservedZero p 3 1) :
    fltForceCmd ⟨s, p, x⟩ = .ok (if par p 2 1 = 1 then s.dev.forceOn id else s.dev.forceOff id, .ok []) := by
  simp only [fltForceCmd, needSource_of hid huse, needRange_of hrange, needZero_of hzero]
  rfl

/-- The counters FLT_READ answers. -/
def fltCounters (d : Dev) (first n : Nat) : List Byte := (List.range n).flatMap fun i => leBytes 4 (d.fltCount (first + i))

theorem fltCounters_length (d : Dev) (first n : Nat) : (fltCounters d first n).length = 4 * n := by
  simp [fltCounters, List.length_flatMap, Nat.mul_comm]

theorem fltCountersCmd_of_range {first n : Nat} (hfirst : par p 0 2 = first) (hn : par p 2 2 = n)
    (hf : within 0 0x3FF first) (hc : within 1 1015 n) (hend : first + n ≤ 0x400)
    (hroom : replyFits p x.macRequired (4 * n) = true) :
    fltCountersCmd ⟨s, p, x⟩ = .ok (s.dev, .ok (fltCounters s.dev first n)) := by
  subst hfirst hn
  simp only [fltCountersCmd, needRange_of hf, needRange_of hc, need_of (decide_eq_true hend), needRoom_of hroom]
  rfl

/-! ## TMX_SELECT -/

/-- What TMX_SELECT makes of the multiplexers for a pin: its signal, its die and who has selected it (R180, R412). -/
def tmxSelected (t : Tmx) (p : Packet) (x : Session) (pin : Fin 8) : Tmx := {
  signal := t.signal.set pin (BitVec.ofNat 12 (par p 2 2))
  die := t.die.set pin (BitVec.ofNat 3 (par p 1 1))
  vendor := if x.role = rVendor then t.vendor ||| BitVec.ofNat 8 (2 ^ pin.val)
    else t.vendor &&& ~~~(BitVec.ofNat 8 (2 ^ pin.val)) }

theorem tmxSelectCmd_of_pin {pin : Fin 8} (hopen : s.dev.otp.debugOpen = true) (hpin : par p 0 1 = pin.val)
    (hdie : par p 1 1 ≤ 7) (hhere : s.dev.dieHere (par p 1 1) = true) (hsig : within 0 4095 (par p 2 2)) :
    tmxSelectCmd ⟨s, p, x⟩ = .ok ({ s.dev with tmx := tmxSelected s.dev.tmx p x pin }, .ok []) := by
  have hlt : par p 0 1 < 8 := hpin ▸ pin.isLt
  obtain rfl : ⟨par p 0 1, hlt⟩ = pin := Fin.ext hpin
  have hpresent : (decide (par p 1 1 ≤ 7) && s.dev.dieHere (par p 1 1)) = true := by rw [decide_eq_true hdie, hhere]; rfl
  simp only [tmxSelectCmd, need_of hopen, dif_pos hlt, needP_of hpresent, needRange_of hsig]
  rfl

end

/-! ## The TAP -/

theorem exec_tap_known {op : JtagOp} (h : ∀ n, op ≠ .other n) (s : State) :
    exec (.jtagTapAccess op) s = .next { s with dev := s.dev.emit (.jtag op) } := by
  cases op with
  | other n => exact absurd rfl (h n)
  | _ => rfl

theorem exec_tap_other {s : State} (h : s.dev.tmxLive = false) (n : Nat) :
    exec (.jtagTapAccess (.other n)) s = .next { s with dev := s.dev.emit (.jtag .bypass) } :=
  if_neg (Bool.eq_false_iff.mp h)

/-- Settles O31: with its checks met each body answers or changes what its rule names. -/
theorem deviceCommandsComplete : Obligations.DeviceCommandsComplete := by
  refine ⟨?info, ?status, ?cls, ?force, ?records, ?counters, ?tmx, ?tap, ?tapOther⟩
  case info => exact fun s p x h hroom => onDev_ok h.1 (body := fun c => .ok (c.d, .ok c.d.infoReply)) rfl hroom
  case status => exact fun s p x h hroom => onDev_ok h.1 (body := fun c => .ok (c.d, .ok c.d.statusReply)) rfl hroom
  case cls =>
    exact fun s p x id k h hid hk huse hmax hmin hunit hzero =>
      onDev_ok h.1 (fltClassCmd_of_allowed hid hk huse hmax hmin hunit hzero) h.2
  case force =>
    exact fun s p x id h hid huse hrange hzero => onDev_ok h.1 (fltForceCmd_of_source hid huse hrange hzero) h.2
  case records =>
    intro s p x r h hr hroom
    subst hr
    exact onDev_ok h.1 (body := fun c => .ok (c.d, .ok (c.d.flt.firstRec.bytes ++ c.d.flt.latestRec.bytes))) rfl hroom
  case counters =>
    exact fun s p x first n h hfirst hn hf hc hend hroom =>
      onDev_ok h.1 (fltCountersCmd_of_range hfirst hn hf hc hend hroom) ((fltCounters_length ..).symm ▸ hroom)
  case tmx =>
    exact fun s p x pin h hopen hpin hdie hhere hsig =>
      onDev_ok (s := s) h.1 (tmxSelectCmd_of_pin hopen hpin hdie hhere hsig) h.2
  case tap => exact fun s op h => exec_tap_known h s
  case tapOther => exact fun s n h => exec_tap_other h n

end Sys2Proof.Laws
end

section
/-! SUPPORT. READ_WORDS, WRITE_PAIRS, MODIFY_WORD and WRITE_BLOCK (R147 to R150, R184, R185, R395): the checks of their
addresses, and what each body does once they hold. -/

namespace Sys2Proof.Laws

open Machine

section
variable {sp : CmdSpec} {p : Packet} {x : Session} {s : State}

/-- A ready memory command whose reply carries no parameters ends on the device and the memory its body leaves. -/
theorem cmdMem_finish {body : Ctx → Chk (Dev × Banks × Finish)} {d : Dev} {m : Banks} {f : Finish} (h : Ready sp p x s)
    (hb : body ⟨s, p, x⟩ = .ok (d, m, f)) (hf : f.size = 0) : cmdMem sp body p s = (d.finish p f, m) :=
  cmdMem_ok h.1 hb (hf ▸ h.2)

/-! ## Addresses -/

theorem wordAddr_of {a param : Nat} (hal : a % 4 = 0) (htop : a ≤ barTop) :
    needP (a ≤ barTop && a % 4 == 0) param = .ok () :=
  needP_of (by rw [decide_eq_true htop, hal]; rfl)

theorem needAddr_of {d : Dev} {a param : Nat} (hal : a % 4 = 0) (htop : a ≤ barTop) (hhere : d.absentAt a = false) :
    needAddr d a param = .ok () := by
  have hhere' : (!d.absentAt a) = true := by rw [hhere]; rfl
  rw [needAddr, wordAddr_of hal htop, needP_of hhere']
  rfl

/-! ## READ_WORDS -/

theorem busReads_length (rows : OtpRows) (w : Master) (priv : Bool) (n : Nat) (d : Dev) (m : Banks) (a : Nat) :
    (busReads rows w priv n d m a).2.2.length = 4 * n := by
  induction n generalizing d m a with
  | zero => rfl
  | succ n ih => simp only [busReads, List.length_append, leBytes_length, ih]; omega

theorem readWordsCmd_of_present {a n : Nat} (ha : par p 0 4 = a) (hn : par p 4 2 = n) (hal : a % 4 = 0)
    (hrange : within 1 1015 n) (hend : a + 4 * (n - 1) ≤ barTop) (hzero : reservedZero p 6 2)
    (hhere : ∀ i < n, s.dev.absentAt (a + 4 * i) = false) (hroom : replyFits p x.macRequired (4 * n) = true) :
    ∃ r, r = busReads s.rows .cp (decide (rService ≤ x.role)) n s.dev s.mem a
      ∧ readWordsCmd ⟨s, p, x⟩ = .ok (r.1, r.2.1, .ok r.2.2) := by
  subst ha hn
  have hpresent : (!(List.range (par p 4 2)).any fun i =>
      decide (par p 0 4 + 4 * i ≤ barTop) && s.dev.absentAt (par p 0 4 + 4 * i)) = true := by
    simpa using fun i hi _ => hhere i hi
  refine ⟨_, rfl, ?_⟩
  simp only [readWordsCmd, wordAddr_of hal (Nat.le_of_add_right_le hend), needP_of hpresent, needRange_of hrange,
    needZero_of hzero, need_of (decide_eq_true hend), needRoom_of hroom]
  rfl

/-! ## Writes, which wait for the OTP controller where they name OTP_CMD (R148, R185, R395) -/

section
variable {rows : OtpRows} {priv : Bool} {d : Dev} {m : Banks} {ws : List (Nat × Nat × Nat)}

theorem writeWords_of_held (h : ∃ y ∈ ws, d.otpHolds y.2.1 = true) :
    writeWords rows priv d m (ws.map fun y => y.2) = (d, m, .park (.writes (ws.map fun y => y.2) priv)) :=
  if_pos (by simpa using h)

theorem writeWords_of_free (h : ∀ y ∈ ws, d.otpHolds y.2.1 = false) :
    writeWords rows priv d m (ws.map fun y => y.2) =
      ((busWrites rows priv (d, m) (ws.map fun y => y.2)).1, (busWrites rows priv (d, m) (ws.map fun y => y.2)).2,
        .ok []) :=
  if_neg (by simpa using fun _ a v hy => h (_, a, v) hy)

/-- A command whose body comes down to a sequence of writes waits before the first of them, or writes them all and is
answered. -/
theorem onMem_writeWords {body : Ctx → Chk (Dev × Banks × Finish)} (h : Ready sp p x s)
    (hb : body ⟨s, p, x⟩ = .ok (writeWords s.rows priv s.dev s.mem (ws.map fun y => y.2))) :
    ((∃ y ∈ ws, s.dev.otpHolds y.2.1 = true) → onMem (cmdMem sp body p) s = .next { s with
      dev := s.dev.finish p (.park (.writes (ws.map fun y => y.2) priv)) })
    ∧ ((∀ y ∈ ws, s.dev.otpHolds y.2.1 = false) →
      ∃ r, r = busWrites s.rows priv (s.dev, s.mem) (ws.map fun y => y.2)
        ∧ onMem (cmdMem sp body p) s = answered { s with mem := r.2 } p r.1 []) := by
  refine ⟨fun hheld => ?_, fun hfree => ⟨_, rfl, ?_⟩⟩
  · exact onMem_of_pair (cmdMem_finish h (hb.trans (congrArg _ (writeWords_of_held hheld))) rfl)
  · exact onMem_of_pair (cmdMem_finish h (hb.trans (congrArg _ (writeWords_of_free hfree))) rfl)

end

theorem needPairs_of : ∀ {ps : List (Nat × Nat × Nat)}, (∀ y ∈ ps, y.2.1 ≤ 0x07FFFFFC ∧ y.2.1 % 4 = 0
    ∧ s.dev.absentAt y.2.1 = false ∧ s.dev.noReserved y.2.1 y.2.2 = true) → needPairs ⟨s, p, x⟩ ps = .ok ()
  | [], _ => rfl
  | (off, a, v) :: ps, h => by
    obtain ⟨⟨htop, hal, hhere, hres⟩, hrest⟩ := List.forall_mem_cons.mp h
    simp only [needPairs, needAddr_of hal htop hhere, needP_of hres, needPairs_of hrest]
    rfl

theorem writePairsCmd_of_present (hrange : within 1 507 (par p 0 2)) (hzero : reservedZero p 2 2)
    (hpairs : ∀ y ∈ pairsAt (pktParams p) 4 (par p 0 2), y.2.1 ≤ 0x07FFFFFC ∧ y.2.1 % 4 = 0
      ∧ s.dev.absentAt y.2.1 = false ∧ s.dev.noReserved y.2.1 y.2.2 = true) :
    writePairsCmd ⟨s, p, x⟩ = .ok (writeWords s.rows (decide (rService ≤ x.role)) s.dev s.mem
      ((pairsAt (pktParams p) 4 (par p 0 2)).map fun y => y.2)) := by
  simp only [writePairsCmd, needRange_of hrange, needZero_of hzero, needPairs_of hpairs]
  rfl

/-! ## MODIFY_WORD -/

theorem modifyWordCmd_of_present {a : Nat} (ha : par p 0 4 = a) (hal : a % 4 = 0) (htop : a ≤ 0x07FFFFFC)
    (hhere : s.dev.absentAt a = false) (hres : s.dev.noReserved a (par p 4 4) = true)
    (hroom : replyFits p x.macRequired 8 = true) :
    modifyWordCmd ⟨s, p, x⟩ = if s.dev.otpHolds a
      then .ok (s.dev, s.mem, .park (.modify (decide (rService ≤ x.role))))
      else
        let r := modifyRun s.rows (decide (rService ≤ x.role)) (pktParams p) s.dev s.mem
        .ok (r.1, r.2.1, .ok r.2.2) := by
  subst ha
  simp only [modifyWordCmd, needAddr_of hal htop hhere, needP_of hres, needRoom_of hroom]
  rfl

/-! ## WRITE_BLOCK -/

theorem needWords_of {d : Dev} : ∀ {ws : List (Nat × Nat × Nat)}, (∀ y ∈ ws, d.noReserved y.2.1 y.2.2 = true) →
    needWords d ws = .ok ()
  | [], _ => rfl
  | (off, a, v) :: ws, h => by
    obtain ⟨hres, hrest⟩ := List.forall_mem_cons.mp h
    simp only [needWords, needP_of hres, needWords_of hrest]
    rfl

theorem writeBlockCmd_of_present {a n : Nat} (ha : par p 0 4 = a) (hn : par p 4 2 = n) (hal : a % 4 = 0)
    (hrange : within 1 1013 n) (hend : a + 4 * (n - 1) ≤ barTop) (hzero : reservedZero p 6 2)
    (hwords : ∀ y ∈ blockWords (pktParams p) a 8 n, s.dev.absentAt y.2.1 = false
      ∧ s.dev.noReserved y.2.1 y.2.2 = true ∧ s.dev.lineBusy y.2.1 = false) :
    writeBlockCmd ⟨s, p, x⟩ = .ok (writeWords s.rows (decide (rService ≤ x.role)) s.dev s.mem
      ((blockWords (pktParams p) a 8 n).map fun y => y.2)) := by
  subst ha hn
  have hpresent : (!((blockWords (pktParams p) (par p 0 4) 8 (par p 4 2)).filter fun y =>
      decide (y.2.1 ≤ barTop)).any fun y => s.dev.absentAt y.2.1) = true := by
    simpa using fun _ b v hy _ => (hwords (_, b, v) hy).1
  have hres : ∀ y ∈ (blockWords (pktParams p) (par p 0 4) 8 (par p 4 2)).filter fun y => decide (y.2.1 ≤ barTop),
      s.dev.noReserved y.2.1 y.2.2 = true := fun y hy => (hwords y (List.mem_of_mem_filter hy)).2.1
  have hidle : (!(blockWords (pktParams p) (par p 0 4) 8 (par p 4 2)).any fun y => s.dev.lineBusy y.2.1) = true := by
    simpa using fun _ b v hy => (hwords (_, b, v) hy).2.2
  simp only [writeBlockCmd, wordAddr_of hal (Nat.le_of_add_right_le hend), needP_of hpresent, needRange_of hrange,
    needZero_of hzero, needWords_of hres, need_of (decide_eq_true hend), needFree_of hidle]
  rfl

end

/-- Settles O37: once its words are checked, a command reads or writes them as the fabric does, or waits for the OTP
controller before the first. -/
theorem wordCommandsComplete : Obligations.WordCommandsComplete := by
  refine ⟨?read, ?pairs, ?modify, ?modifyHeld, ?block⟩
  case read =>
    intro s p x a n h ha hn hal hrange hend hzero hhere hroom
    obtain ⟨r, hr, hbody⟩ := readWordsCmd_of_present ha hn hal hrange hend hzero hhere hroom
    refine ⟨r, hr, onMem_ok h.1 hbody ?_⟩
    rwa [hr, busReads_length]
  case pairs =>
    intro s p x ps h hps hrange hzero hpairs
    subst hps
    exact onMem_writeWords h (writePairsCmd_of_present hrange hzero hpairs)
  case modify =>
    intro s p x a h ha hal htop hhere hres hroom hfree
    have hbody := (modifyWordCmd_of_present ha hal htop hhere hres hroom).trans (if_neg (Bool.eq_false_iff.mp hfree))
    subst ha
    exact ⟨_, _, _, _, rfl, rfl, rfl, rfl, onMem_ok h.1 hbody (by simpa using hroom)⟩
  case modifyHeld =>
    intro s p x a h ha hal htop hhere hres hroom hheld
    exact onMem_of_pair (cmdMem_finish h
      ((modifyWordCmd_of_present ha hal htop hhere hres hroom).trans (if_pos hheld)) rfl)
  case block =>
    intro s p x a n ws h ha hn hws hal hrange hend hzero hwords
    subst hws
    exact onMem_writeWords h (writeBlockCmd_of_present ha hn hal hrange hend hzero hwords)

end Sys2Proof.Laws
end

section
/-! SUPPORT. DMA_CONFIG, DMA_POST, DMA_STATUS and DMA_CONTROL (R151 to R153, R221, R232, R240): what each body does once
its checks hold. -/

namespace Sys2Proof.Laws

open Machine

section
variable {sp : CmdSpec} {p : Packet} {x : Session} {s : State}

/-- A device command answered ST_QUEUED. -/
theorem onDev_queued {body : Ctx → Chk (Dev × Finish)} {d : Dev} {r : List Byte}
    (h : Judged sp p x s) (hb : body ⟨s, p, x⟩ = .ok (d, .queued r)) (hf : replyFits p x.macRequired r.length = true) :
    onDev (cmdDev sp body p) s = .next { s with dev := d.answer p stQueued noField r } :=
  onDev_of_eq (cmdDev_ok h hb hf)

/-- What stands in the way only under a condition under which it is absent stands in no one's way. -/
theorem not_and_of_imp {a b : Bool} (h : a = true → b = false) : (!(a && b)) = true := by
  cases a with
  | false => rfl
  | true => rw [h rfl]; rfl

/-- A field that holds the number of one of the machine's units lies in its range. -/
theorem fieldRange_of_eq {o n hi : Nat} {i : Fin (hi + 1)} (h : par p o n = i.val) :
    needRange (pktParams p) o n 0 hi = .ok () :=
  needRange_of ⟨Nat.zero_le _, h.le.trans (Nat.le_of_lt_succ i.isLt)⟩

theorem needDescs_of {d : Dev} {y : Channel} : ∀ {ds : List Desc} {off : Nat},
    (∀ t ∈ ds, d.descFault y.swathFeed y.swath t = none) → needDescs d y off ds = .ok ()
  | [], _, _ => rfl
  | t :: ts, off, h => by
    obtain ⟨ht, hts⟩ := List.forall_mem_cons.mp h
    rw [needDescs, ht]
    exact needDescs_of hts

section
variable {k : Fin 32} (hk : par p 0 1 = k.val)
include hk

theorem dmaConfigCmd_of_idle (hfeed : within 0 1 (par p 1 1)) (hswath : within 0 15 (par p 2 1))
    (hretry : within 0 7 (par p 3 1)) (hvector : within 0 511 (par p 4 2)) (hzero : reservedZero p 6 2)
    (hidle : s.dev.dma.ch[k].pendingAny = false)
    (hold : s.dev.dma.ch[k].state ≠ 3 → s.dev.dma.ch[k].swathFeed = true →
      s.dev.swathInUse s.dev.dma.ch[k].swath = false)
    (hnew : par p 1 1 = 1 → s.dev.swathBusy (Fin.ofNat 16 (par p 2 1)) = false) :
    dmaConfigCmd ⟨s, p, x⟩ = .ok ((s.dev.causeGone (idDmaErr k.val)).modCh k fun y => {
      state := 0, swathFeed := par p 1 1 == 1, swath := Fin.ofNat 16 (par p 2 1)
      retryMax := BitVec.ofNat 3 (par p 3 1), vector := BitVec.ofNat 9 (par p 4 2)
      reads := y.reads.filter fun q => q.dead }, .ok []) := by
  have hrange := fieldRange_of_eq hk
  obtain rfl := ofNat_of_eq_val hk
  have hidle' : (!s.dev.dma.ch[Fin.ofNat 32 (par p 0 1)].pendingAny) = true := by rw [hidle]; rfl
  have hold' : (!(decide (s.dev.dma.ch[Fin.ofNat 32 (par p 0 1)].state ≠ 3)
      && s.dev.dma.ch[Fin.ofNat 32 (par p 0 1)].swathFeed
      && s.dev.swathInUse s.dev.dma.ch[Fin.ofNat 32 (par p 0 1)].swath)) = true :=
    not_and_of_imp fun hb => by
      obtain ⟨hconf, hfeeds⟩ := Bool.and_eq_true_iff.mp hb
      exact hold (of_decide_eq_true hconf) hfeeds
  have hnew' : (!(par p 1 1 == 1 && s.dev.swathBusy (Fin.ofNat 16 (par p 2 1)))) = true :=
    not_and_of_imp fun hfeeds => hnew (beq_iff_eq.mp hfeeds)
  simp only [dmaConfigCmd, hrange, needRange_of hfeed, needRange_of hswath, needRange_of hretry, needRange_of hvector,
    needZero_of hzero, needFree_of hidle', needFree_of hold', needFree_of hnew']
  rfl

/-- A channel with descriptors joined to its list, those that need no data already run (R152). -/
def dmaPosted (d : Dev) (k : Fin 32) (ds : List Desc) : Dev :=
  (d.modCh k fun z => { z with list := z.list ++ ds }).modCh k Channel.norm

theorem dmaPostCmd_of_room (hconf : s.dev.dma.ch[k].state ≠ 3) (hzero : reservedZero p 1 1)
    (hcount : within 1 126 (par p 2 2))
    (hds : ∀ t ∈ postedDescs (pktParams p),
      s.dev.descFault s.dev.dma.ch[k].swathFeed s.dev.dma.ch[k].swath t = none)
    (hlen : (postedDescs (pktParams p)).length + s.dev.dma.ch[k].entries ≤ 256)
    (hroom : replyFits p x.macRequired 6 = true) (hrun : s.dev.dma.ch[k].state ≠ 2)
    (hfree : s.dev.dma.ch[k].swathFeed = true ∨ (∀ t ∈ postedDescs (pktParams p), s.dev.descBusy t = false)) :
    dmaPostCmd ⟨s, p, x⟩ = .ok (dmaPosted s.dev k (postedDescs (pktParams p)),
      .queued (leBytes 4 (s.dev.dma.ch[k].next.toNat + s.dev.dma.ch[k].list.length)
        ++ leBytes 2 (256 - (dmaPosted s.dev k (postedDescs (pktParams p))).dma.ch[k].entries))) := by
  have hrange := fieldRange_of_eq hk
  obtain rfl := ofNat_of_eq_val hk
  have hfree' : (s.dev.dma.ch[Fin.ofNat 32 (par p 0 1)].swathFeed
      || !(postedDescs (pktParams p)).any s.dev.descBusy) = true := by simpa using hfree
  simp only [dmaPostCmd, hrange, needP_of (decide_eq_true hconf), needZero_of hzero, needRange_of hcount,
    needDescs_of hds, need_of (decide_eq_true hlen), needRoom_of hroom, needFree_of (decide_eq_true hrun),
    needFree_of hfree']
  rfl

theorem dmaStatusCmd_of_channel :
    dmaStatusCmd ⟨s, p, x⟩ = .ok (s.dev, .ok (leBytes 1 s.dev.dma.ch[k].stateSeen.toNat
      ++ leBytes 1 s.dev.dma.ch[k].retries ++ leBytes 2 s.dev.dma.ch[k].entries
      ++ leBytes 4 s.dev.dma.ch[k].done.toNat ++ leBytes 4 s.dev.dma.ch[k].fenced.toNat
      ++ leBytes 4 s.dev.dma.ch[k].errIdx.toNat ++ leBytes 4 s.dev.dma.ch[k].errorCode.toNat)) := by
  have hrange := fieldRange_of_eq hk
  obtain rfl := ofNat_of_eq_val hk
  rw [dmaStatusCmd, hrange]
  rfl

/-- Each form of DMA_CONTROL does its own to the channel named. -/
theorem dmaControlCmd_of_channel (f : Dev → Fin 32 → Dev) : dmaControlCmd f ⟨s, p, x⟩ = .ok (f s.dev k, .ok []) := by
  have hrange := fieldRange_of_eq hk
  obtain rfl := ofNat_of_eq_val hk
  rw [dmaControlCmd, hrange]
  rfl

end

end

/-- Settles O42: the bodies' checks are met, and the replies have the lengths of Tables 6.8 and 6.9. -/
theorem dmaCommandsComplete : Obligations.DmaCommandsComplete := by
  refine ⟨?config, ?post, ?status, ?resume, ?discard, ?stop⟩
  case config =>
    exact fun s p x k h hk hfeed hswath hretry hvector hzero hidle hold hnew =>
      onDev_ok h.1 (dmaConfigCmd_of_idle hk hfeed hswath hretry hvector hzero hidle hold hnew) h.2
  case post =>
    intro s p x k y ds d h hk hy hconf hzero hcount hds hdescs hlen hroom hrun hfree hd
    subst hy hds hd
    exact onDev_queued h.1 (dmaPostCmd_of_room hk hconf hzero hcount hdescs hlen hroom hrun hfree) (by simpa using hroom)
  case status =>
    intro s p x k y h hk hy hroom
    subst hy
    exact onDev_ok h.1 (dmaStatusCmd_of_channel hk) (by simpa using hroom)
  case resume => exact fun s p x k h hk => onDev_ok h.1 (dmaControlCmd_of_channel hk Dev.dmaResume) h.2
  case discard =>
    exact fun s p x k h hk => onDev_ok h.1
      (dmaControlCmd_of_channel hk fun d c => if d.dma.ch[c].state = 2 then d.dmaDiscard c else d) h.2
  case stop => exact fun s p x k h hk => onDev_ok h.1 (dmaControlCmd_of_channel hk Dev.dmaDiscard) h.2

end Sys2Proof.Laws
end

section
/-! SUPPORT. SCAN_START, MAP_EDIT, MAP_READ, RAW_READ, BAND_SET, CAL_WRITE and PATTERN_PRINT (R162 to R167, R292 to R302):
what each body does once its checks hold. -/

namespace Sys2Proof.Laws

open Machine

section
variable {p : Packet} {x : Session} {s : State}

/-! ## Scans -/

/-- A port that a scan may begin on, in a state of SNS_STAT (R162, R296). -/
abbrev scanFree (d : Dev) (st : BitVec 2) (gp : Fin 112) : Prop :=
  d.ports[gp].on = true ∧ d.portEmpty gp = false ∧ d.ports[gp].scan.state = 0 ∧ d.portContained gp = false
    ∧ (st = 1 → ∀ w, d.swathOf gp.val = some w → d.patterned w = false)

theorem scanStartCmd_of_free {st : BitVec 2} (hmap : s.dev.mapPresent (par p 0 14) = true)
    (hfree : ∀ gp ∈ mapPorts (par p 0 14), scanFree s.dev st gp) (hzero : reservedZero p 14 2) :
    scanStartCmd st ⟨s, p, x⟩ = .ok ((mapPorts (par p 0 14)).foldl
      (fun e gp => e.beginScan st e.ports[gp].nozzles false gp) s.dev, .queued []) := by
  have hheads : (s.dev.mapPresent (par p 0 14)
      && (mapPorts (par p 0 14)).all fun gp => s.dev.ports[gp].on && !s.dev.portEmpty gp) = true := by
    rw [hmap, Bool.true_and, List.all_eq_true]
    intro gp hgp
    obtain ⟨hon, hhead, -⟩ := hfree gp hgp
    rw [hon, hhead]
    rfl
  simp only [scanStartCmd, needP_of hheads, needZero_of hzero]
  rw [needFree_of]
  · rfl
  · rw [List.all_eq_true]
    intro gp hgp
    obtain ⟨-, -, hstate, hheld, hpattern⟩ := hfree gp hgp
    rw [hstate, hheld]
    rcases eq_or_ne st 1 with hst | hst
    · split
      · next w hw => rw [hpattern hst w hw]; simp
      · simp
    · rw [bne_iff_ne.mpr hst]; rfl

/-! ## Maps -/

theorem needPort_of {gp : Fin 112} (hgp : par p 0 1 = gp.val) (hport : s.dev.hasPort gp.val = true) :
    (Ctx.mk s p x).needPort = .ok gp := by
  have hhas : needP (s.dev.hasPort (par p 0 1)) 0 = .ok () := needP_of (hgp ▸ hport)
  simp only [Ctx.needPort, fieldRange_of_eq hgp, hhas, ofNat_of_eq_val hgp]
  rfl

/-- The value of a MAP_EDIT keeps to the bits its operation may change (Table 6.18). -/
abbrev editValue (p : Packet) : Prop :=
  if par p 1 1 = 2 then getF 1 4 (par p 2 1) = 0 ∧ getF 5 2 (par p 2 1) ≠ 3 else Nat.land (par p 2 1) 0x7E = 0

theorem needMapEdit_of {gp : Fin 112} (hgp : par p 0 1 = gp.val) (hport : s.dev.hasPort gp.val = true)
    (hop : within 0 2 (par p 1 1)) (hvalue : editValue p) (hzero : reservedZero p 3 1) :
    (Ctx.mk s p x).needMapEdit = .ok gp := by
  have hvalue' : (if par p 1 1 = 2 then getF 1 4 (par p 2 1) == 0 && getF 5 2 (par p 2 1) != 3
      else Nat.land (par p 2 1) 0x7E == 0) = true := by
    unfold editValue at hvalue
    split at hvalue
    · next h2 => simpa [h2] using hvalue
    · next h2 => simpa [h2] using hvalue
  simp only [Ctx.needMapEdit, needPort_of hgp hport, bind, Except.bind, needRange_of hop, needP_of hvalue',
    needZero_of hzero]
  rfl

theorem needEntries_of {hi code : Nat} : ∀ {n off : Nat}, (∀ i < n, par p (off + 2 * i) 2 ≤ hi) →
    needEntries (pktParams p) hi code off n = .ok ()
  | 0, _, _ => rfl
  | n + 1, off, h => by
    have hfirst : par p off 2 ≤ hi := h 0 (by omega)
    have hrest : ∀ i < n, par p (off + 2 + 2 * i) 2 ≤ hi := fun i hi' => by
      have := h (i + 1) (by omega)
      rwa [show off + 2 * (i + 1) = off + 2 + 2 * i by omega] at this
    rw [needEntries, need_of (decide_eq_true hfirst), needEntries_of hrest]
    rfl

theorem hostRead_length (d : Dev) (m : Banks) (a n : Nat) : (hostRead d m a n).2.length = n := by
  simp [hostRead]

section
variable {gp : Fin 112} (hgp : par p 0 1 = gp.val) (hport : s.dev.hasPort gp.val = true)
include hgp hport

theorem mapEditRunCmd_of_run (hop : within 0 2 (par p 1 1)) (hvalue : editValue p) (hzero : reservedZero p 3 1)
    (hcount : within 1 10240 (par p 4 2)) (hfirst : within 0 10239 (par p 6 2))
    (hend : par p 6 2 + par p 4 2 ≤ s.dev.ports[gp].nozzles) :
    ∃ r, r = mapEdits gp.val (par p 1 1) (par p 2 1) (s.dev, s.mem) ((List.range (par p 4 2)).map (par p 6 2 + ·))
      ∧ mapEditRunCmd ⟨s, p, x⟩ = .ok (r.1, r.2, .ok []) := by
  refine ⟨_, rfl, ?_⟩
  simp only [mapEditRunCmd, needMapEdit_of hgp hport hop hvalue hzero, bind, Except.bind, needRange_of hcount,
    needRange_of hfirst, need_of (decide_eq_true hend)]
  rfl

theorem mapEditListCmd_of_list (hop : within 0 2 (par p 1 1)) (hvalue : editValue p) (hzero : reservedZero p 3 1)
    (hcount : within 1 2027 (par p 4 2))
    (hentries : ∀ i < par p 4 2, par p (6 + 2 * i) 2 ≤ 10239 ∧ par p (6 + 2 * i) 2 < s.dev.ports[gp].nozzles) :
    ∃ r, r = mapEdits gp.val (par p 1 1) (par p 2 1) (s.dev, s.mem)
        ((List.range (par p 4 2)).map fun i => par p (6 + 2 * i) 2)
      ∧ mapEditListCmd ⟨s, p, x⟩ = .ok (r.1, r.2, .ok []) := by
  have hany : 0 < s.dev.ports[gp].nozzles := (hentries 0 hcount.1).2.pos
  have hrange : ∀ i < par p 4 2, par p (6 + 2 * i) 2 ≤ 10239 := fun i hi => (hentries i hi).1
  have hin : ∀ i < par p 4 2, par p (6 + 2 * i) 2 ≤ s.dev.ports[gp].nozzles - 1 := fun i hi =>
    Nat.le_sub_one_of_lt (hentries i hi).2
  refine ⟨_, rfl, ?_⟩
  simp only [mapEditListCmd, needMapEdit_of hgp hport hop hvalue hzero, bind, Except.bind, needRange_of hcount,
    needEntries_of hrange, need_of (decide_eq_true hany), needEntries_of hin]
  rfl

theorem tableReadCmd_of_range {w hi : Nat} {addr : Nat → Nat → Nat} (hzero : reservedZero p 1 1)
    (hfirst : within 0 10239 (par p 2 2)) (hcount : within 1 hi (par p 4 2))
    (hend : par p 2 2 + par p 4 2 ≤ s.dev.ports[gp].nozzles) (hroom : replyFits p x.macRequired (w * par p 4 2) = true) :
    ∃ r, r = hostRead s.dev s.mem (addr gp.val (par p 2 2)) (w * par p 4 2)
      ∧ tableReadCmd w hi addr ⟨s, p, x⟩ = .ok (r.1, .ok r.2) := by
  refine ⟨_, rfl, ?_⟩
  simp only [tableReadCmd, needPort_of hgp hport, bind, Except.bind, needZero_of hzero, needRange_of hfirst,
    needRange_of hcount, need_of (decide_eq_true hend), needRoom_of hroom]
  rfl

/-! ## Bands and calibration sets -/

theorem bandSetCmd_of_order (hzero : reservedZero p 1 1) (hshort : within 1 7000 (par p 2 2))
    (hlow : within 1 7000 (par p 4 2)) (hhigh : within 1 7000 (par p 6 2)) (hopen : within 1 7000 (par p 8 2))
    (h1 : par p 2 2 < par p 4 2) (h2 : par p 4 2 < par p 6 2) (h3 : par p 6 2 < par p 8 2)
    (hscan : s.dev.ports[gp].scan.state = 0) (huse : s.dev.portInUse gp.val = false) :
    bandSetCmd ⟨s, p, x⟩ = .ok (s.dev.modPort gp fun y => { y with scan := { y.scan with
      bandShort := BitVec.ofNat 16 (par p 2 2), bandLow := BitVec.ofNat 16 (par p 4 2)
      bandHigh := BitVec.ofNat 16 (par p 6 2), bandOpen := BitVec.ofNat 16 (par p 8 2) } }, .ok []) := by
  have hfree : (s.dev.ports[gp].scan.state == 0 && !s.dev.portInUse gp.val) = true := by rw [hscan, huse]; rfl
  simp only [bandSetCmd, needPort_of hgp hport, bind, Except.bind, needZero_of hzero, needRange_of hshort,
    needRange_of hlow, needRange_of hhigh, needRange_of hopen, needP_of (decide_eq_true h1),
    needP_of (decide_eq_true h2), needP_of (decide_eq_true h3), needFree_of hfree]
  rfl

theorem calWriteCmd_of_range (hset : within 0 3 (par p 1 1)) (ha : -1024 ≤ parI p 2 2 ∧ parI p 2 2 ≤ 1023)
    (hb : -49152 ≤ parI p 4 4 ∧ parI p 4 4 ≤ 49152) (hc : -49152 ≤ parI p 8 4 ∧ parI p 8 4 ≤ 49152)
    (hsum : (parI p 4 4).natAbs + (parI p 8 4).natAbs ≤ 49152) (hzero : reservedZero p 20 4)
    (huse : s.dev.calInUse gp.val (par p 1 1) = false) :
    ∃ r, r = putRange s.dev s.mem (calAddr gp.val (par p 1 1))
        (((pktParams p).drop 2).take 2 ++ [0, 0] ++ ((pktParams p).drop 4).take 16 ++ List.replicate 12 0)
      ∧ calWriteCmd ⟨s, p, x⟩ = .ok (r.1, r.2, .ok []) := by
  have hfree : (!s.dev.calInUse gp.val (par p 1 1)) = true := by rw [huse]; rfl
  refine ⟨_, rfl, ?_⟩
  simp only [calWriteCmd, needPort_of hgp hport, bind, Except.bind, needRange_of hset, needRangeI_of ha,
    needRangeI_of hb, needRangeI_of hc, needP_of (decide_eq_true hsum), needZero_of hzero, needFree_of hfree]
  rfl

end

/-! ## Patterns -/

/-- The run that PATTERN_PRINT gives a swath, from a position on (R167, R269). -/
def patternRun (p : Packet) (y : Swath) (pos : Nat) : Run :=
  { epoch := y.epoch + 1, origin := pos, gearNum := y.gearNum, gearDen := y.gearDen, policy := patternPolicy y
    pattern := some (BitVec.ofNat 2 (par p 1 1)), lines := if par p 2 2 = 65535 then none else some (par p 2 2) }

/-- A swath with a pattern armed on every die (R167). -/
def patternArmed (p : Packet) (y : Swath) (pos : Nat) (z : Swath) : Swath :=
  { z with
    epoch := y.epoch + 1
    switch := some { pos, run := some (patternRun p y pos), tag := y.epoch + 1 }
    gens := vall (fun (g : LineGen) => { g with armed := true, crossed := false, late := g.behind z.switch }) z.gens }

theorem patternPrintCmd_of_ahead {w : Fin 16} {y : Swath} {now : EncCopy} {start : Word} (hw : par p 0 1 = w.val)
    (hy : y = s.dev.swaths[w]) (hdef : y.defined = true) (hnow : now = s.dev.pos.enc[y.channel].copies[0])
    (hstart : start = BitVec.ofNat 32 (par p 4 4) + y.barOffset) (hpat : within 0 3 (par p 1 1))
    (hcount : within 1 65535 (par p 2 2)) (hstate : y.state ≠ 3) (hpending : y.pendingRun = none)
    (hscan : ∀ gp ∈ s.dev.swathPorts w, s.dev.ports[gp].scan.state = 0) (hafter : after start now.count = true) :
    patternPrintCmd ⟨s, p, x⟩ = .ok
      (s.dev.modSwath w (patternArmed p y (add40 now.ext (start - now.count).toNat)), .ok []) := by
  have hrange := fieldRange_of_eq hw
  obtain rfl := ofNat_of_eq_val hw
  subst hy hnow hstart
  have hidle : (s.dev.swaths[Fin.ofNat 16 (par p 0 1)].state != 3
      && s.dev.swaths[Fin.ofNat 16 (par p 0 1)].pendingRun.isNone) = true := by
    rw [hpending, bne_iff_ne.mpr hstate]; rfl
  have hstill : ((s.dev.swathPorts (Fin.ofNat 16 (par p 0 1))).all fun gp => s.dev.ports[gp].scan.state == 0) = true := by
    simpa using hscan
  simp only [patternPrintCmd, hrange, needP_of hdef, needRange_of hpat, needRange_of hcount, needFree_of hidle,
    needFree_of hstill, need_of hafter]
  rfl

end

/-- Settles O44: the checks are met; entries are edited, read and written as the window's own operations do. -/
theorem mapCommandsComplete : Obligations.MapCommandsComplete := by
  refine ⟨?scan, ?run, ?list, ?read, ?band, ?cal, ?pattern⟩
  case scan =>
    intro s p x background ports st d h hst hports hmap hfree hzero hd
    subst hst hports hd
    cases background with
    | false =>
      refine onDev_queued h.1 (scanStartCmd_of_free hmap (fun gp hgp => ?_) hzero) h.2
      obtain ⟨hon, hhead, hstate, hheld, hpattern⟩ := hfree gp hgp
      exact ⟨hon, hhead, hstate, hheld, fun _ => hpattern.resolve_left Bool.false_ne_true⟩
    | true =>
      refine onDev_queued h.1 (scanStartCmd_of_free hmap (fun gp hgp => ?_) hzero) h.2
      obtain ⟨hon, hhead, hstate, hheld, -⟩ := hfree gp hgp
      exact ⟨hon, hhead, hstate, hheld, fun hone => absurd hone (by decide)⟩
  case run =>
    intro s p x gp r h hgp hport hop hvalue hzero hcount hfirst hend hr
    obtain ⟨_, rfl, hbody⟩ := mapEditRunCmd_of_run hgp hport hop hvalue hzero hcount hfirst hend
    exact hr ▸ onMem_ok h.1 hbody h.2
  case list =>
    intro s p x gp r h hgp hport hop hvalue hzero hcount hentries hr
    obtain ⟨_, rfl, hbody⟩ := mapEditListCmd_of_list hgp hport hop hvalue hzero hcount hentries
    exact hr ▸ onMem_ok h.1 hbody h.2
  case read =>
    intro s p x gp raw w r h hw hgp hport hzero hfirst hcount hend hroom hr
    subst hw
    have hlen : r.2.length = (if raw then 2 else 1) * par p 4 2 := by rw [hr, hostRead_length]
    rw [← hlen] at hroom
    cases raw with
    | false =>
      obtain ⟨_, rfl, hbody⟩ := tableReadCmd_of_range (w := 1) (addr := mapAddr) hgp hport hzero hfirst hcount hend
        (hlen ▸ hroom)
      exact onDev_ok h.1 (hr ▸ hbody) hroom
    | true =>
      obtain ⟨_, rfl, hbody⟩ := tableReadCmd_of_range (w := 2) (addr := rawAddr) hgp hport hzero hfirst hcount hend
        (hlen ▸ hroom)
      exact onDev_ok h.1 (hr ▸ hbody) hroom
  case band =>
    exact fun s p x gp h hgp hport hzero hshort hlow hhigh hopen h1 h2 h3 hscan huse =>
      onDev_ok h.1 (bandSetCmd_of_order hgp hport hzero hshort hlow hhigh hopen h1 h2 h3 hscan huse) h.2
  case cal =>
    intro s p x gp r h hgp hport hset ha hb hc hsum hzero huse hr
    obtain ⟨_, rfl, hbody⟩ := calWriteCmd_of_range hgp hport hset ha hb hc hsum hzero huse
    exact hr ▸ onMem_ok h.1 hbody h.2
  case pattern =>
    intro s p x w n y now start pos h hw hy hdef hn hnow hstart hpat hcount hstate hpending hscan hafter hpos
    subst hn hpos
    exact onDev_ok h.1
      (patternPrintCmd_of_ahead hw hy hdef hnow hstart hpat hcount hstate hpending hscan hafter) h.2

end Sys2Proof.Laws
end

section
/-! SUPPORT. SWATH_DEFINE, JOB_WRITE, JOB_READ, JOB_SWITCH, JOB_CANCEL and JOB_STATUS (R154 to R157, R205 to R213): what
each body does once its checks hold. -/

namespace Sys2Proof.Laws

open Machine

section
variable {sp : CmdSpec} {p : Packet} {x : Session} {s : State}

/-- A ready command whose reply carries no parameters, whether it is answered at once or parks. -/
theorem onDev_finish {body : Ctx → Chk (Dev × Finish)} {d : Dev} {f : Finish} (h : Ready sp p x s)
    (hb : body ⟨s, p, x⟩ = .ok (d, f)) (hf : f.size = 0) :
    onDev (cmdDev sp body p) s = .next { s with dev := d.finish p f } :=
  onDev_of_eq (cmdDev_finish h hb hf)

/-! ## SWATH_DEFINE -/

theorem getB_one_of_le {n : Nat} (h : n ≤ 1) : getB 1 n = false := by
  rcases Nat.le_one_iff_eq_zero_or_eq_one.mp h with rfl | rfl <;> rfl

theorem getB_one_of_within {n : Nat} (h : within 2 3 n) : getB 1 n = true := by
  obtain rfl | rfl : n = 2 ∨ n = 3 := by omega
  · rfl
  · rfl

/-- The part once a swath has taken its channel, bar and ports, and with `take` the reference from the others (R154). -/
def swathDefined (d : Dev) (p : Packet) (w : Fin 16) (take : Bool) : Dev :=
  ({ d with
    swaths := if take then vall (fun (y : Swath) => { y with reference := false }) d.swaths else d.swaths } : Dev).modSwath w
      fun y => { y with
        defined := true, reference := y.reference || take, channel := Fin.ofNat 4 (par p 1 1)
        barOffset := BitVec.ofNat 32 (par p 4 4), portMap := BitVec.ofNat 112 (par p 8 14)
        state := if y.defined then y.state else 1 }

section
variable {w : Fin 16} (hw : par p 0 1 = w.val) (hch : within 0 3 (par p 1 1))
  (hzero : reservedZero p 3 1) (hzero' : reservedZero p 22 2) (hroom : replyFits p x.macRequired 4 = true)
  (hbusy : s.dev.swathBusy w = false)
include hw hch hzero hzero' hroom hbusy

theorem swathDefineCmd_of_map (hflags : par p 2 1 ≤ 1) (hmap : par p 8 14 ≠ 0)
    (hpresent : s.dev.mapPresent (par p 8 14) = true)
    (hports : ∀ gp : Fin 112, (par p 8 14).testBit gp.val = true →
      s.dev.swathOf gp.val = none ∨ s.dev.swathOf gp.val = some w) :
    ∃ d, d = swathDefined s.dev p w (getB 0 (par p 2 1) || !((fins 16).any fun k => s.dev.swaths[k].reference))
      ∧ swathDefineCmd ⟨s, p, x⟩ = .ok (d.refreshRates, .ok (leBytes 4 (d.swathHz w))) := by
  have hrange := fieldRange_of_eq hw
  obtain rfl := ofNat_of_eq_val hw
  have hflags' : within 0 3 (par p 2 1) := by omega
  have hclear := getB_one_of_le hflags
  have hmap' : ((par p 8 14 == 0) == false && s.dev.mapPresent (par p 8 14)) = true := by
    rw [hpresent, beq_eq_false_iff_ne.mpr hmap]; rfl
  have hidle : (!s.dev.swathBusy (Fin.ofNat 16 (par p 0 1))) = true := by rw [hbusy]; rfl
  refine ⟨_, rfl, ?_⟩
  simp only [swathDefineCmd, hrange, needRange_of hch, needRange_of hflags', hclear, needZero_of hzero, needP_of hmap',
    needZero_of hzero', needRoom_of hroom, needFree_of hidle]
  rw [needFree_of]
  · rfl
  · rw [List.all_eq_true]
    intro gp _
    cases hbit : (par p 8 14).testBit gp.val with
    | false => rfl
    | true =>
      split
      · next k hk =>
        have := (hports gp hbit).resolve_left (by rw [hk]; simp)
        rw [hk] at this
        simpa using this
      · rfl

theorem swathDefineCmd_of_clear (hflags : within 2 3 (par p 2 1)) (hmap : par p 8 14 = 0)
    (hothers : s.dev.swaths[w].reference = false ∨ (∀ k : Fin 16, k ≠ w → s.dev.swaths[k].defined = false)) :
    swathDefineCmd ⟨s, p, x⟩ = .ok ((s.dev.modSwath w fun y => { epoch := y.epoch, gens := y.gens }).refreshRates,
      .ok (leBytes 4 0)) := by
  have hrange := fieldRange_of_eq hw
  obtain rfl := ofNat_of_eq_val hw
  have hflags' : within 0 3 (par p 2 1) := by omega
  have hclear := getB_one_of_within hflags
  have hidle : (!s.dev.swathBusy (Fin.ofNat 16 (par p 0 1))) = true := by rw [hbusy]; rfl
  have hlast : (!(true && s.dev.swaths[Fin.ofNat 16 (par p 0 1)].reference
      && (fins 16).any fun k => k != Fin.ofNat 16 (par p 0 1) && s.dev.swaths[k].defined)) = true := by
    rcases hothers with href | hundef
    · rw [href]; rfl
    · refine not_and_of_imp fun _ => List.any_eq_false.mpr fun k _ => ?_
      simpa using hundef k
  have hmap' : ((par p 8 14 == 0) == true && s.dev.mapPresent (par p 8 14)) = true := by
    rw [hmap]; simp [Dev.mapPresent]
  simp only [swathDefineCmd, hrange, needRange_of hch, needRange_of hflags', hclear, needP_of hlast, needZero_of hzero,
    needP_of hmap', needZero_of hzero', needRoom_of hroom, needFree_of hidle]
  rw [needFree_of]
  · rfl
  · rw [List.all_eq_true]
    intro gp _
    have hbit : (par p 8 14).testBit gp.val = false := by rw [hmap, Nat.zero_testBit]
    rw [hbit]
    rfl

end

/-! ## Contexts -/

theorem jobWriteCmd_of_range (hzero : reservedZero p 1 1) (hoff : within 0 8191 (par p 2 2))
    (hend : par p 2 2 + ((pktParams p).length - 4) ≤ 8192) (huse : s.dev.ctxInUse (par p 0 1) = false) :
    ∃ r, r = putRange s.dev s.mem (ctxBase (par p 0 1) + par p 2 2) ((pktParams p).drop 4)
      ∧ jobWriteCmd ⟨s, p, x⟩ = .ok (r.1, r.2, .ok []) := by
  have hfree : (!s.dev.ctxInUse (par p 0 1)) = true := by rw [huse]; rfl
  refine ⟨_, rfl, ?_⟩
  simp only [jobWriteCmd, needZero_of hzero, needRange_of hoff, need_of (decide_eq_true hend), needFree_of hfree]
  rfl

theorem jobReadCmd_of_range (hzero : reservedZero p 1 1) (hoff : within 0 8191 (par p 2 2))
    (hcount : within 1 4060 (par p 4 2)) (hend : par p 2 2 + par p 4 2 ≤ 8192)
    (hroom : replyFits p x.macRequired (par p 4 2) = true) :
    ∃ r, r = hostRead s.dev s.mem (ctxBase (par p 0 1) + par p 2 2) (par p 4 2)
      ∧ jobReadCmd ⟨s, p, x⟩ = .ok (r.1, .ok r.2) := by
  refine ⟨_, rfl, ?_⟩
  simp only [jobReadCmd, needZero_of hzero, needRange_of hoff, needRange_of hcount, need_of (decide_eq_true hend),
    needRoom_of hroom]
  rfl

/-! ## JOB_SWITCH -/

/-- The device in which a JOB_SWITCH has read its context, whose words ECC has corrected (R417). -/
abbrev ctxRead (s : State) (p : Packet) : Dev := s.dev.ceIn (ctxBase (par p 0 1)) 8192

/-- A context with a word that ECC cannot correct is refused at the field of the job (R156, R417). -/
theorem jobSwitchCmd_of_badWords {k : Nat × Nat × Nat} {ks : List (Nat × Nat × Nat)}
    (hbad : (ctxRead s p).badWordsIn (ctxBase (par p 0 1)) 8192 = k :: ks) :
    jobSwitchCmd ⟨s, p, x⟩ = .ok ((ctxRead s p).ueIn (ctxBase (par p 0 1)) 8192, .status stBadParam 24) := by
  simp only [jobSwitchCmd, hbad]
  rfl

section
variable {d : Dev} {bs : List Byte} {ref : Fin 16} {now asked used : Nat} {runs : List (Fin 16 × Run)} {a : Armed}

theorem jobSwitchCmd_of_valid (hbs : bs = s.mem.bytes (ctxBase (par p 0 1)) 8192) (hd : d = ctxRead s p)
    (hbad : d.badWordsIn (ctxBase (par p 0 1)) 8192 = []) (href : d.refSwath = some ref)
    (hvalid : d.ctxValid (d.sound s.mem) bs (par p 0 1) ref = true) (hasap : within 0 1 (par p 1 1))
    (hzero : reservedZero p 3 1) (hnow : now = (d.pos.enc[d.swaths[ref].channel].copies[0]).ext)
    (hasked : asked = extPos (BitVec.ofNat 8 (par p 2 1)) (BitVec.ofNat 32 (par p 4 4)))
    (hfar : diff40 asked now ≤ 0x7FFFFFFF) (hroom : replyFits p x.macRequired 4 = true) (harmed : d.armed = none)
    (hactive : d.jobActive (par p 0 1) = false)
    (hruns : runs = (ctxSwaths bs).map fun k => (k, entryRun bs (par p 0 1) k))
    (hused : used = if par p 1 1 = 1 then d.asapBoundary ref now asked (d.switching runs) else asked)
    (hahead : par p 1 1 = 1 ∨ (0 ≤ diff40 used now ∧ ∀ y ∈ d.switching runs,
      tooNear 8 (d.ratioFor y.1 y.2) (d.switchPos used y.1) now = false))
    (ha : (d.arm (par p 0 1) used runs).armed = some a) :
    jobSwitchCmd ⟨s, p, x⟩ = .ok (d.arm (par p 0 1) used runs,
      if a.waitAck = [] then .ok (leBytes 4 used) else .park (.arming (par p 0 1))) := by
  have hfree : (d.armed.isNone && !d.jobActive (par p 0 1)) = true := by rw [harmed, hactive]; rfl
  have htime : (par p 1 1 == 1 || decide (0 ≤ diff40 used now)) = true := by
    simpa using hahead.imp_right And.left
  have hlines : (par p 1 1 == 1 || !(d.switching runs).any fun y =>
      tooNear 8 (d.ratioFor y.1 y.2) (d.switchPos used y.1) now) = true := by
    simpa using hahead.imp_right And.right
  have hctx : needP (d.ctxValid (State.banks { s with dev := d }) bs (par p 0 1) ref) 0 = .ok () := needP_of hvalid
  have hroom' : (Ctx.mk { s with dev := d } p x).needRoom 4 noField = .ok () := needRoom_of hroom
  -- `bs` and `d` stay names: unfolded, the 8,192 bytes of the context are too many for `simp`
  subst hnow hasked hruns
  simp only [jobSwitchCmd, ← hd, ← hbs, hbad, href, beq_iff_eq, ← hused, hctx, needRange_of hasap, needZero_of hzero,
    needP_of (decide_eq_true hfar), hroom', needFree_of hfree, need_of htime, need_of hlines, ha]
  cases a.waitAck with
  | nil => rfl
  | cons f fs => rfl

end

/-! ## JOB_CANCEL, JOB_STATUS -/

theorem jobDisarmCmd_of_armed {a : Armed} (ha : s.dev.armed = some a) (hjob : a.job = par p 0 1)
    (hnone : a.toSwitch.length = a.swaths.length) : jobDisarmCmd ⟨s, p, x⟩ = .ok (s.dev.disarmKeep, .ok []) := by
  have hjob' : decide (a.job = par p 0 1) = true := decide_eq_true hjob
  have harmed : (Ctx.mk s p x).d.armed = some a := ha
  simp only [jobDisarmCmd, harmed, needP_of hjob', need_of (decide_eq_true hnone)]
  rfl

/-- Every swath that prints a job is to end it at its next line boundary (R157). -/
def endJob (d : Dev) (job : Nat) : Dev :=
  (fins 16).foldl (fun e k => if e.swaths[k].state = 2 && e.swaths[k].job = job then e.endSwath k else e) d

theorem jobEndCmd_of_printing {d : Dev} (hprint : s.dev.printing (par p 0 1) = true)
    (hd : d = endJob (if ∃ a, s.dev.armed = some a ∧ a.job = par p 0 1 then s.dev.disarmKeep else s.dev) (par p 0 1)) :
    jobEndCmd ⟨s, p, x⟩ = .ok (d, if d.printing (par p 0 1) then .park (.jobEnd (par p 0 1)) else .ok []) := by
  simp only [hd, jobEndCmd, needP_of hprint]
  split
  · next a ha =>
    have harmed : s.dev.armed = some a := ha
    simp only [harmed, Option.some.injEq, exists_eq_left']
    rfl
  · next hnone =>
    have harmed : s.dev.armed = none := hnone
    simp only [harmed, reduceCtorEq, false_and, exists_false, if_false]
    rfl

end

/-- The reply of Table 6.12: the active job, the armed one with its boundary, and the lines each swath has fired. -/
def jobReply (d : Dev) : List Byte :=
  leBytes 2 (d.activeJob.getD 0xFFFF)
    ++ (match d.armed with
      | some a => leBytes 2 a.job ++ leBytes 4 a.boundary.toNat
      | none => leBytes 2 0xFFFF ++ leBytes 4 0)
    ++ (fins 16).flatMap fun k => leBytes 4 (d.linesOf k)

theorem jobReply_length (d : Dev) : (jobReply d).length = 72 := by
  cases h : d.armed <;> simp [jobReply, h, List.length_flatMap, fins]

/-- Settles O45: the bodies' checks are met; JOB_SWITCH and the end of a job are answered at once, or when what they wait
for has come. -/
theorem jobCommandsComplete : Obligations.JobCommandsComplete := by
  refine ⟨?define, ?clear, ?write, ?read, ?switch, ?badContext, ?disarm, ?cancel, ?status⟩
  case define =>
    intro s p x w take d h hw hch hflags hzero hmap hpresent hzero' hroom hbusy hports htake hd
    obtain ⟨_, hd', hbody⟩ :=
      swathDefineCmd_of_map hw hch hzero hzero' hroom hbusy hflags hmap hpresent hports
    subst htake
    obtain rfl := hd'.trans hd.symm
    exact onDev_ok h.1 hbody (by simpa using hroom)
  case clear =>
    exact fun s p x w h hw hch hflags hzero hmap hzero' hroom hbusy hothers =>
      onDev_ok h.1 (swathDefineCmd_of_clear hw hch hzero hzero' hroom hbusy hflags hmap hothers) (by simpa using hroom)
  case write =>
    intro s p x r h hzero hoff hend huse hr
    obtain ⟨_, rfl, hbody⟩ := jobWriteCmd_of_range hzero hoff hend huse
    exact hr ▸ onMem_ok h.1 hbody h.2
  case read =>
    intro s p x r h hzero hoff hcount hend hroom hr
    obtain ⟨_, rfl, hbody⟩ := jobReadCmd_of_range hzero hoff hcount hend hroom
    exact hr ▸ onDev_ok h.1 hbody (by rwa [hostRead_length])
  case switch =>
    intro s p x d bs ref now asked used runs a h hbs hd hbad href hvalid hasap hzero hnow hasked hfar hroom harmed
      hactive hruns hused hahead ha
    have hbody := jobSwitchCmd_of_valid hbs hd hbad href hvalid hasap hzero hnow hasked hfar hroom harmed hactive hruns
      hused hahead ha
    by_cases hack : a.waitAck = []
    · rw [if_pos hack] at hbody ⊢
      exact onDev_ok h.1 hbody (by simpa using hroom)
    · rw [if_neg hack] at hbody ⊢
      exact onDev_finish h hbody rfl
  case badContext =>
    intro s p x d k ks h hd hbad
    subst hd
    exact onDev_finish h (jobSwitchCmd_of_badWords hbad) rfl
  case disarm =>
    exact fun s p x a h ha hjob hnone => onDev_ok h.1 (jobDisarmCmd_of_armed ha hjob hnone) h.2
  case cancel =>
    intro s p x d h hprint hd
    have hbody := jobEndCmd_of_printing (x := x) hprint hd
    by_cases hstill : d.printing (par p 0 1) = true
    · rw [if_pos hstill] at hbody ⊢
      exact onDev_finish h hbody rfl
    · rw [if_neg hstill] at hbody ⊢
      exact onDev_ok h.1 hbody h.2
  case status =>
    intro s p x h hroom
    have hbody : jobStatusCmd ⟨s, p, x⟩ = .ok (s.dev, .ok (jobReply s.dev)) := rfl
    have hfits : replyFits p x.macRequired (jobReply s.dev).length = true := by rwa [jobReply_length]
    exact onDev_ok h.1 hbody hfits

end Sys2Proof.Laws
end

section
/-! SUPPORT. PORT_CONFIG, PORT_ENABLE, WAVE_WRITE, HEAT_CONFIG, PULSE_AUX and PORT_STATUS (R158 to R161, R244, R260, R274,
R276): what each body does once its checks hold. -/

namespace Sys2Proof.Laws

open Machine

/-- The reply of Table 6.17. -/
def portReply (d : Dev) (gp : Fin 112) : List Byte :=
  leBytes 1 (d.portState gp) ++ leBytes 1 d.ports[gp].heat.band.toNat ++ leBytes 2 (sfld 0 16 d.ports[gp].heat.temp)
    ++ leBytes 4 d.ports[gp].tmin ++ leBytes 4 d.ports[gp].underruns ++ leBytes 4 d.ports[gp].drops
    ++ leBytes 8 (if d.ports[gp].headValid then d.ports[gp].headId.toNat else 0) ++ leBytes 4 d.ports[gp].lines.toNat

section
variable {p : Packet} {x : Session} {s : State} {gp : Fin 112}

/-- The geometry PORT_CONFIG gives a port (Table 6.13). -/
def portGeometry (p : Packet) (y : Port) : Port :=
  { y with
    group := par p 1 1 == 1, blocks := BitVec.ofNat 8 (par p 2 2 / 64), addrM1 := BitVec.ofNat 6 (par p 4 1 - 1)
    rotStep := BitVec.ofNat 6 (par p 5 1), phases := BitVec.ofNat 2 (par p 6 1)
    slotGap := BitVec.ofNat 10 (par p 8 2), stagger := BitVec.ofNat 16 (par p 10 2) }

/-! ## Wave entries and printing ports -/

theorem needPulses_of : ∀ {n off : Nat}, (∀ i < n, within 1 3 (par p (off + 8 * i + 6) 2)) →
    needPulses (pktParams p) off n = .ok ()
  | 0, _, _ => rfl
  | n + 1, off, h => by
    have hfirst : within 1 3 (par p (off + 6) 2) := h 0 (by omega)
    have hrest : ∀ i < n, within 1 3 (par p (off + 8 + 8 * i + 6) 2) := fun i hi => by
      have := h (i + 1) (by omega)
      rwa [show off + 8 * (i + 1) + 6 = off + 8 + 8 * i + 6 by omega] at this
    rw [needPulses, needRange_of hfirst, needPulses_of hrest]
    rfl

theorem portPrints_of_idle (h : ∀ w, s.dev.swathOf gp.val = some w →
    s.dev.swaths[w].state ≠ 2 ∧ s.dev.swaths[w].state ≠ 3) : s.dev.portPrints gp = false := by
  unfold Dev.portPrints
  split
  · next w hw => simpa using h w hw
  · rfl

section
variable (hgp : par p 0 1 = gp.val) (hport : s.dev.hasPort gp.val = true)
include hgp hport

/-! ## PORT_CONFIG -/

theorem portConfigCmd_of_free (hgroup : within 0 1 (par p 1 1)) (hnozzles : within 64 10240 (par p 2 2))
    (hblock : par p 2 2 % 64 = 0) (haddr : within 1 64 (par p 4 1)) (hbanks : par p 4 1 % s.dev.ports[gp].nBanks = 0)
    (hrot : par p 5 1 < par p 4 1) (hphases : within 1 3 (par p 6 1)) (hzero : reservedZero p 7 1)
    (hgap : within 0 1000 (par p 8 2)) (hroom : replyFits p x.macRequired 8 = true)
    (huse : s.dev.portInUse gp.val = false) (hoff : s.dev.ports[gp].on = false) :
    ∃ d : Dev, d = (s.dev.modPort gp (portGeometry p)).newTmin s.mem gp
      ∧ portConfigCmd ⟨s, p, x⟩ = .ok (d, .ok (leBytes 4 d.ports[gp].tmin ++ leBytes 4 (d.portHz d.ports[gp]))) := by
  have hfree : (!s.dev.portInUse gp.val && !s.dev.ports[gp].on) = true := by rw [huse, hoff]; rfl
  refine ⟨_, rfl, ?_⟩
  simp only [portConfigCmd, needPort_of hgp hport, bind, Except.bind, needRange_of hgroup, needRange_of hnozzles,
    needP_of (beq_iff_eq.mpr hblock), needRange_of haddr, needP_of (beq_iff_eq.mpr hbanks),
    needP_of (decide_eq_true hrot), needRange_of hphases, needZero_of hzero, needRange_of hgap, needRoom_of hroom,
    needFree_of hfree]
  rfl

/-! ## PORT_ENABLE -/

/-- Enable 0 turns off a port that is enabled, or whose HPEN head discovery has left high, and no other (R276). -/
theorem portEnableCmd_of_zero (hzero : par p 1 1 = 0) :
    portEnableCmd ⟨s, p, x⟩ =
      if s.dev.ports[gp].on = false ∧ s.dev.ports[gp].powered = false then .ok (s.dev, .ok [])
      else do
        needFree (!s.dev.portInUse gp.val && s.dev.ports[gp].scan.state == 0)
        return (s.dev.portOff gp, .ok []) := by
  have hon : (par p 1 1 == 1) = false := by rw [hzero]; rfl
  have hrange : within 0 1 (par p 1 1) := by omega
  have hoff : needP (!false || (s.dev.ports[gp].heat.tsnValid && s.dev.ports[gp].configured)) 0 = .ok () := needP_of rfl
  simp only [portEnableCmd, needPort_of hgp hport, hon, bind, Except.bind, hoff, needRange_of hrange]
  cases hen : s.dev.ports[gp].on <;> cases s.dev.ports[gp].powered <;> rfl

/-- Enable 1 turns on a port that is ready for it and not on already (R159, R244). -/
theorem portEnableCmd_of_one (hone : par p 1 1 = 1) (htsn : s.dev.ports[gp].heat.tsnValid = true)
    (hconf : s.dev.ports[gp].configured = true) :
    portEnableCmd ⟨s, p, x⟩ =
      .ok (if s.dev.ports[gp].on = true then s.dev else s.dev.portOn gp, .ok []) := by
  have hon : (par p 1 1 == 1) = true := by rw [hone]; rfl
  have hrange : within 0 1 (par p 1 1) := by omega
  have hready : (!true || (s.dev.ports[gp].heat.tsnValid && s.dev.ports[gp].configured)) = true := by
    rw [htsn, hconf]; rfl
  simp only [portEnableCmd, needPort_of hgp hport, hon, bind, Except.bind, needP_of hready, needRange_of hrange]
  cases s.dev.ports[gp].on <;> rfl

/-! ## WAVE_WRITE -/

theorem waveWriteCmd_of_free (hset : within 0 3 (par p 1 1)) (hfirst : within 0 63 (par p 2 1))
    (hcount : within 1 64 (par p 3 1)) (hpulses : ∀ i < par p 3 1, within 1 3 (par p (4 + 8 * i + 6) 2))
    (hend : par p 2 1 + par p 3 1 ≤ 64) (huse : s.dev.waveInUse gp.val (par p 1 1) = false) {r : Dev × Banks}
    (hr : r = putRange s.dev s.mem (waveAddr gp.val (par p 1 1) (par p 2 1)) ((pktParams p).drop 4))
    (htmin : r.2.tminOf gp.val s.dev.ports[gp] ≤ s.dev.ports[gp].tmin ∨
      (∀ w, s.dev.swathOf gp.val = some w → s.dev.swaths[w].state ≠ 2 ∧ s.dev.swaths[w].state ≠ 3)) :
    waveWriteCmd ⟨s, p, x⟩ = .ok (r.1.newTmin r.2 gp, r.2, .ok []) := by
  have hfree : (!s.dev.waveInUse gp.val (par p 1 1)) = true := by rw [huse]; rfl
  have hslow : (!(s.dev.portPrints gp && decide (s.dev.ports[gp].tmin < r.2.tminOf gp.val s.dev.ports[gp]))) = true := by
    refine not_and_of_imp fun hprint => decide_eq_false (Nat.not_lt.mpr (htmin.resolve_right fun hidle => ?_))
    rw [portPrints_of_idle hidle] at hprint
    cases hprint
  simp only [waveWriteCmd, needPort_of hgp hport, bind, Except.bind, needRange_of hset, needRange_of hfirst,
    needRange_of hcount, needPulses_of hpulses, need_of (decide_eq_true hend), needFree_of hfree, ← hr,
    needFree_of hslow]
  rfl

/-! ## HEAT_CONFIG, PULSE_AUX, PORT_STATUS -/

theorem heatConfigCmd_of_order (haction : within 0 2 (par p 1 1)) (hbase : -400 ≤ parI p 2 2 ∧ parI p 2 2 ≤ 1250)
    (hwarm : -400 ≤ parI p 4 2 ∧ parI p 4 2 ≤ 1250) (hhot : -400 ≤ parI p 6 2 ∧ parI p 6 2 ≤ 1250)
    (hcrit : -400 ≤ parI p 8 2 ∧ parI p 8 2 ≤ 1250) (h1 : parI p 4 2 < parI p 6 2) (h2 : parI p 6 2 < parI p 8 2)
    (hhyst : within 0 200 (par p 10 2)) :
    heatConfigCmd ⟨s, p, x⟩ = .ok ((s.dev.modPort gp fun y => { y with heat := { y.heat with
      hotAction := BitVec.ofNat 2 (par p 1 1), bandBase := parI p 2 2, warm := parI p 4 2, hotTh := parI p 6 2
      critTh := parI p 8 2, hyst := par p 10 2, fresh := true } }).refreshRates, .ok []) := by
  simp only [heatConfigCmd, needPort_of hgp hport, bind, Except.bind, needRange_of haction, needRangeI_of hbase,
    needRangeI_of hwarm, needRangeI_of hhot, needP_of (decide_eq_true h1), needRangeI_of hcrit,
    needP_of (decide_eq_true h2), needRange_of hhyst]
  rfl

theorem pulseAuxCmd_of_range (hkeep : within 0 1 (par p 1 1)) (hns : within 1 1000 (par p 2 2))
    (hpattern : within 0 7 (par p 4 1)) (hzero : reservedZero p 5 1) (hheadland : within 20 1000 (par p 6 2)) :
    pulseAuxCmd ⟨s, p, x⟩ = .ok (s.dev.modPort gp fun y => { y with heat := { y.heat with
      keepWarm := par p 1 1 == 1, keepWarmNs := BitVec.ofNat 10 (par p 2 2)
      spitPattern := BitVec.ofNat 3 (par p 4 1), headlandMinUs := BitVec.ofNat 10 (par p 6 2) } }, .ok []) := by
  simp only [pulseAuxCmd, needPort_of hgp hport, bind, Except.bind, needRange_of hkeep, needRange_of hns,
    needRange_of hpattern, needZero_of hzero, needRange_of hheadland]
  rfl

theorem portStatusCmd_of_port : portStatusCmd ⟨s, p, x⟩ = .ok (s.dev, .ok (portReply s.dev gp)) := by
  rw [portStatusCmd, needPort_of hgp hport]
  rfl

end

end

/-- Settles O47: the checks are met; what Enable asks for and what the port already is decide PORT_ENABLE. -/
theorem portCommandsComplete : Obligations.PortCommandsComplete := by
  refine ⟨?config, ?enable, ?wave, ?heat, ?pulse, ?status⟩
  case config =>
    intro s p x gp h hgp hport hgroup hnozzles hblock haddr hbanks hrot hphases hzero hgap hroom huse hoff
    obtain ⟨d, hd, hbody⟩ := portConfigCmd_of_free hgp hport hgroup hnozzles hblock haddr hbanks hrot hphases hzero hgap
      hroom huse hoff
    exact ⟨d, hd, onDev_ok h.1 hbody (by simpa using hroom)⟩
  case enable =>
    intro s p x gp h hgp hport
    refine ⟨fun hone htsn hconf hoff => ?_, fun hzero hpowered huse hscan => ?_, fun hzero hoff hunpowered => ?_,
      fun hone htsn hconf hon => ?_⟩
    · refine onDev_ok h.1 ((portEnableCmd_of_one hgp hport hone htsn hconf).trans ?_) h.2
      rw [if_neg (Bool.eq_false_iff.mp hoff)]
    · have hfree : (!s.dev.portInUse gp.val && s.dev.ports[gp].scan.state == 0) = true := by rw [huse, hscan]; rfl
      have hwas : ¬(s.dev.ports[gp].on = false ∧ s.dev.ports[gp].powered = false) := fun ⟨hoff, hunpowered⟩ =>
        hpowered.elim (Bool.eq_false_iff.mp hoff) (Bool.eq_false_iff.mp hunpowered)
      refine onDev_ok h.1 ((portEnableCmd_of_zero hgp hport hzero).trans ?_) h.2
      rw [if_neg hwas, needFree_of hfree]
      rfl
    · exact onDev_ok h.1 ((portEnableCmd_of_zero hgp hport hzero).trans (if_pos ⟨hoff, hunpowered⟩)) h.2
    · refine onDev_ok h.1 ((portEnableCmd_of_one hgp hport hone htsn hconf).trans ?_) h.2
      rw [if_pos hon]
  case wave =>
    exact fun s p x gp r h hgp hport hset hfirst hcount hpulses hend huse hr htmin =>
      onMem_ok h.1 (waveWriteCmd_of_free hgp hport hset hfirst hcount hpulses hend huse hr htmin) h.2
  case heat =>
    exact fun s p x gp h hgp hport haction hbase hwarm hhot hcrit h1 h2 hhyst =>
      onDev_ok h.1 (heatConfigCmd_of_order hgp hport haction hbase hwarm hhot hcrit h1 h2 hhyst) h.2
  case pulse =>
    exact fun s p x gp h hgp hport hkeep hns hpattern hzero hheadland =>
      onDev_ok h.1 (pulseAuxCmd_of_range hgp hport hkeep hns hpattern hzero hheadland) h.2
  case status =>
    intro s p x gp y h hgp hport hy hroom
    subst hy
    exact onDev_ok h.1 (portStatusCmd_of_port hgp hport) (by simpa [portReply] using hroom)

end Sys2Proof.Laws
end

section
/-! SUPPORT. ENC_CONFIG, ENC_READ, ENCOUT_CONFIG and ENC_PRESET, and the rows that finish them, ENC_MODE_CHANGE and
PRESET_OFFSET (R168, R169, R310, R313, R323, R325, R326). -/

namespace Sys2Proof.Laws

open Machine

/-- The reply of Table 6.21. -/
def encReply (c : EncCopy) : List Byte :=
  leBytes 4 c.count.toNat ++ leBytes 1 c.wrap.toNat
    ++ leBytes 1 (fld 0 1 (bit c.dir) + fld 1 1 (bit c.indexSeen) + fld 2 1 (bit c.unreferenced) + fld 3 1 (bit c.sincosAmp))
    ++ [0, 0] ++ leBytes 4 (satInt32 (roundAway c.v)).toNat ++ leBytes 4 (satInt32 (roundAway c.acc)).toNat
    ++ leBytes 8 c.ts.toNat

section
variable {p : Packet} {x : Session} {s : State} {ch : Fin 4}

theorem needEnc_of (hch : par p 0 1 = ch.val) : (Ctx.mk s p x).needEnc = .ok ch := by
  have hlt : par p 0 1 < 4 := hch ▸ ch.isLt
  obtain rfl : ⟨par p 0 1, hlt⟩ = ch := Fin.ext hch
  exact dif_pos hlt

/-! ## ENC_CONFIG -/

/-- Two changes of a channel that agree on what it is now are one. -/
theorem modEnc_congr {d : Dev} {f g : Enc → Enc} (h : f d.pos.enc[ch] = g d.pos.enc[ch]) : d.modEnc ch f = d.modEnc ch g := by
  simp only [Dev.modEnc, vmod, h]

/-- The configuration that ENC_CONFIG asks for (Table 6.20). -/
def askedEnc (p : Packet) : EncCfg := {
  mode := BitVec.ofNat 3 (par p 1 1), term := par p 2 1 == 1, winN := BitVec.ofNat 8 (par p 3 1)
  interp := BitVec.ofNat 13 (par p 4 2), bandwidth := BitVec.ofNat 13 (par p 6 2)
  winLo := BitVec.ofNat 12 (par p 8 2), winHi := BitVec.ofNat 12 (par p 10 2) }

/-- A configuration waits for the mode change when it brings a new Mode or Interp, or follows one that does (R326). -/
def encWaits (e : Enc) (g : EncCfg) : Bool := e.nextCfg.isSome || g.mode != e.cfg.mode || g.interp != e.cfg.interp

theorem encWaits_iff {e : Enc} {g : EncCfg} :
    encWaits e g = true ↔ e.nextCfg.isSome = true ∨ g.mode ≠ e.cfg.mode ∨ g.interp ≠ e.cfg.interp := by
  simp [encWaits, or_assoc]

/-- A channel whose Mode and Interp stay as they are until the mode change, and every other field is the new one. -/
def keepsMode (g : EncCfg) (next : Option EncCfg) (y : Enc) : Enc :=
  { y with cfg := { g with mode := y.cfg.mode, interp := y.cfg.interp }, nextCfg := next }

section
variable (hch : par p 0 1 = ch.val)
include hch

theorem encConfigCmd_of_range (hmode : within 0 4 (par p 1 1)) (hterm : within 0 1 (par p 2 1))
    (hwin : within 1 255 (par p 3 1)) (hinterp : within 1 4096 (par p 4 2)) (hband : within 50 5000 (par p 6 2))
    (hlo : within 1 4095 (par p 8 2)) (hhi : within 2 4095 (par p 10 2)) (horder : par p 8 2 < par p 10 2)
    (hzero : reservedZero p 12 4) (huse : s.dev.encInUse ch = false) {w : Bool}
    (hw : encWaits s.dev.pos.enc[ch] (askedEnc p) = w) :
    encConfigCmd ⟨s, p, x⟩ = .ok (s.dev.modEnc ch (keepsMode (askedEnc p) (if w then some (askedEnc p) else none)),
      if w then .park (.encMode ch) else .ok []) := by
  subst hw
  have hfree : (!s.dev.encInUse ch) = true := by rw [huse]; rfl
  simp only [encConfigCmd, needEnc_of hch, bind, Except.bind, needRange_of hmode, needRange_of hterm, needRange_of hwin,
    needRange_of hinterp, needRange_of hband, needRange_of hlo, needRange_of hhi, needP_of (decide_eq_true horder),
    needZero_of hzero, needFree_of hfree]
  rfl

/-! ## ENC_READ, ENCOUT_CONFIG -/

theorem encReadCmd_of_channel : encReadCmd ⟨s, p, x⟩ = .ok (s.dev, .ok (encReply (s.dev.hub ch))) := by
  rw [encReadCmd, needEnc_of hch]
  rfl

end

theorem encoutConfigCmd_of_output {o : Fin 4} (ho : par p 0 1 = o.val) (hch : par p 1 1 = ch.val)
    (hdiv : within 1 256 (par p 2 2)) (hen : within 0 1 (par p 4 1)) (hzero : reservedZero p 5 3) :
    encoutConfigCmd ⟨s, p, x⟩ = .ok ((s.dev.modPos fun y => { y with
      out := vmod y.out o fun _ => { s.dev.pos.out[o] with
        source := ch, enable := par p 4 1 == 1, divider := BitVec.ofNat 9 (par p 2 2)
        origin := s.dev.outCount ch } }).outputs ch, .ok []) := by
  have hlt : par p 0 1 < 4 := ho ▸ o.isLt
  have hlt' : par p 1 1 < 4 := hch ▸ ch.isLt
  obtain rfl : ⟨par p 0 1, hlt⟩ = o := Fin.ext ho
  obtain rfl : ⟨par p 1 1, hlt'⟩ = ch := Fin.ext hch
  simp only [encoutConfigCmd, dif_pos hlt, dif_pos hlt', needRange_of hdiv, needRange_of hen, needZero_of hzero]
  rfl

/-! ## ENC_PRESET -/

/-- The offset a preset asks for: from the hub's count to the position named, modulo 2^40 (R325). -/
def presetOff (d : Dev) (p : Packet) (ch : Fin 4) : Nat :=
  (extPos (BitVec.ofNat 8 (par p 1 1)) (BitVec.ofNat 32 (par p 4 4)) + 2 ^ 40 - (d.hub ch).ext) % 2 ^ 40

/-- The furrow dies that a preset goes to. -/
def presetDies (d : Dev) : List (Fin 7) := (fins 7).filter fun f => d.hasDie f.val

/-- The part once a preset has shifted the hub's copy and the runs of its channel and has been sent to the dies (R325). -/
def presetSent (d : Dev) (ch : Fin 4) (off : Nat) : Dev :=
  (presetDies d).foldl (fun d f => d.modDie f fun x => x.sendCtrl false (.preset ch))
    (((d.modCopy ch 0 fun c => c.preset (d.pos.enc[ch].cfg.mode == 4) off).outputs ch).shiftRuns ch off)

theorem encPresetCmd_of_free (hch : par p 0 1 = ch.val) (hzero : reservedZero p 2 2) (huse : s.dev.encInUse ch = false) :
    encPresetCmd ⟨s, p, x⟩ = if (presetDies s.dev).isEmpty then .ok (presetSent s.dev ch (presetOff s.dev p ch), .ok [])
      else .ok ((presetSent s.dev ch (presetOff s.dev p ch)).modEnc ch fun y => { y with
        presets := y.presets ++ [{ offset := BitVec.ofNat 40 (presetOff s.dev p ch), apply := presetDies s.dev }] },
          .park (.preset ch)) := by
  have hfree : (!s.dev.encInUse ch) = true := by rw [huse]; rfl
  simp only [encPresetCmd, needEnc_of hch, bind, Except.bind, needZero_of hzero, needFree_of hfree]
  rfl

end

/-! ## ENC_MODE_CHANGE, PRESET_OFFSET -/

section
variable {s : State} {ch : Fin 4}

theorem presetApply_of_waiting {d : Dev} {f : Fin 7} {z : Preset} {zs : List Preset}
    (hdue : d.pos.enc[ch].presets.filter (fun y => y.apply.contains f) = z :: zs)
    (hwait : zs.length < d.dies[f].ctrlWait.count (.preset ch)) : d.presetApply ch f = d := by
  simp only [Dev.presetApply, hdue]
  exact if_pos hwait

theorem presetApply_of_arrived {d : Dev} {f : Fin 7} {z : Preset} {zs : List Preset}
    (hdue : d.pos.enc[ch].presets.filter (fun y => y.apply.contains f) = z :: zs)
    (hcome : d.dies[f].ctrlWait.count (.preset ch) ≤ zs.length) :
    d.presetApply ch f = (((d.modCopy ch (copyOf f) fun c => c.preset (d.pos.enc[ch].cfg.mode == 4) z.offset.toNat).modDie f
      fun y => y.sendCtrl true (.presetAck ch)).modEnc ch fun y => { y with
        presets := modPreset (fun q => q.apply.contains f) (fun q => { q with
          apply := q.apply.filter (· != f)
          ack := if d.dies[f].ctrlCreditsUp = 0 then q.ack ++ [f] else q.ack }) y.presets }).presetDone ch
      d.pos.enc[ch].presets.length := by
  simp only [Dev.presetApply, hdue]
  rw [if_neg (by simpa using hcome)]
  simp only [Dev.sendUp, Dev.modCopy_dies, Dev.modCopy_pos, Fin.getElem_fin, vmod_same, bne_iff_ne, ne_eq, ite_not]

end

/-- Settles O50: a command is answered at once or parks, as a new Mode and the dies present decide; the row that finishes it
is its definition on the branch its conditions choose. -/
theorem encoderCommandsComplete : Obligations.EncoderCommandsComplete := by
  refine ⟨?config, ?modeChange, ?read, ?output, ?preset, ?offset⟩
  case config =>
    intro s p x ch e g h hch hmode hterm hwin hinterp hband hlo hhi horder hzero huse he hg
    replace hg : g = askedEnc p := hg
    subst he hg
    have hbody := fun w => encConfigCmd_of_range (x := x) hch hmode hterm hwin hinterp hband hlo hhi horder hzero huse (w := w)
    constructor
    · intro hnone hm hi
      have hw : encWaits s.dev.pos.enc[ch] (askedEnc p) = false := Bool.eq_false_iff.mpr fun hw => by
        rcases encWaits_iff.mp hw with hsome | hm' | hi'
        · rw [hnone] at hsome
          cases hsome
        · exact hm' hm
        · exact hi' hi
      refine onDev_ok h.1 ((hbody false hw).trans ?_) h.2
      rw [modEnc_congr (f := keepsMode (askedEnc p) _) (g := fun y => { y with cfg := askedEnc p, nextCfg := none })]
      · rfl
      · rw [keepsMode, ← hm, ← hi]
        rfl
    · intro hnew
      exact onDev_finish h (hbody true (encWaits_iff.mpr hnew)) rfl
  case modeChange =>
    intro s ch g was same d0 d1 d2 d3 hnext hcount hd0 hwas hsame hd1 hd2 hd3
    simp only [exec, execEncModeChange, onDev, Dev.encModeChange, hnext, hcount, ← hd0, ← hwas, ← hsame, ← hd1, ← hd2, ← hd3]
    rfl
  case read =>
    intro s p x ch c h hch hc hroom
    subst hc
    exact onDev_ok h.1 (encReadCmd_of_channel hch) (by simpa [encReply] using hroom)
  case output =>
    exact fun s p x o ch h ho hch hdiv hen hzero => onDev_ok h.1 (encoutConfigCmd_of_output ho hch hdiv hen hzero) h.2
  case preset =>
    intro s p x ch e off d0 d dies h hch hzero he huse hoff hd0 hdies hd
    have hsent : d = presetSent s.dev ch (presetOff s.dev p ch) := by rw [hd, hdies, hd0, hoff, he]; rfl
    have hbody := encPresetCmd_of_free (x := x) hch hzero huse
    rw [← hsent, show presetDies s.dev = dies from hdies.symm, show presetOff s.dev p ch = off from hoff.symm] at hbody
    cases dies with
    | nil => exact onDev_ok h.1 hbody h.2
    | cons f fs => exact onDev_finish h hbody rfl
  case offset =>
    intro s ch f e z zs d he hdue
    subst he
    refine ⟨fun hwait => ?_, fun hcome hd => ?_⟩
    · exact onDev_of_eq (g := fun s => s.dev.presetApply ch f) (presetApply_of_waiting hdue hwait)
    · exact onDev_of_eq (g := fun s => s.dev.presetApply ch f) (hd ▸ presetApply_of_arrived hdue hcome)

end Sys2Proof.Laws
end

section
/-! SUPPORT. TAX_CONFIG, TAX_ADVANCE, TAX_ENABLE, TAX_SPEED, TAX_MASTER, BUS_CONFIG and TAX_STATUS (R170 to R174, R337, R340,
R343, R348): what each body does once its checks hold. -/

namespace Sys2Proof.Laws

open Machine

/-- The reply of Table 6.23. -/
def taxReply (t : Tax) (b : Bus) : List Byte :=
  leBytes 1 t.state.toNat ++ leBytes 1 (fld 0 1 (bit t.capActive) + fld 1 1 (bit t.dutyClamp) + fld 2 1 (bit b.gate))
    ++ [0, 0] ++ leBytes 4 (rpmWord t.speed).toNat ++ leBytes 4 (rpmWord t.capped).toNat ++ leBytes 2 (mA16 t.iq)
    ++ leBytes 2 (mA16 t.id) ++ leBytes 2 b.code.toNat ++ [0, 0]

/-- The part with the thresholds of BUS_CONFIG in force, the bus out of LIMITED (R174, R348). -/
def busConfigured (d : Dev) (p : Packet) : Dev :=
  d.modBus fun b => { b with
    configured := true, brkOff := BitVec.ofNat 12 (par p 0 2), brkOn := BitVec.ofNat 12 (par p 2 2)
    ovWarn := BitVec.ofNat 12 (par p 4 2), ovTrip := BitVec.ofNat 12 (par p 6 2)
    state := if b.state = 2 then 0 else b.state
    regenLimit := b.regenLimit && b.state != 2
    runOn := 0, runOff := 0, runWarn := 0, runTrip := 0 }

section
variable {p : Packet} {x : Session} {s : State}

theorem busConfigCmd_of_order (htrip : within 0 4095 (par p 6 2)) (h1 : par p 0 2 < par p 2 2)
    (h2 : par p 2 2 < par p 4 2) (h3 : par p 4 2 < par p 6 2) (hoff : ∀ n : Fin 4, s.dev.mot.tax[n].on = false) :
    busConfigCmd ⟨s, p, x⟩ = .ok (if s.dev.mot.bus.state = 2 then (busConfigured s.dev p).causeGone 0x00B
      else busConfigured s.dev p, .ok []) := by
  have hr1 : within 0 4095 (par p 0 2) := by omega
  have hr2 : within 0 4095 (par p 2 2) := by omega
  have hr3 : within 0 4095 (par p 4 2) := by omega
  have hfree : ((fins 4).all fun n => !s.dev.mot.tax[n].on) = true :=
    List.all_eq_true.mpr fun n _ => by rw [hoff n]; rfl
  simp only [busConfigCmd, needRange_of hr1, needRange_of hr2, needP_of (decide_eq_true h1), needRange_of hr3,
    needP_of (decide_eq_true h2), needRange_of htrip, needP_of (decide_eq_true h3), needFree_of hfree]
  rfl

section
variable {n : Fin 4} (htax : s.dev.hasTax = true) (hn : par p 0 1 = n.val)
include htax hn

theorem needTax_of : (Ctx.mk s p x).needTax = .ok n := by
  have hlt : par p 0 1 < 4 := hn ▸ n.isLt
  obtain rfl : ⟨par p 0 1, hlt⟩ = n := Fin.ext hn
  rw [Ctx.needTax, needP_of htax]
  exact dif_pos hlt

theorem taxConfigCmd_of_off (hpoles : within 1 32 (par p 1 1)) (hsrc : within 0 4 (par p 2 1))
    (hcoast : within 0 1 (par p 3 1)) (hpwm : within 8000 40000 (par p 4 2)) (hdead : within 5 500 (par p 6 2))
    (hdeadPwm : 2 * par p 6 2 * par p 4 2 < 100000000) (htmin : within 200 5000 (par p 8 2))
    (htminPwm : 2 * par p 8 2 * par p 4 2 < 1000000000) (hrpm : within 1 30000 (par p 10 2))
    (hkp : within 0 0x7FFFFFFF (par p 12 4)) (hki : within 0 0x7FFFFFFF (par p 16 4))
    (haccel : within 1 1000000 (par p 20 4)) (hoff : s.dev.mot.tax[n].on = false) :
    taxConfigCmd ⟨s, p, x⟩ = .ok (s.dev.modTax n fun t => { t with
      configured := true, polePairs := par p 1 1, angleSrc := par p 2 1, coast := par p 3 1 == 1, pwmHz := par p 4 2
      deadTime := par p 6 2, tMinNs := par p 8 2, ratedRpm := par p 10 2, kp := par p 12 4, ki := par p 16 4
      accelMax := par p 20 4 }, .ok []) := by
  have hfree : (!s.dev.mot.tax[n].on) = true := by rw [hoff]; rfl
  simp only [taxConfigCmd, needTax_of htax hn, bind, Except.bind, needRange_of hpoles, needRange_of hsrc,
    needRange_of hcoast, needRange_of hpwm, needRange_of hdead, needP_of (decide_eq_true hdeadPwm), needRange_of htmin,
    needP_of (decide_eq_true htminPwm), needRange_of hrpm, needRange_of hkp, needRange_of hki, needRange_of haccel,
    needFree_of hfree]
  rfl

theorem taxAdvanceCmd_of_off (hzero : reservedZero p 1 1) (hoff : s.dev.mot.tax[n].on = false) :
    taxAdvanceCmd ⟨s, p, x⟩ = .ok (s.dev.modTax n fun t => { t with
      advance := vallIdx (fun i _ => BitVec.ofNat 16 (par p (2 + 2 * i) 2)) t.advance }, .ok []) := by
  have hfree : (!s.dev.mot.tax[n].on) = true := by rw [hoff]; rfl
  simp only [taxAdvanceCmd, needTax_of htax hn, bind, Except.bind, needZero_of hzero, needFree_of hfree]
  rfl

theorem taxEnableCmd_of_zero (hzero : par p 1 1 = 0) :
    taxEnableCmd ⟨s, p, x⟩ = .ok (s.dev.taxDisable n, .ok []) := by
  have hrange : within 0 1 (par p 1 1) := by omega
  simp only [taxEnableCmd, needTax_of htax hn, bind, Except.bind, needRange_of hrange, if_pos hzero]
  rfl

/-- Enable 1 starts a ready axis whose gates are not driven already (R337, R347). -/
theorem taxEnableCmd_of_one (hone : par p 1 1 = 1) (hready : s.dev.taxReady n = true)
    (hbus : s.dev.mot.bus.configured = true) :
    taxEnableCmd ⟨s, p, x⟩ = .ok (if s.dev.mot.tax[n].on = true ∧ s.dev.mot.tax[n].state ≠ 0 then s.dev
      else s.dev.taxStart n, .ok []) := by
  have hrange : within 0 1 (par p 1 1) := by omega
  have hnot : par p 1 1 ≠ 0 := by omega
  simp only [taxEnableCmd, needTax_of htax hn, bind, Except.bind, needRange_of hrange, if_neg hnot, needP_of hready,
    needFree_of hbus, Bool.and_eq_true, decide_eq_true_eq]
  split <;> rfl

theorem taxSpeedCmd_of_range (hzero : reservedZero p 1 3)
    (hspeed : -(100 * s.dev.mot.tax[n].ratedRpm : Nat) ≤ parI p 4 4
      ∧ parI p 4 4 ≤ (100 * s.dev.mot.tax[n].ratedRpm : Nat)) (haccel : within 0 1000000 (par p 8 4)) :
    taxSpeedCmd ⟨s, p, x⟩ = if s.dev.mot.tax[n].on && 16 ≤ s.dev.mot.tax[n].queue.length
      then .ok (s.dev, .park .axisQueue)
      else .ok (s.dev.modTax n fun y => y.push (speedCmd (pktParams p)), .ok []) := by
  simp only [taxSpeedCmd, needTax_of htax hn, bind, Except.bind, needZero_of hzero, needRangeI_of hspeed,
    needRange_of haccel]
  rfl

theorem taxMasterCmd_of_free (hzero : reservedZero p 1 1) (hcounts : within 1 0xFFFFFFFF (par p 4 4))
    (hothers : ∀ k : Fin 4, k ≠ n → s.dev.mot.tax[k].masterOf &&& BitVec.ofNat 16 (par p 2 2) = 0)
    (hoff : s.dev.mot.tax[n].on = false)
    (hswaths : ∀ w : Fin 16, (par p 2 2).testBit w.val = true → s.dev.swathInUse w = false) :
    taxMasterCmd ⟨s, p, x⟩ = .ok (s.dev.modTax n fun t =>
      { t with masterOf := BitVec.ofNat 16 (par p 2 2), countsPerRev := par p 4 4 }, .ok []) := by
  have hothers' : ((fins 4).all fun k =>
      k == n || s.dev.mot.tax[k].masterOf &&& BitVec.ofNat 16 (par p 2 2) == 0) = true := by
    simpa [or_iff_not_imp_left] using hothers
  have hfree : (!s.dev.mot.tax[n].on && (fins 16).all fun w =>
      !(BitVec.ofNat 16 (par p 2 2)).getLsbD w.val || !s.dev.swathInUse w) = true := by
    rw [hoff, Bool.not_false, Bool.true_and, List.all_eq_true]
    intro w _
    rw [← Bool.not_and]
    refine not_and_of_imp fun hbit => hswaths w ?_
    rwa [BitVec.getLsbD_ofNat, decide_eq_true w.isLt, Bool.true_and] at hbit
  simp only [taxMasterCmd, needTax_of htax hn, bind, Except.bind, needZero_of hzero, needRange_of hcounts,
    needFree_of hothers', needFree_of hfree]
  rfl

theorem taxStatusCmd_of_axis : taxStatusCmd ⟨s, p, x⟩ = .ok (s.dev, .ok (taxReply s.dev.mot.tax[n] s.dev.mot.bus)) := by
  rw [taxStatusCmd, needTax_of htax hn]
  rfl

end

end

/-- Settles O53: the checks are met; TAX_SPEED waits where the queue of an enabled axis is full (R195). -/
theorem transportCommandsComplete : Obligations.TransportCommandsComplete := by
  refine ⟨?config, ?advance, ?enable, ?speed, ?master, ?bus, ?status⟩
  case config =>
    exact fun s p x n h htax hn hpoles hsrc hcoast hpwm hdead hdeadPwm htmin htminPwm hrpm hkp hki haccel hoff =>
      onDev_ok h.1 (taxConfigCmd_of_off htax hn hpoles hsrc hcoast hpwm hdead hdeadPwm htmin htminPwm hrpm hkp hki haccel
        hoff) h.2
  case advance => exact fun s p x n h htax hn hzero hoff => onDev_ok h.1 (taxAdvanceCmd_of_off htax hn hzero hoff) h.2
  case enable =>
    intro s p x n h htax hn
    refine ⟨fun hzero => ?_, fun hone hready hbus hstill => ?_, fun hone hready hbus hon hstate => ?_⟩
    · exact onDev_ok h.1 (taxEnableCmd_of_zero htax hn hzero) h.2
    · refine onDev_ok h.1 ((taxEnableCmd_of_one htax hn hone hready hbus).trans ?_) h.2
      rw [if_neg fun ⟨hon, hstate⟩ => hstill.elim (Bool.eq_false_iff.mp · hon) hstate]
    · refine onDev_ok h.1 ((taxEnableCmd_of_one htax hn hone hready hbus).trans ?_) h.2
      rw [if_pos ⟨hon, hstate⟩]
  case speed =>
    intro s p x n t h htax hn ht hzero hspeed haccel
    subst ht
    exact onDev_ite (r₁ := (s.dev, .park .axisQueue)) h
      ((taxSpeedCmd_of_range htax hn hzero hspeed haccel).trans (apply_ite Except.ok _ _ _).symm) rfl rfl
  case master =>
    exact fun s p x n h htax hn hzero hcounts hothers hoff hswaths =>
      onDev_ok h.1 (taxMasterCmd_of_free htax hn hzero hcounts hothers hoff hswaths) h.2
  case bus =>
    intro s p x d h htrip h1 h2 h3 hoff hd
    replace hd : d = busConfigured s.dev p := hd
    subst hd
    exact onDev_ok h.1 (busConfigCmd_of_order htrip h1 h2 h3 hoff) h.2
  case status =>
    intro s p x n t b h htax hn ht hb hroom
    subst ht hb
    exact onDev_ok h.1 (taxStatusCmd_of_axis htax hn) (by simpa [taxReply] using hroom)

end Sys2Proof.Laws
end

section
/-! SUPPORT. The auxiliary commands (R175, R176, R355 to R374): what each body does once its checks hold. -/

namespace Sys2Proof.Laws

open Machine

/-- The reply of Table 6.26. -/
def auxReply (a : Aux) : List Byte :=
  leBytes 1 a.state.toNat
    ++ leBytes 1 (fld 0 1 (bit a.posValid) + fld 1 1 (bit a.accelOverridden) + fld 2 1 (bit a.followOn.isSome)
      + fld 3 1 (bit a.idle))
    ++ leBytes 2 a.load ++ leBytes 4 a.pos.toNat ++ leBytes 4 a.speedWord.toNat ++ [0, 0, 0, 0]

/-- The follow-on move AUX_MOVE asks for (R362). -/
def askedMove (p : Packet) : Move := {
  target := BitVec.ofNat 32 (par p 4 4), vmax := par p 8 4, accel := par p 12 4, decel := par p 16 4 }

section
variable {p : Packet} {x : Session} {s : State} {n : Fin 8}

section
variable (haux : s.dev.hasAux = true) (hn : par p 0 1 = n.val)
include haux hn

theorem needAux_of : (Ctx.mk s p x).needAux = .ok n := by
  have hlt : par p 0 1 < 8 := hn ▸ n.isLt
  obtain rfl : ⟨par p 0 1, hlt⟩ = n := Fin.ext hn
  rw [Ctx.needAux, needP_of haux]
  exact dif_pos hlt

/-! ## AUX_CONFIG, AUX_ENABLE, AUX_STATUS -/

theorem auxConfigCmd_of_off (hidle : within 0 100 (par p 1 1)) (hpwm : within 20 64 (par p 2 1))
    (hstall : within 10 170 (par p 3 1)) (hrm : within 1 65535 (par p 4 2)) (hke : within 1 65535 (par p 6 2))
    (hirun : within 1 10000 (par p 8 2)) (hdelay : within 0 4095 (par p 10 2)) (hsteps : within 4 1000 (par p 12 2))
    (hzero : reservedZero p 14 2) (hoff : s.dev.mot.aux[n].on = false) :
    auxConfigCmd ⟨s, p, x⟩ = .ok (s.dev.modAux n fun a => { a with
      configured := true, idlePct := BitVec.ofNat 8 (par p 1 1), pwmKhz := BitVec.ofNat 8 (par p 2 1)
      stallDeg := BitVec.ofNat 8 (par p 3 1), rmOhm := BitVec.ofNat 16 (par p 4 2), ke := BitVec.ofNat 16 (par p 6 2)
      irunMa := BitVec.ofNat 16 (par p 8 2), idleDelay := BitVec.ofNat 12 (par p 10 2)
      stepsPerRev := BitVec.ofNat 10 (par p 12 2) }, .ok []) := by
  have hfree : (!s.dev.mot.aux[n].on) = true := by rw [hoff]; rfl
  simp only [auxConfigCmd, needAux_of haux hn, bind, Except.bind, needRange_of hidle, needRange_of hpwm,
    needRange_of hstall, needRange_of hrm, needRange_of hke, needRange_of hirun, needRange_of hdelay,
    needRange_of hsteps, needZero_of hzero, needFree_of hfree]
  rfl

theorem auxEnableCmd_of_zero (hzero : par p 1 1 = 0) :
    auxEnableCmd ⟨s, p, x⟩ = .ok ((s.dev.auxOff n).dropAux n, .ok []) := by
  have hrange : within 0 1 (par p 1 1) := by omega
  simp only [auxEnableCmd, needAux_of haux hn, bind, Except.bind, needRange_of hrange, if_pos hzero]
  rfl

theorem auxEnableCmd_of_one (hone : par p 1 1 = 1) (hready : s.dev.auxReady n = true) :
    auxEnableCmd ⟨s, p, x⟩ = .ok (s.dev.modAux n fun a => { a with
      enable := Tv.mk3 1
      state := if a.state = 0 && !(s.dev.contained (.aux n) || s.dev.mode = mTest) then 1 else a.state
      stepStart := a.pos }, .ok []) := by
  have hrange : within 0 1 (par p 1 1) := by omega
  have hnot : par p 1 1 ≠ 0 := by omega
  simp only [auxEnableCmd, needAux_of haux hn, bind, Except.bind, needRange_of hrange, if_neg hnot, needP_of hready]
  rfl

theorem auxStatusCmd_of_axis : auxStatusCmd ⟨s, p, x⟩ = .ok (s.dev, .ok (auxReply s.dev.mot.aux[n])) := by
  rw [auxStatusCmd, needAux_of haux hn]
  rfl

/-! ## Motion, of an energised axis -/

section
variable (hlive : s.dev.mot.aux[n].live = true)
include hlive

theorem needLive_of : (Ctx.mk s p x).needLive = .ok n := by
  simp only [Ctx.needLive, needAux_of haux hn, bind, Except.bind, needP_of hlive]
  rfl

theorem auxStopCmd_of_live (v : Nat) : auxStopCmd v ⟨s, p, x⟩ = .ok (s.dev.queueAux n (auxCmdOf 0x94 v (pktParams p))) := by
  rw [auxStopCmd, needLive_of haux hn hlive]
  rfl

section
variable (hzero : reservedZero p 1 3)
include hzero

theorem needMove_of : (Ctx.mk s p x).needMove = .ok n := by
  simp only [Ctx.needMove, needLive_of haux hn hlive, bind, Except.bind, needZero_of hzero]
  rfl

theorem auxProfileCmd_of_range (hv : within 1 16777215 (par p 4 4)) (ha : within 1 16777215 (par p 8 4))
    (hd : within 1 16777215 (par p 12 4)) (hroom : replyFits p x.macRequired 8 = true) :
    auxProfileCmd ⟨s, p, x⟩ = if 16 ≤ s.dev.mot.aux[n].queue.length then .ok (s.dev, .park .axisQueue)
      else .ok (s.dev.modAux n fun a => a.push (auxCmdOf 0x93 0 (pktParams p)), .park .profile) := by
  simp only [auxProfileCmd, needRate, needMove_of haux hn hlive hzero, bind, Except.bind, needRange_of hv,
    needRange_of ha, needRange_of hd, needRoom_of hroom]
  rfl

end

end

end

section
variable (hv : within 1 16777215 (par p 8 4)) (ha : within 1 16777215 (par p 12 4)) (hd : within 1 16777215 (par p 16 4))
include hv ha hd

theorem needRates_of : needRates (pktParams p) = .ok () := by
  simp only [needRates, needRate, needRange_of hv, needRange_of ha, needRange_of hd]
  rfl

theorem moveTo_of_still (hmoving : s.dev.mot.aux[n].moving = false) (hgear : s.dev.mot.aux[n].state ≠ 4)
    (hdist : (parI p 4 4 - s.dev.mot.aux[n].pos.toInt).natAbs ≤ 0x7FFFFFFF) (hvalid : s.dev.mot.aux[n].posValid = true) :
    (Ctx.mk s p x).moveTo n = .ok (s.dev.queueAux n (auxCmdOf 0x92 0 (pktParams p))) := by
  have hfree : (!s.dev.mot.aux[n].moving && s.dev.mot.aux[n].state != 4 && s.dev.mot.aux[n].posValid) = true := by
    rw [hmoving, hvalid, bne_iff_ne.mpr hgear]; rfl
  simp only [Ctx.moveTo, needDistance, needP_of (decide_eq_true hdist), needRates_of hv ha hd, needFree_of hfree]
  rfl

section
variable (haux : s.dev.hasAux = true) (hn : par p 0 1 = n.val) (hlive : s.dev.mot.aux[n].live = true)
  (hzero : reservedZero p 1 3)
include haux hn hlive hzero

theorem auxMoveAbsoluteCmd_of_still (hmoving : s.dev.mot.aux[n].moving = false) (hgear : s.dev.mot.aux[n].state ≠ 4)
    (hdist : (parI p 4 4 - s.dev.mot.aux[n].pos.toInt).natAbs ≤ 0x7FFFFFFF) (hvalid : s.dev.mot.aux[n].posValid = true) :
    auxMoveAbsoluteCmd ⟨s, p, x⟩ = .ok (s.dev.queueAux n (auxCmdOf 0x92 0 (pktParams p))) := by
  rw [auxMoveAbsoluteCmd, needMove_of haux hn hlive hzero]
  exact moveTo_of_still hv ha hd hmoving hgear hdist hvalid

/-- At standstill a follow-on move is an absolute one (R362). -/
theorem auxMoveFollowOnCmd_of_still (hmoving : s.dev.mot.aux[n].moving = false) (hgear : s.dev.mot.aux[n].state ≠ 4)
    (hdist : (parI p 4 4 - s.dev.mot.aux[n].pos.toInt).natAbs ≤ 0x7FFFFFFF) (hvalid : s.dev.mot.aux[n].posValid = true) :
    auxMoveFollowOnCmd ⟨s, p, x⟩ = .ok (s.dev.queueAux n (auxCmdOf 0x92 0 (pktParams p))) := by
  simp only [auxMoveFollowOnCmd, needMove_of haux hn hlive hzero, bind, Except.bind, hmoving, Bool.not_false, if_true]
  exact moveTo_of_still hv ha hd hmoving hgear hdist hvalid

theorem auxMoveFollowOnCmd_of_moving {start : Word} (hmoving : s.dev.mot.aux[n].moving = true)
    (hnone : s.dev.mot.aux[n].presentMove = none → start = s.dev.mot.aux[n].pos)
    (hsome : ∀ rel m, s.dev.mot.aux[n].presentMove = some (rel, m) →
      start = if rel then s.dev.mot.aux[n].pos + m.target else m.target)
    (hdist : (parI p 4 4 - start.toInt).natAbs ≤ 0x7FFFFFFF) (hfollow : s.dev.mot.aux[n].followOn = none)
    (hgear : s.dev.mot.aux[n].state ≠ 4) :
    auxMoveFollowOnCmd ⟨s, p, x⟩ = .ok (s.dev.modAux n fun b => { b with followOn := some (askedMove p) }, .ok []) := by
  have hfree : (s.dev.mot.aux[n].followOn.isNone && s.dev.mot.aux[n].state != 4) = true := by
    rw [hfollow, bne_iff_ne.mpr hgear]; rfl
  simp only [auxMoveFollowOnCmd, needMove_of haux hn hlive hzero, bind, Except.bind, hmoving, Bool.not_true,
    Bool.false_eq_true, if_false, needRates_of hv ha hd, needFree_of hfree, needDistance]
  rw [needP_of]
  · rfl
  · refine decide_eq_true ?_
    split
    · next rel m hm => exact hsome rel m hm ▸ hdist
    · next hm => exact hnone hm ▸ hdist

/-- A relative move needs no valid position, and leaves a stall (R366). -/
theorem auxMoveRelativeCmd_of_still (hmoving : s.dev.mot.aux[n].moving = false) (hgear : s.dev.mot.aux[n].state ≠ 4)
    (hdist : (parI p 4 4).natAbs ≤ 0x7FFFFFFF) :
    auxMoveRelativeCmd ⟨s, p, x⟩ = .ok ((s.dev.leaveStall n).queueAux n (auxCmdOf 0x92 2 (pktParams p))) := by
  have hfree : (!s.dev.mot.aux[n].moving && s.dev.mot.aux[n].state != 4) = true := by
    rw [hmoving, bne_iff_ne.mpr hgear]; rfl
  simp only [auxMoveRelativeCmd, needMove_of haux hn hlive hzero, bind, Except.bind, needDistance,
    needP_of (decide_eq_true hdist), needRates_of hv ha hd, needFree_of hfree]
  rfl

end

end

/-- A set-point that joins the queue is answered without parameters, and so is one that waits. -/
theorem queueAux_size (d : Dev) (q : AuxCmd) : (d.queueAux n q).2.size = 0 := by
  unfold Dev.queueAux
  split <;> rfl

/-! ## AUX_HOME -/

/-- The part in which a homing begins: a stall is left, and the switches named have their debounce time (R366, R370). -/
def homePrepared (d : Dev) (p : Packet) (n : Fin 8) : Dev :=
  (d.leaveStall n).modMot fun m => m.setDebounce (par p 3 1 :: (if par p 1 1 = 0 then [par p 2 1] else [])) (par p 5 1)

/-- The homing AUX_HOME asks for (Table 6.25). -/
def askedHoming (p : Packet) (m : Motion) : Homing := {
  method := par p 1 1, switch := par p 2 1, limit := par p 3 1, negative := par p 4 1 == 1
  debounceMs := par p 5 1, chatterN := par p 6 1, chatterWinMs := par p 7 1, fastV := par p 8 4
  slowV := par p 12 4, backoff := par p 16 4, accel := par p 20 4
  step := if par p 1 1 ≠ 0 then 5 else if m.switchOn (par p 2 1) then 4 else 2 }

/-- The part once the homing has begun (R370). -/
def homeBegun (d : Dev) (p : Packet) (n : Fin 8) : Dev :=
  (homePrepared d p n).modAux n fun b => { b with
    posValid := false, followOn := none, gearNext := none, state := 3
    homing := some (askedHoming p (homePrepared d p n).mot), stallRun := 0, loadSum := 0
    loadN := 0, loadLow := false, stepStart := b.pos }

/-- Neither the homing's start nor its answer touches a switch. -/
theorem homeBegun_switchOn (d : Dev) (k : Nat) :
    ((homeBegun d p n).answer p stOk noField []).mot.switchOn k = (homePrepared d p n).mot.switchOn k := by
  rw [still_mot (still_answer p stOk noField [])]
  rfl

section
variable (haux : s.dev.hasAux = true) (hn : par p 0 1 = n.val) (hlive : s.dev.mot.aux[n].live = true)
include haux hn hlive

/-- A homing begins and is answered; an active limit fails it at once (R371, R373). -/
theorem auxHomeCmd_of_still (hmethod : (Ctx.mk s p x).needMethod n = .ok ()) (hmoving : s.dev.mot.aux[n].moving = false)
    (hgear : s.dev.mot.aux[n].state ≠ 4) :
    auxHomeCmd ⟨s, p, x⟩ = .ok (if par p 3 1 ≤ 15 ∧ (homePrepared s.dev p n).mot.switchOn (par p 3 1) = true
      then ((homeBegun s.dev p n).answer p stOk noField []).homeFail n
      else (homeBegun s.dev p n).answer p stOk noField [], .done) := by
  have hfree : (!s.dev.mot.aux[n].moving && s.dev.mot.aux[n].state != 4) = true := by
    rw [hmoving, bne_iff_ne.mpr hgear]; rfl
  have hbody : auxHomeCmd ⟨s, p, x⟩ =
      if (decide (par p 3 1 ≤ 15) && ((homeBegun s.dev p n).answer p stOk noField []).mot.switchOn (par p 3 1)) = true
      then .ok (((homeBegun s.dev p n).answer p stOk noField []).homeFail n, .done)
      else .ok ((homeBegun s.dev p n).answer p stOk noField [], .done) := by
    simp only [auxHomeCmd, needLive_of haux hn hlive, bind, Except.bind, hmethod, needFree_of hfree]
    rfl
  rw [hbody, homeBegun_switchOn]
  simp only [Bool.and_eq_true, decide_eq_true_eq]
  split <;> rfl

/-! ## AUX_GEAR -/

/-- The gearing AUX_GEAR asks for (R367). -/
def askedGear (p : Packet) (ch : Fin 4) : Gear :=
  { channel := ch, num := parI p 4 4, den := par p 8 4, c0 := BitVec.ofNat 32 (par p 12 4) }

section
variable {ch : Fin 4} (hch : par p 1 1 = ch.val) (hmode : s.dev.pos.enc[ch].cfg.mode ≠ 0)
  (hflags : within 0 3 (par p 2 1)) (hzero : reservedZero p 3 1) (hnum : par p 4 4 ≠ 0)
  (hden : within 1 0xFFFFFFFF (par p 8 4))
include hch hmode hflags hzero hnum hden

/-- An engagement takes effect now, or at the count named (R367). -/
theorem auxGearCmd_of_engage (hengage : getB 0 (par p 2 1) = true)
    (hfree : s.dev.mot.aux[n].state = 4 ∨ (s.dev.mot.aux[n].moving = false ∧ s.dev.mot.aux[n].state ≠ 5)) :
    auxGearCmd ⟨s, p, x⟩ = .ok (if getB 1 (par p 2 1) = true
      then s.dev.modAux n fun b => { b with gearNext := some (askedGear p ch) }
      else s.dev.modAux n fun b => b.engage (fun k => s.dev.pos.enc[k].copies[0].count) (askedGear p ch)
        s.dev.pos.enc[ch].copies[0].count, .ok []) := by
  have hlt : par p 1 1 < 4 := hch ▸ ch.isLt
  obtain rfl : ⟨par p 1 1, hlt⟩ = ch := Fin.ext hch
  have hfree' : (s.dev.mot.aux[n].state == 4 || (!s.dev.mot.aux[n].moving && s.dev.mot.aux[n].state != 5)) = true := by
    simpa using hfree
  simp only [auxGearCmd, needLive_of haux hn hlive, bind, Except.bind, dif_pos hlt, needP_of (bne_iff_ne.mpr hmode),
    needRange_of hflags, needZero_of hzero, needP_of (bne_iff_ne.mpr hnum), needRange_of hden, hengage, if_true,
    needFree_of hfree']
  split <;> rfl

/-- A disengagement stops a geared axis, and disarms one that waits for its count (R367). -/
theorem auxGearCmd_of_disengage (hengage : getB 0 (par p 2 1) = false) :
    auxGearCmd ⟨s, p, x⟩ = .ok (if s.dev.mot.aux[n].gear.isSome = true then s.dev.modAux n fun b => b.beginStop none
      else s.dev.modAux n fun b => { b with gearNext := none }, .ok []) := by
  have hlt : par p 1 1 < 4 := hch ▸ ch.isLt
  obtain rfl : ⟨par p 1 1, hlt⟩ = ch := Fin.ext hch
  simp only [auxGearCmd, needLive_of haux hn hlive, bind, Except.bind, dif_pos hlt, needP_of (bne_iff_ne.mpr hmode),
    needRange_of hflags, needZero_of hzero, needP_of (bne_iff_ne.mpr hnum), needRange_of hden, hengage,
    Bool.false_eq_true, if_false]
  split <;> rfl

end

end

end

/-- Settles O55: the checks are met; a set-point that finds the queue full waits, and what an axis does at the moment
decides between the forms of a move, a homing and a gearing. -/
theorem auxiliaryCommandsComplete : Obligations.AuxiliaryCommandsComplete := by
  refine ⟨?config, ?enable, ?move, ?followOn, ?profile, ?stop, ?home, ?gear, ?status⟩
  case config =>
    exact fun s p x n h haux hn hidle hpwm hstall hrm hke hirun hdelay hsteps hzero hoff =>
      onDev_ok h.1 (auxConfigCmd_of_off haux hn hidle hpwm hstall hrm hke hirun hdelay hsteps hzero hoff) h.2
  case enable =>
    exact fun s p x n h haux hn => ⟨fun hzero => onDev_ok h.1 (auxEnableCmd_of_zero haux hn hzero) h.2,
      fun hone hready => onDev_ok h.1 (auxEnableCmd_of_one haux hn hone hready) h.2⟩
  case move =>
    intro s p x n a r haux hn ha hlive hzero hv hacc hdec hmoving hgear
    subst ha
    refine ⟨fun h hdist hvalid hr => ?_, fun h hdist hvalid hr => ?_, fun h hdist hr => ?_⟩
    · subst hr
      exact onDev_finish h (auxMoveAbsoluteCmd_of_still hv hacc hdec haux hn hlive hzero hmoving hgear hdist hvalid)
        (queueAux_size ..)
    · subst hr
      exact onDev_finish h (auxMoveFollowOnCmd_of_still hv hacc hdec haux hn hlive hzero hmoving hgear hdist hvalid)
        (queueAux_size ..)
    · subst hr
      exact onDev_finish h (auxMoveRelativeCmd_of_still hv hacc hdec haux hn hlive hzero hmoving hgear hdist)
        (queueAux_size ..)
  case followOn =>
    intro s p x n a start h haux hn ha hlive hzero hv hacc hdec hmoving hnone hsome hdist hfollow hgear
    subst ha
    exact onDev_ok h.1
      (auxMoveFollowOnCmd_of_moving hv hacc hdec haux hn hlive hzero hmoving hnone hsome hdist hfollow hgear) h.2
  case profile =>
    intro s p x n h haux hn hlive hzero hv ha hd hroom
    have hbody := auxProfileCmd_of_range haux hn hlive hzero hv ha hd hroom
    split
    · next hfull => exact onDev_finish h (hbody.trans (if_pos hfull)) rfl
    · next hfree => exact onDev_finish h (hbody.trans (if_neg hfree)) rfl
  case stop =>
    intro s p x n now r h haux hn hlive hr
    subst hr
    cases now with
    | false => exact onDev_finish h (auxStopCmd_of_live haux hn hlive 0) (queueAux_size ..)
    | true => exact onDev_finish h (auxStopCmd_of_live haux hn hlive 1) (queueAux_size ..)
  case home =>
    intro s p x n a d d2 g h haux hn ha hlive hmethod hmoving hgear hd hg hd2
    replace hd : d = homePrepared s.dev p n := hd
    replace hd2 : d2 = homeBegun s.dev p n := by rw [hd2, hg, hd]; rfl
    subst ha hd hd2
    have hbody := auxHomeCmd_of_still haux hn hlive hmethod hmoving hgear
    constructor
    · intro hclear
      rw [if_neg fun ⟨hle, hon⟩ => Bool.eq_false_iff.mp (hclear hle) hon] at hbody
      exact onDev_finish h hbody rfl
    · intro hle hon
      rw [if_pos ⟨hle, hon⟩] at hbody
      exact onDev_finish h hbody rfl
  case gear =>
    intro s p x n ch a g h haux hn ha hlive hch hmode hflags hzero hnum hden hg
    replace hg : g = askedGear p ch := hg
    subst ha hg
    have hengage := auxGearCmd_of_engage (x := x) haux hn hlive hch hmode hflags hzero hnum hden
    have hstop := auxGearCmd_of_disengage (x := x) haux hn hlive hch hmode hflags hzero hnum hden
    refine ⟨fun hbit hat hfree => ?_, fun hbit hnow hfree => ?_, fun hbit hgeared => ?_, fun hbit hnone => ?_⟩
    · exact onDev_ok h.1 ((hengage hbit hfree).trans (by rw [if_pos hat])) h.2
    · exact onDev_ok h.1 ((hengage hbit hfree).trans (by rw [if_neg (Bool.eq_false_iff.mp hnow)])) h.2
    · exact onDev_ok h.1 ((hstop hbit).trans (by rw [if_pos hgeared])) h.2
    · exact onDev_ok h.1 ((hstop hbit).trans (by rw [hnone]; rfl)) h.2
  case status =>
    intro s p x n a h haux hn ha hroom
    subst ha
    exact onDev_ok h.1 (auxStatusCmd_of_axis haux hn) (by simpa [auxReply] using hroom)

end Sys2Proof.Laws
end

section
/-! SUPPORT. JOB_COMMIT and COMMIT_ACK_TIMEOUT (R207): the swaths a commit switches on a die, whether it comes in time, and
what the die answers. -/

namespace Sys2Proof.Laws

open Machine

/-- The swaths that the arming switches and that have ports on a die. -/
def commitSwaths (d : Dev) (a : Armed) (f : Fin 7) : List (Fin 16) :=
  (fins 16).filter fun k => a.switching.contains k && (d.swathDies k).contains f

/-- A commit comes too late for a swath: the die's own count is past its switch position, or fewer than 4 lines short of
it (R207). -/
def commitTooLate (d : Dev) (f : Fin 7) (k : Fin 16) : Bool :=
  match d.swaths[k].switch with
  | some y => tooNear 4 (d.ratioFor k y.run) y.pos ((d.pos.enc[d.swaths[k].channel].copies[f.val + 1]'(by omega)).ext)
  | none => false

theorem commitTooLate_eq_false {d : Dev} {f : Fin 7} {k : Fin 16}
    (h : ∀ y, d.swaths[k].switch = some y → tooNear 4 (d.ratioFor k y.run) y.pos
      ((d.pos.enc[d.swaths[k].channel].copies[f.val + 1]'(by omega)).ext) = false) : commitTooLate d f k = false := by
  unfold commitTooLate
  split
  · next y hy => exact h y hy
  · rfl

/-- The generators of a die take the switch of each of the swaths, whose row queues are then refilled. -/
def takeSwitch (d : Dev) (f : Fin 7) (ks : List (Fin 16)) : Dev :=
  ks.foldl (fun d k => (d.modSwath k fun w =>
    { w with gens := vmod w.gens ⟨f.val + 1, by omega⟩ fun g => { g with armed := true } }).refillSwath k) d

/-- The part once a die has taken the switch of the swaths and sent its acknowledgement. -/
def commitTaken (d : Dev) (f : Fin 7) (ks : List (Fin 16)) : Dev :=
  takeSwitch (d.modDie f fun z => z.sendCtrl true .commitAck) f ks

/-- The part once a die has sent that the commit came late for a swath. -/
def commitRefused (d : Dev) (f : Fin 7) (k : Fin 16) : Dev :=
  d.modDie f fun z => z.sendCtrl true (.commitLate d.swaths[k].channel)

/-- What a commit that reaches a die leads to, by the swaths it comes too late for: an answer counts at the hub once a
credit has let it leave (R29). -/
def commitAnswered (d : Dev) (f : Fin 7) (ks : List (Fin 16)) : List (Fin 16) → Dev
  | k :: _ =>
    if d.dies[f].ctrlCreditsUp = 0 then commitRefused d f k
    else (commitRefused d f k).detect (idDiverge d.swaths[k].channel.val)
  | [] => if d.dies[f].ctrlCreditsUp = 0 then commitTaken d f ks else (commitTaken d f ks).ackDie f

/-- A message of a die has left unless no credit was free for it (R29). -/
theorem sendUp_left_iff {d : Dev} {f : Fin 7} {m : CtrlMsg} : (d.sendUp f m).2 = true ↔ ¬ d.dies[f].ctrlCreditsUp = 0 :=
  bne_iff_ne

section
variable {d : Dev} {f : Fin 7} {a : Armed} (harmed : d.armed = some a)
include harmed

theorem jobCommit_of_waiting (hwait : CtrlMsg.commit ∈ d.dies[f].ctrlWait) : d.jobCommit f = d := by
  simp only [Dev.jobCommit, harmed]
  exact if_pos (Bool.or_eq_true_iff.mpr (.inr (List.contains_iff_mem.mpr hwait)))

theorem commitTimeout_of_awaited (hack : f ∈ a.waitAck) :
    d.commitTimeout f = (d.detect (idDie f.val oTineLink)).ackDie f := by
  simp only [Dev.commitTimeout, harmed]
  exact if_pos (List.contains_iff_mem.mpr hack)

variable (hack : f ∈ a.waitAck) (hleft : CtrlMsg.commit ∉ d.dies[f].ctrlWait)
include hack hleft

theorem jobCommit_of_arrived : d.jobCommit f =
    commitAnswered d f (commitSwaths d a f) ((commitSwaths d a f).filter (commitTooLate d f)) := by
  have harrived : ¬ (!a.waitAck.contains f || d.dies[f].ctrlWait.contains .commit) = true := by simpa [hack] using hleft
  simp only [Dev.jobCommit, harmed, if_neg harrived, sendUp_left_iff, ite_not]
  rfl

theorem jobCommit_of_timely (hclear : ∀ k ∈ commitSwaths d a f, commitTooLate d f k = false) :
    d.jobCommit f = if d.dies[f].ctrlCreditsUp = 0 then commitTaken d f (commitSwaths d a f)
      else (commitTaken d f (commitSwaths d a f)).ackDie f := by
  have hnone : (commitSwaths d a f).filter (commitTooLate d f) = [] :=
    List.filter_eq_nil_iff.mpr fun k hk => Bool.eq_false_iff.mp (hclear k hk)
  rw [jobCommit_of_arrived harmed hack hleft, hnone, commitAnswered]

theorem jobCommit_of_late {k : Fin 16} {rest : List (Fin 16)}
    (hlate : (commitSwaths d a f).filter (commitTooLate d f) = k :: rest) :
    d.jobCommit f = if d.dies[f].ctrlCreditsUp = 0 then commitRefused d f k
      else (commitRefused d f k).detect (idDiverge d.swaths[k].channel.val) := by
  rw [jobCommit_of_arrived harmed hack hleft, hlate, commitAnswered]

end

section
variable {s : State} {f : Fin 7} {d : Dev}

theorem exec_jobCommit (h : s.dev.jobCommit f = d) : exec (.jobCommit f) s = .next { s with dev := d } :=
  onDev_of_eq (g := fun s => s.dev.jobCommit f) h

theorem exec_commitAckTimeout (h : s.dev.commitTimeout f = d) :
    exec (.commitAckTimeout f) s = .next { s with dev := d } :=
  onDev_of_eq (g := fun s => s.dev.commitTimeout f) h

end

/-- Settles O46: an awaited commit that has left the hub is taken or refused as the die's counts stand, and the answer
counts once a credit lets it leave. -/
theorem commitRowsComplete : Obligations.CommitRowsComplete := by
  refine ⟨?reached, ?waiting, ?timeout⟩
  case reached =>
    intro s f a mine sent harmed hack hleft hmine hsent
    subst hmine hsent
    refine ⟨fun r hclear hr => ?timely, fun k rest r hlate hr => ?late⟩
    case timely =>
      subst hr
      exact exec_jobCommit (jobCommit_of_timely harmed hack hleft fun k hk => commitTooLate_eq_false (hclear k hk))
    case late =>
      subst hr
      exact exec_jobCommit (jobCommit_of_late harmed hack hleft hlate)
  case waiting => exact fun s f a harmed hwait => exec_jobCommit (jobCommit_of_waiting harmed hwait)
  case timeout => exact fun s f a harmed hack => exec_commitAckTimeout (commitTimeout_of_awaited harmed hack)

end Sys2Proof.Laws
end

section
/-! SUPPORT. The rows of the DMA engine (R222, R224, R229 to R239, R241, R243): what each does to its channel, by what the
channel holds. -/

namespace Sys2Proof.Laws

open Machine

section
variable {d : Dev} {k : Fin 32}

/-! ## Reads -/

theorem dmaReadIssue_of_served {e : Dev}
    (hserved : (d.form 64).served (fun c => ((d.form 64).readTurn c).isSome) (d.form 64).dma.rrFeed
      (d.form 64).dma.rrGen = some k) (hturn : (d.form 64).readTurn k = some e) :
    d.dmaReadIssue k = (e.modDma fun x =>
      if e.dma.ch[k].swathFeed then { x with rrFeed := k.val } else { x with rrGen := k.val }).dmaRun k := by
  simp only [Dev.dmaReadIssue, if_pos hserved, hturn]

section
variable {n : BitVec 9} {q : ReadReq} (hq : d.dma.ch[k].waiting n = some q)
include hq

/-- Data of the length asked for fill the read; those of the cache are what it holds (R219, R222, R243). -/
theorem dmaReadEnd_of_data {m : Banks} {bytes b : List Byte} {corrected : BitVec 16}
    (hcause : q.cache = true → (d.src idLpddrFail).cause = false)
    (hb : b = if q.cache then m.cbytes q.address q.len else bytes) (hlen : b.length = q.len) :
    d.dmaReadEnd m k n (.data bytes corrected) = ((d.modDma fun x => { x with
        ecc := if q.cache then satTo 0xFFFFFFFF (x.ecc + corrected.toNat) else x.ecc }).modCh k fun x =>
      (x.modRead q.half fun y => { y with data := some b }).endDead fun y => y.half == q.half).dmaRun k := by
  subst hb
  have hsound : ¬ (q.cache && (d.src idLpddrFail).cause) = true := fun h => by
    obtain ⟨hcache, hfail⟩ := Bool.and_eq_true_iff.mp h
    exact Bool.eq_false_iff.mp (hcause hcache) hfail
  simp only [Dev.dmaReadEnd, hq, if_neg hsound, if_pos hlen]

/-- A cache that has failed gives no data (Table 16.2). -/
theorem dmaReadEnd_of_cacheFail {m : Banks} {bytes : List Byte} {corrected : BitVec 16} (hcache : q.cache = true)
    (hfail : (d.src idLpddrFail).cause = true) :
    d.dmaReadEnd m k n (.data bytes corrected) = d.dmaReadError k n true 2 := by
  simp only [Dev.dmaReadEnd, hq]
  exact if_pos (Bool.and_eq_true_iff.mpr ⟨hcache, hfail⟩)

section
variable {cache : Bool} {code : BitVec 2} (hcache : q.cache = cache)
include hcache

theorem dmaReadError_of_dead (hdead : q.dead = true) : d.dmaReadError k n cache code =
    (d.modCh k (Channel.endDead fun r => r.half == q.half)).dmaRun k := by
  simp only [Dev.dmaReadError, hq, if_neg (not_not_intro hcache), if_pos hdead]

/-- A read of host memory fails for good while the host is out of reach, any other once (R238, R241). -/
theorem dmaReadError_of_wanted (hdead : q.dead = false) : d.dmaReadError k n cache code =
    (if cache = false ∧ d.hostDown = true then
      d.dmaHostFail k q.num (d.dma.ch[k].early q.half) (Channel.failReads fun r => r.half == q.half)
    else d.dmaError k q.num code (d.dma.ch[k].early q.half) (Channel.failReads fun r => r.half == q.half)).dmaRun k := by
  simp only [Dev.dmaReadError, hq, if_neg (not_not_intro hcache), if_neg (Bool.eq_false_iff.mp hdead),
    Bool.and_eq_true, Bool.not_eq_true']
  split <;> rfl

end

end

/-! ## Beats and fences -/

theorem dmaWriteBeat_of_turn {m : Banks} {f e : Dev} {b : Beat} {bs : List Beat} {r : Dev × Banks} (hf : f = d.form 64)
    (hturn : f.writeTurn = some k) (hbeats : f.dma.ch[k].beats = b :: bs)
    (he : e = f.modCh k fun x => { x with
      beats := bs
      reads := x.reads.filter fun q => !b.frees.contains q.half })
    (hr : r = (e.modDma fun x =>
      if e.dma.ch[k].swathFeed then { x with turn := if b.last then none else some k, wrFeed := k.val }
      else { x with turn := if b.last then none else some k, wrGen := k.val }).writeBeat m k b) :
    d.dmaWriteBeat m k = (r.1.dmaRun k, r.2) := by
  subst hf he hr
  simp only [Dev.dmaWriteBeat, if_pos hturn, hbeats]

/-- The part once a channel's FENCE has completed: its event is DMA kind 1 (R237). -/
def fenceDone (d : Dev) (k : Fin 32) (f : FenceWait) : Dev :=
  ((d.modCh k fun y => ({ y with
      fences := y.fences.drop 1, fenced := f.num
      retries := if y.retryNum = f.num then 0 else y.retries } : Channel).norm).event
    evDma 1 k.val (leBytes 4 f.num.toNat)).raise d.dma.ch[k].vector.toNat

/-- How the read of a FENCE ends matters only after a host write (R237). -/
theorem fenceComplete_of_due {x : Channel} {f : FenceWait} {e : FenceEnd} (hx : x = d.dma.ch[k])
    (hdue : x.fenceDue = some f) (hrun : x.state ≠ 2) (hconf : x.state ≠ 3) :
    d.fenceComplete k e =
      if x.lastHost ≠ none ∧ (d.hostDown = true ∨ x.hostDropped = true) then
        d.dmaHostFail k f.num false Channel.failFence
      else if x.lastHost ≠ none ∧ e = .abort then d.dmaError k f.num 1 false Channel.failFence
      else if x.lastHost ≠ none ∧ e = .unsupported then d.dmaError k f.num 3 false Channel.failFence
      else fenceDone d k f := by
  simp only [Dev.fenceComplete, fenceDone, ← hx, hdue, hrun, hconf, decide_false, Bool.or_self, Bool.false_eq_true,
    if_false, Bool.and_eq_true, Bool.or_eq_true, decide_eq_true_eq, Option.isSome_iff_ne_none]

end

section
variable {s : State} {k : Fin 32} {n : BitVec 9} {d : Dev}

theorem exec_fenceComplete {e : FenceEnd} (h : s.dev.fenceComplete k e = d) :
    exec (.fenceComplete k e) s = .next { s with dev := d } :=
  onDev_of_eq (g := fun s => s.dev.fenceComplete k e) h

theorem exec_dmaReadCompletion {e : ReadEnd} (h : s.dev.dmaReadEnd s.mem k n e = d) :
    exec (.dmaReadCompletion ⟨k, n⟩ e) s = .next { s with dev := d } :=
  onDev_of_eq (g := fun s => s.dev.dmaReadEnd s.mem k n e) h

/-- The rows that end a read of one space in error, each with its code (R238, Table 16.2). -/
def EndsInError (s : State) (k : Fin 32) (n : BitVec 9) (cache : Bool) (code : BitVec 2) (c : Instr) : Prop :=
  (c = .dmaReadCompletion ⟨k, n⟩ .abort ∧ cache = false ∧ code = 1)
    ∨ (c = .dmaReadCompletion ⟨k, n⟩ .unsupported ∧ cache = false ∧ code = 3)
    ∨ (c = .dmaReadCompletion ⟨k, n⟩ .cacheEcc ∧ cache = true ∧ code = 2)
    ∨ ((∃ bytes fixed, c = .dmaReadCompletion ⟨k, n⟩ (.data bytes fixed)) ∧ cache = true ∧ code = 2
      ∧ (s.dev.src idLpddrFail).cause = true)
    ∨ (c = .dmaCompletionTimeout ⟨k, n⟩ ∧ cache = false ∧ code = 1)

theorem exec_of_endsInError {cache : Bool} {code : BitVec 2} {c : Instr} {q : ReadReq}
    (hc : EndsInError s k n cache code c) (hq : s.dev.dma.ch[k].waiting n = some q) (hcache : q.cache = cache) :
    exec c s = .next { s with dev := s.dev.dmaReadError k n cache code } := by
  rcases hc with ⟨rfl, rfl, rfl⟩ | ⟨rfl, rfl, rfl⟩ | ⟨rfl, rfl, rfl⟩ | ⟨⟨bytes, fixed, rfl⟩, rfl, rfl, hfail⟩
    | ⟨rfl, rfl, rfl⟩
  · exact exec_dmaReadCompletion rfl
  · exact exec_dmaReadCompletion rfl
  · exact exec_dmaReadCompletion rfl
  · exact exec_dmaReadCompletion (dmaReadEnd_of_cacheFail hq hcache hfail)
  · exact onDev_of_eq (g := fun s => s.dev.dmaReadError k n false 1) rfl

end

/-- Settles O43: the channel whose turn it is goes on, a read that is outstanding ends by what comes for it, a FENCE that
is due by what its read meets, and the hub frees as many slots as it has been told of. -/
theorem dmaEngineComplete : Obligations.DmaEngineComplete := by
  refine ⟨?issue, ?data, ?error, ?beat, ?fence, ?slots⟩
  case issue =>
    intro s k b d hb hserved hturn
    subst hb
    exact onDev_of_eq (g := fun s => s.dev.dmaReadIssue k) (dmaReadIssue_of_served hserved hturn)
  case data =>
    exact fun s k n bytes b corrected q hq hcause hb hlen =>
      exec_dmaReadCompletion (dmaReadEnd_of_data hq hcause hb hlen)
  case error =>
    intro s k n cache code c q early mark hc hq hcache hmark hearly
    subst hmark hearly
    have hexec := exec_of_endsInError hc hq hcache
    exact ⟨fun hdead => dmaReadError_of_dead hq hcache hdead ▸ hexec,
      fun hdead => dmaReadError_of_wanted hq hcache hdead ▸ hexec⟩
  case beat =>
    exact fun s k b bs f d r hf hturn hbeats hd hr =>
      onMem_of_pair (g := fun s => s.dev.dmaWriteBeat s.mem k) (dmaWriteBeat_of_turn hf hturn hbeats hd hr)
  case fence =>
    intro s k x f e hx hdue hrun hconf
    have hend (e : FenceEnd) := fenceComplete_of_due (e := e) hx hdue hrun hconf
    refine ⟨fun hok => ?done, fun hhost hlost => ?lost, fun hhost hup hkept => ?failed⟩
    case done =>
      have hdone : s.dev.fenceComplete k e = fenceDone s.dev k f := by
        rcases hok with hnone | ⟨hup, hkept, rfl⟩
        · simp [hend, hnone]
        · simp [hend, hup, hkept]
      rw [exec_fenceComplete hdone, fenceDone, ← hx]
    case lost => exact exec_fenceComplete ((hend e).trans (if_pos ⟨hhost, hlost⟩))
    case failed =>
      exact ⟨exec_fenceComplete (by simp [hend, hhost, hup, hkept]),
        exec_fenceComplete (by simp [hend, hhost, hup, hkept])⟩
  case slots =>
    intro s gp d told waiting hd htold hwaiting
    subst hd htold hwaiting
    exact onDev_of_eq (g := fun s => s.dev.lineSlotFreed gp) rfl

end Sys2Proof.Laws
end

section
/-! SUPPORT. The five moments of a row's line (R246 to R268): what each does, by what the queue of the row holds and by
what the part finds of the line. -/

namespace Sys2Proof.Laws

open Machine

section
variable {d : Dev} {m : Banks} {gp : Fin 112} {row : RowId} {t : Token} {w : Fin 16} {r : Run}

/-! ## Stages 2 to 5 -/

/-- The part once stages 2 to 5 have read what a line needs: the words in error they came upon are raised (R417). -/
def lineRead (d : Dev) (gp : Fin 112) (r : Run) (line : Nat) : Dev :=
  (d.lineReads gp r line).foldl (fun d x => d.ueIn x.1 x.2) d

/-- A line whose data hold a word in error, which counts as incomplete from then on (R417). -/
def spoilLine (d : Dev) (gp : Fin 112) (r : Run) (line : Nat) : Dev :=
  d.modPort gp fun p => { p with
    slots := p.slots.map fun x => if x.epoch = r.epoch ∧ x.line = line then { x with complete := false } else x }

/-- The first ready token takes the levels of its row, and the levels lost on the way are counted (R246 to R253). -/
def takeLevels (d : Dev) (gp : Fin 112) (row : RowId) (y : List Nat × Nat × Bool) : Dev :=
  (d.modPort gp fun p => { p with lost := min 0xFFFFFFFF (p.lost + y.2.1) }).modRow gp row fun q =>
    { q with queue := modToken (d.tokenReady gp) (fun t => { t with processed := some y.1, dots := y.2.2 }) q.queue }

theorem rowProcess_of_ready (hready : (d.ports[gp].row row).queue.find? (d.tokenReady gp) = some t)
    (hrun : d.runOf gp t.epoch = some (w, r)) :
    d.rowProcess m gp row =
      if r.pattern = none ∧ d.badWordsIn (lineAddr gp.val t.line) (d.ports[gp].nozzles / 4) ≠ [] then
        spoilLine (lineRead d gp r t.line) gp r t.line
      else takeLevels (lineRead d gp r t.line) gp row ((lineRead d gp r t.line).rowLine m w gp row r t.line) := by
  simp only [Dev.rowProcess, hready, hrun, Bool.and_eq_true, Bool.not_eq_true', Option.isNone_iff_eq_none,
    List.isEmpty_eq_false_iff, decide_eq_true_eq]
  rfl

/-! ## Commit -/

/-- The part once a row's next line has its start S(L); a background piece has stopped unless the line will not fire
(R263, R287). -/
def commitLine (d : Dev) (gp : Fin 112) (row : RowId) (pred : Option Rat) (full skip reached : Bool) : Dev :=
  let e := if skip || d.mute gp then d else d.stopPiece gp fun x => x.slotNs
  (e.togglePort gp fun n => 0x203 + 4 * n).modRow gp row fun q =>
    { q with
      waitData := q.waitData && !full
      queue := modToken (fun t => t.start.isNone) (fun z => { z with
        start := some (pred.getD (e.fireNow gp))
        complete := full && z.processed.isSome
        skip := skip
        missed := !reached || pred.isNone || (full && z.processed.isNone) }) q.queue }

/-- A line is due once its start is predicted or the web has passed it. -/
theorem lineCommit_of_due {reached : Bool}
    (hopen : (d.ports[gp].row row).queue.find? (fun t => t.start.isNone) = some t)
    (hrun : d.runOf gp t.epoch = some (w, r)) (hforward : d.swathReversed w gp = false)
    (hdue : (d.predToken m gp row t).isSome ∨ d.lineAhead m w gp row r t.line < 0) :
    d.lineCommit m gp row reached = commitLine d gp row (d.predToken m gp row t) (d.lineComplete gp r t.line)
      ((d.ports[gp].row row).waitData && !d.lineComplete gp r t.line) reached := by
  have hnow : ¬ (d.swathReversed w gp
      || ((d.predToken m gp row t).isNone && decide (0 ≤ d.lineAhead m w gp row r t.line))) = true := by
    rcases hdue with hpred | hpast
    · simp [hforward, Option.isSome_iff_ne_none.mp hpred]
    · simp [hforward, hpast]
  simp only [Dev.lineCommit, hopen, hrun, if_neg hnow]
  rfl

/-! ## Start -/

/-- A time, put off until another one where there is one. -/
def notBefore : Option Rat → Rat → Rat
  | some t, e => max e t
  | none, e => e

theorem le_notBefore (o : Option Rat) (e : Rat) : e ≤ notBefore o e := by
  cases o with
  | none => exact le_rfl
  | some t => exact le_max_left e t

/-- What E(L) waits for: the row's rate, its previous sequence and a background piece (R263, R264, R287). -/
def lineFree (q : Row) (piece : Option Piece) (x : Rat) : Rat :=
  notBefore (piece.map (·.stop)) (notBefore q.busyUntil
    (notBefore (q.prevStart.map fun t => t + 1000000000 / (q.fAdm : Rat)) x))

theorem le_lineFree (q : Row) (piece : Option Piece) (x : Rat) : x ≤ lineFree q piece x :=
  (le_notBefore _ _).trans ((le_notBefore _ _).trans (le_notBefore _ _))

theorem earliest_of_rate {q : Row} (hrate : q.fAdm ≠ 0) (piece : Option Piece) (x : Rat) :
    q.earliest piece x = some (x + ((lineFree q piece x - x).ceil : Rat)) := by
  simp only [Row.earliest, lineFree, if_neg hrate]
  cases q.prevStart <;> cases q.busyUntil <;> cases piece <;> rfl

/-- E(L) is no earlier than S(L). -/
theorem le_of_earliest {q : Row} {piece : Option Piece} {x e : Rat} (h : q.earliest piece x = some e) : x ≤ e := by
  have hrate : q.fAdm ≠ 0 := fun hzero => by simp [Row.earliest, hzero] at h
  have he : x + ((lineFree q piece x - x).ceil : Rat) = e :=
    Option.some.inj ((earliest_of_rate hrate piece x).symm.trans h)
  have hwait : lineFree q piece x - x ≤ ((lineFree q piece x - x).ceil : Rat) := Rat.le_ceil
  linarith [le_lineFree q piece x]

/-- A committed line is held: something has become of it, its row fires a line, or the web is reversed (R268). -/
def lineHeld (d : Dev) (w : Fin 16) (gp : Fin 112) (row : RowId) (t : Token) : Bool :=
  t.started || t.blanked || t.missed || (d.ports[gp].row row).firing || d.swathReversed w gp

section
variable {ts : List Token} (hqueue : (d.ports[gp].row row).queue = t :: ts)
include hqueue

section
variable {x : Rat} (hrun : d.runOf gp t.epoch = some (w, r)) (hstart : t.start = some x)
  (hfree : lineHeld d w gp row t = false)
include hrun hstart hfree

theorem lineStart_of_passed (hpass : d.passOver w gp t = true) :
    d.lineStart m gp row = d.modRow gp row fun q =>
      { q with queue := modToken (fun _ => true) (fun t => { t with skip := true }) q.queue } := by
  unfold lineHeld at hfree
  simp only [Dev.lineStart, hqueue, hrun, hstart, hfree, Bool.false_eq_true, if_false, if_pos hpass]

/-- A line that can start within its window starts then, or is taken blank (R264, R281). -/
theorem lineStart_of_timely {e : Rat} (hpass : d.passOver w gp t = false)
    (hearliest : (d.ports[gp].row row).earliest d.ports[gp].piece x = some e)
    (hwindow : e ≤ x + r.policy.windowTolNs) :
    d.lineStart m gp row =
      if d.ports[gp].blanking then d.hotBlankLine gp row t else d.startLine m w gp row r t e := by
  unfold lineHeld at hfree
  simp only [Dev.lineStart, hqueue, hrun, hstart, hfree, Bool.false_eq_true, if_false, hpass, hearliest,
    if_pos hwindow]

end

/-! ## The window closes, and the line boundary -/

/-- The first token of a row leaves its queue. -/
def dropLine (d : Dev) (gp : Fin 112) (row : RowId) : Dev :=
  d.modRow gp row fun q => { q with queue := q.queue.drop 1 }

/-- What a line whose window closes leaves behind: nothing if it started or was blanked, a mark if it was passed over,
and else a missed line (R266). -/
def windowClosed (d : Dev) (w : Fin 16) (gp : Fin 112) (row : RowId) (r : Run) (t : Token) : Dev :=
  if t.started || t.blanked then dropLine d gp row
  else if d.passOver w gp t then (dropLine d gp row).modRow gp row fun q => q.mark t.epoch t.line
  else (dropLine d gp row).missLine w gp r t.line

variable (hstart : t.start.isSome = true)
include hstart

theorem windowClose_of_run (hrun : d.runOf gp t.epoch = some (w, r)) :
    d.windowClose gp row =
      ((((windowClosed d w gp row r t).refillSwath w).endByLength w).pruneRuns w).tellSlots gp := by
  simp only [Dev.windowClose, hqueue, Option.isNone_eq_false_iff.mpr hstart, Bool.false_eq_true, if_false, hrun]
  rfl

/-- A token whose run has ended at a line boundary is taken off (R259). -/
theorem windowClose_of_ended (hrun : d.runOf gp t.epoch = none) (hswath : d.swathOf gp.val = some w) :
    d.windowClose gp row = (((dropLine d gp row).refillSwath w).pruneRuns w).tellSlots gp := by
  simp only [Dev.windowClose, hqueue, Option.isNone_eq_false_iff.mpr hstart, Bool.false_eq_true, if_false, hrun, hswath]
  rfl

end

/-- The sequence of a row ends, and the band of its next one is the port's (R259). -/
def endSequence (d : Dev) (gp : Fin 112) (row : RowId) : Dev :=
  d.modRow gp row fun q =>
    { q with firing := false, busyUntil := none, dots := false, band := d.ports[gp].heat.band }

theorem lineBoundary_of_firing (hfiring : (d.ports[gp].row row).firing = true) :
    d.lineBoundary m gp row = (((endSequence d gp row).afterStop gp).tellSlots gp).openWindow m gp := by
  simp only [Dev.lineBoundary, if_pos hfiring]
  rfl

end

section
variable {s : State} {gp : Fin 112} {row : RowId} {d : Dev}

theorem exec_rowLineProcess (h : s.dev.rowProcess s.banks gp row = d) :
    exec (.rowLineProcess gp row) s = .next { s with dev := d } :=
  onDev_of_eq (g := fun s => s.dev.rowProcess s.banks gp row) h

theorem exec_lineStart (h : s.dev.lineStart s.banks gp row = d) :
    exec (.lineStart gp row) s = .next { s with dev := d } :=
  onDev_of_eq (g := fun s => s.dev.lineStart s.banks gp row) h

theorem exec_fireWindowClose (h : s.dev.windowClose gp row = d) :
    exec (.fireWindowClose gp row) s = .next { s with dev := d } :=
  onDev_of_eq (g := fun s => s.dev.windowClose gp row) h

end

/-- Settles O48: each moment takes the token that the row's queue holds for it, by what the part finds of its line then;
E(L) is S(L) put off, never brought forward. -/
theorem firingRowsComplete : Obligations.FiringRowsComplete := by
  refine ⟨?process, ?commit, ?start, ?close, ?ended, ?boundary⟩
  case process =>
    intro s gp row w r t d y hready hrun hd hy
    subst hd hy
    have hprocess := exec_rowLineProcess (rowProcess_of_ready hready hrun)
    refine ⟨fun hsound => ?sound, fun hdata hbad => ?spoilt⟩
    case sound =>
      rw [if_neg fun ⟨hdata, hbad⟩ =>
        hsound.elim (fun hpattern => Option.isSome_iff_ne_none.mp hpattern hdata) hbad] at hprocess
      exact hprocess
    case spoilt =>
      rw [if_pos ⟨hdata, hbad⟩] at hprocess
      exact hprocess
  case commit =>
    intro s gp row w r t pred full skip d hopen hrun hforward hpred hdue hfull hskip hd reached
    subst hpred hfull hskip hd
    exact onDev_of_eq (g := fun s => s.dev.lineCommit s.banks gp row reached)
      (lineCommit_of_due hopen hrun hforward hdue)
  case start =>
    intro s gp row w r t ts x hqueue hrun hstart hstarted hblanked hmissed hidle hforward
    have hfree : lineHeld s.dev w gp row t = false := by
      simp only [lineHeld, hstarted, hblanked, hmissed, hidle, hforward, Bool.or_self]
    refine ⟨fun hpass => ?passed, fun e hpass hearliest hwindow => ⟨le_of_earliest hearliest, ?timely⟩⟩
    case passed => exact exec_lineStart (lineStart_of_passed hqueue hrun hstart hfree hpass)
    case timely =>
      have hline := lineStart_of_timely (m := s.banks) hqueue hrun hstart hfree hpass hearliest hwindow
      exact ⟨fun hcool => exec_lineStart (hline.trans (if_neg (Bool.eq_false_iff.mp hcool))),
        fun hhot => exec_lineStart (hline.trans (if_pos hhot))⟩
  case close =>
    intro s gp row w r t ts d d2 hqueue hrun hstart hd hd2
    subst hd hd2
    exact exec_fireWindowClose (windowClose_of_run hqueue hstart hrun)
  case ended =>
    intro s gp row w t ts d hqueue hrun hswath hstart hd
    subst hd
    exact exec_fireWindowClose (windowClose_of_ended hqueue hstart hrun hswath)
  case boundary =>
    intro s gp row d hfiring hd
    subst hd
    exact onDev_of_eq (g := fun s => s.dev.lineBoundary s.banks gp row) (lineBoundary_of_firing hfiring)

end Sys2Proof.Laws
end

section
/-! SUPPORT. Background pieces, scan elements and conversions (R275 to R299): what each does to the part once the window
has been looked at. -/

namespace Sys2Proof.Laws

open Machine

section
variable {d c : Dev} {m : Banks} {gp : Fin 112}

@[simp] theorem closeWindow_sys : (d.closeWindow m gp).sys = d.sys := by
  unfold Dev.closeWindow
  split
  · exact Dev.modPort_sys d gp _
  · rfl

theorem foldl_emit_sys {α : Type} (f : Dev → α → Emission) (l : List α) (d : Dev) :
    (l.foldl (fun x a => x.emit (f x a)) d).sys = d.sys := by
  induction l generalizing d with
  | nil => rfl
  | cons a l ih => exact (ih _).trans (Dev.emit_sys d _)

theorem emit_modPort (e : Emission) (f : Port → Port) : (d.modPort gp f).emit e = (d.emit e).modPort gp f := rfl

/-! ## Keep-warm pieces -/

/-- Every healthy nozzle of a port's rows gets one pulse on the 250 ps grid (R288). -/
def warmPulses (d : Dev) (m : Banks) (gp : Fin 112) : Dev :=
  d.ports[gp].rowIds.foldl (fun x row => x.emit (.keepWarm gp.val row
    (d.ports[gp].slotPlan row (d.fireGrid gp) 0 d.ports[gp].keepWarmSlot [(0, 0, d.ports[gp].heat.keepWarmNs.toNat)]
      (m.pieceRow gp.val d.ports[gp] row 1 fun _ => true)))) d

theorem warmPulses_sys : (warmPulses d m gp).sys = d.sys := foldl_emit_sys _ _ d

/-- A keep-warm piece goes out, and its period starts over. -/
theorem keepWarmPiece_of_due (hc : c = d.closeWindow m gp) (hfree : c.pieceFree gp = true)
    (hdue : c.keepWarmDue gp = true) (hspit : c.spitDue gp = false)
    (hfits : c.fits m gp (c.ports[gp].slotsPerPhase * c.ports[gp].keepWarmSlot) = true) :
    d.keepWarmPiece m gp = ((warmPulses c m gp).startPiece gp false c.ports[gp].keepWarmSlot
      (c.ports[gp].slotsPerPhase * c.ports[gp].keepWarmSlot) 1).modPort gp fun p =>
        { p with heat := { p.heat with kwLast := some d.sys.now } } := by
  have hnow : (warmPulses c m gp).sys.now = d.sys.now := by rw [warmPulses_sys, hc, closeWindow_sys]
  rw [← hnow]
  simp only [Dev.keepWarmPiece, ← hc, hfree, hdue, hspit, hfits, Bool.not_false, Bool.and_self, if_true]
  rfl

/-! ## Spit bursts -/

/-- The line of a burst with the piece `z` goes out on the port's rows (R289). -/
def spitPulses (rows : List RowId) (d : Dev) (m : Banks) (gp : Fin 112) (z : Piece) : Dev :=
  rows.foldl (fun x row => x.emit (.spit gp.val row (spitLevel z.pattern.toNat)
    (x.spitRow m gp z.lineAt z.pattern.toNat row))) d

/-- A line of a burst is counted, and one fewer is left. -/
def countSpit (d : Dev) (gp : Fin 112) : Dev :=
  d.modPort gp fun p => { p with heat := { p.heat with
    spits := satInc p.heat.spits, spitLeft := p.heat.spitLeft - 1 } }

theorem spitLine_of_piece {z : Piece} (hpiece : d.ports[gp].piece = some z) :
    d.spitLine m gp = countSpit (spitPulses d.ports[gp].rowIds d m gp z) gp := by
  simp only [Dev.spitLine, hpiece]
  rfl

/-- Lines of the burst that is due: those of a new one, or those left of one that did not fit (R289). -/
def burstLines (p : Port) : Nat :=
  if p.heat.spitLeft = 0 then spitLines p.heat.spitPattern.toNat else p.heat.spitLeft

/-- The piece of a burst that starts with `k` lines, on the 250 ps grid. -/
def burstPiece (d : Dev) (gp : Fin 112) (k : Nat) : Piece :=
  { spit := true, start := d.fireGrid gp, pattern := d.ports[gp].heat.spitPattern, lineAt := d.fireGrid gp
    slotNs := d.ports[gp].slotNs, lineNs := d.ports[gp].tmin
    stop := d.fireGrid gp + ((k * d.ports[gp].tmin : Nat) : Rat) }

/-- A burst has started with the piece `z`; the period of a new one starts over (R289). -/
def beginBurst (d : Dev) (gp : Fin 112) (z : Piece) : Dev :=
  d.modPort gp fun q => { q.endPiece with
    piece := some z
    heat := { q.endPiece.heat with
      spitLeft := burstLines d.ports[gp], spitDone := true
      spitLast := if d.ports[gp].heat.spitLeft = 0 then some d.sys.now else q.endPiece.heat.spitLast } }

theorem beginBurst_piece (z : Piece) : (beginBurst d gp z).ports[gp].piece = some z := by
  simp [beginBurst]

theorem beginBurst_rowIds (z : Piece) : (beginBurst d gp z).ports[gp].rowIds = d.ports[gp].rowIds := by
  simp [beginBurst, Port.rowIds, Port.endPiece]

/-- A burst starts with the first of the lines that fit. -/
theorem spitBurst_of_due {k : Nat} (hc : c = d.closeWindow m gp) (hfree : c.pieceFree gp = true)
    (hdue : c.spitDue gp = true) (hk : k = c.spitFit m gp (burstLines c.ports[gp])) (hfits : k ≠ 0) :
    d.spitBurst m gp = countSpit
      (spitPulses c.ports[gp].rowIds (beginBurst c gp (burstPiece c gp k)) m gp (burstPiece c gp k)) gp := by
  have hbegin : d.spitBurst m gp = (beginBurst c gp (burstPiece c gp k)).spitLine m gp := by
    unfold burstLines at hk
    simp only [Dev.spitBurst, ← hc, hfree, hdue, ← hk, if_neg hfits, Bool.not_true, Bool.or_self, Bool.false_eq_true,
      if_false, Dev.startPiece, Dev.modPort_modPort]
    rfl
  rw [hbegin, spitLine_of_piece (beginBurst_piece _), beginBurst_rowIds]

/-! ## Scan elements -/

/-- A scanning port whose element may start measures it. -/
theorem scanStep_of_measured {code : BitVec 14} {closed : Bool} (hc : c = d.closeWindow m gp)
    (hscan : c.ports[gp].scan.state = 1 ∨ (c.ports[gp].scan.state = 2 ∧ c.elementFree m gp = true))
    (hopen : closed = false ∨ c.ports[gp].scan.state = 1 ∨ c.alwaysOpen gp = true) :
    d.scanStep m gp code closed = c.scanElement m gp code.toNat := by
  simp only [Dev.scanStep, ← hc]
  rcases hscan with hfore | ⟨hback, hfree⟩
  · simp [-Fin.getElem_fin, hfore]
  · have hnot : (closed && !c.alwaysOpen gp) = false := by
      rcases hopen with hopen | hfore | hopen
      · simp [hopen]
      · exact absurd (hback.symm.trans hfore) (by decide)
      · simp [hopen]
    simp [-Fin.getElem_fin, hback, hfree, hnot]

/-- A window that closes on an element of a background scan abandons it. -/
theorem scanStep_of_abandoned {code : BitVec 14} (hc : c = d.closeWindow m gp) (hback : c.ports[gp].scan.state = 2)
    (hfree : c.elementFree m gp = true) (hopen : c.alwaysOpen gp = false) :
    d.scanStep m gp code true = (c.scanAbort gp, m) := by
  simp [-Fin.getElem_fin, Dev.scanStep, ← hc, hback, hfree, hopen]

/-- Abandoning is the element's word, then one change of the port: the window is over and the abort counted. -/
theorem scanAbort_eq : d.scanAbort gp =
    (d.emit (.testWord gp.val (BitVec.ofNat 16 (0x8000 + getF 0 14 d.ports[gp].scan.next)))).modPort gp fun p =>
      { p with
        heat := { p.heat with headland := false }
        scan := { p.scan with aborts := satInc p.scan.aborts } } := by
  simp only [Dev.scanAbort, emit_modPort, Dev.modPort_modPort]

/-! ## Conversions -/

/-- A conversion of a port that converts is kept, and its code decides what it is (R277, R278). -/
theorem tsnConversion_of_on {code : BitVec 14} (hon : d.ports[gp].on = true) (hheld : d.sys.held = false)
    (hmode : d.mode ≠ mFallow) (hport : d.hasPort gp.val = true)
    (hc : c = d.modPort gp fun p => { p with heat := { p.heat with code := code } }) :
    d.tsnConversion gp code =
      if 15292 ≤ code.toNat then c.badConversion gp true
      else if code.toNat ≤ 64 then c.badConversion gp false
      else c.goodConversion gp code.toNat := by
  simp only [Dev.tsnConversion, ← hc, hon, hheld, decide_eq_false hmode, hport, Bool.not_true, Bool.or_self,
    Bool.false_eq_true, if_false]

end

/-- Settles O49: a piece that is due and an element that may start go out; a conversion is what its code says. -/
theorem pieceRowsComplete : Obligations.PieceRowsComplete := by
  refine ⟨?warm, ?spit, ?measured, ?abandoned, ?conversion⟩
  case warm =>
    intro s gp d d2 p m slot hm hd hp hslot hfree hdue hspit hfits hd2
    subst hp hslot hd2 hm
    exact onDev_of_eq (g := fun s => s.dev.keepWarmPiece s.banks gp) (keepWarmPiece_of_due hd hfree hdue hspit hfits)
  case spit =>
    intro s gp d d2 d3 p m pat left k z hm hd hp hpat hfree hdue hleft hk hfits hz hd2 hd3
    subst hpat hp hleft hz hd2 hd3 hm
    exact onDev_of_eq (g := fun s => s.dev.spitBurst s.banks gp) (spitBurst_of_due hd hfree hdue hk hfits)
  case measured =>
    intro s gp code c x y b d d0 d1 hd0 hc hscan hd1 hb hx hy hd closed hopen
    subst hc hd1 hb hx hy hd
    exact onMem_of_pair (g := fun s => s.dev.scanStep s.mem gp code closed) (scanStep_of_measured hd0 hscan hopen)
  case abandoned =>
    intro s gp code d0 hd0 hback hfree hopen
    rw [← scanAbort_eq]
    exact onMem_of_eq (g := fun s => s.dev.scanStep s.mem gp code true) (scanStep_of_abandoned hd0 hback hfree hopen)
  case conversion =>
    intro s gp code d hon hheld hmode hport hd
    have hrow : exec (.tsnConversion gp code) s = .next { s with dev := _ } :=
      onDev_of_eq (g := fun s => s.dev.tsnConversion gp code) (tsnConversion_of_on hon hheld hmode hport hd)
    refine ⟨fun hvalid => ?valid, fun hlow => ?short, fun hhigh => ?opened⟩
    case valid => rw [hrow, if_neg (by have := hvalid.2; omega), if_neg (by have := hvalid.1; omega)]
    case short => rw [hrow, if_neg (by omega), if_pos hlow]
    case opened => rw [hrow, if_pos hhigh]

end Sys2Proof.Laws
end

section
/-! SUPPORT. No event, no detection of a source and no reaction to one touches the memory registers: which words are in
error (R417) stands through any of them. -/

namespace Sys2Proof.Laws

open Machine

theorem mr_foldl {α : Type} {f : Dev → α → Dev} (h : ∀ d a, (f d a).mr = d.mr) :
    ∀ (l : List α) (d : Dev), (l.foldl f d).mr = d.mr
  | [], _ => rfl
  | a :: l, d => (mr_foldl h l (f d a)).trans (h d a)

section
variable (d : Dev) (gp : Fin 112) (id : Nat)

@[simp] theorem occur_mr (cls : Fin 16) (kind source : Nat) (data : List Byte) :
    (d.occur cls kind source data).mr = d.mr := still_mr (still_occur cls kind source data)

@[simp] theorem answer_mr (p : Packet) (code offset : Nat) (ps : List Byte) :
    (d.answer p code offset ps).mr = d.mr := still_mr (still_answer p code offset ps)

@[simp] theorem raise_mr (v : Nat) : (d.raise v).mr = d.mr := still_mr (still_raise v)

@[simp] theorem enterMode_mr (m : BitVec 4) : (d.enterMode m).mr = d.mr := by
  obtain ⟨x, hx⟩ := setMode_eq d m
  rw [still_mr (still_enterMode m), hx, Dev.modSys_mr]

/-! ## Sources -/

@[simp] theorem unlatch_mr : (d.unlatch id).mr = d.mr := by simp [Dev.unlatch, apply_ite Dev.mr]

@[simp] theorem causeLeft_mr (was : Bool) : (d.causeLeft id was).mr = d.mr := by
  simp [Dev.causeLeft, apply_ite Dev.mr]

@[simp] theorem endCause_mr : (d.endCause id).mr = d.mr := causeLeft_mr _ id _

/-! ## Ports -/

@[simp] theorem setHpen_mr (v : Bool) : (d.setHpen gp v).mr = d.mr := by simp [Dev.setHpen, apply_ite Dev.mr]

@[simp] theorem abortScan_mr : (d.abortScan gp).mr = d.mr := by simp [Dev.abortScan, apply_ite Dev.mr]

@[simp] theorem portOff_mr : (d.portOff gp).mr = d.mr := by simp [Dev.portOff]

@[simp] theorem stopPiece_mr (unit : Piece → Nat) : (d.stopPiece gp unit).mr = d.mr := by
  unfold Dev.stopPiece
  cases d.ports[gp].piece <;> simp [apply_ite Dev.mr]

@[simp] theorem critHold_mr : (d.critHold gp).mr = d.mr := by
  unfold Dev.critHold
  cases d.critCut gp <;> simp [apply_ite Dev.mr]

@[simp] theorem containPort_mr (crit : Bool) : (d.containPort crit gp).mr = d.mr := by
  unfold Dev.containPort
  cases crit <;> simp

@[simp] theorem cutPort_mr : (d.cutPort gp).mr = d.mr := by
  simp only [Dev.cutPort, portOff_mr, Dev.modPort_mr, apply_ite Dev.mr, Dev.emit_mr, ite_self]

/-! ## Axes -/

@[simp] theorem taxOff_mr (n : Fin 4) : (d.taxOff n).mr = d.mr := endCause_mr _ _

@[simp] theorem taxKill_mr (n : Fin 4) : (d.taxKill n).mr = d.mr := by simp [Dev.taxKill, apply_ite Dev.mr]

@[simp] theorem taxStop_mr (n : Fin 4) : (d.taxStop n).mr = d.mr := by simp [Dev.taxStop, apply_ite Dev.mr]

@[simp] theorem auxUnpower_mr (n : Fin 8) : (d.auxUnpower n).mr = d.mr := by simp [Dev.auxUnpower, apply_ite Dev.mr]

@[simp] theorem auxOff_mr (n : Fin 8) : (d.auxOff n).mr = d.mr := auxUnpower_mr _ n

@[simp] theorem auxStop_mr (n : Fin 8) : (d.auxStop n).mr = d.mr := by simp [Dev.auxStop, apply_ite Dev.mr]

@[simp] theorem setBrk_mr (v : Bool) : (d.setBrk v).mr = d.mr := by simp [Dev.setBrk, apply_ite Dev.mr]

/-! ## Feeds, swaths and jobs -/

theorem dmaComplete_mr (c : Fin 32) : ∀ (n : Nat) (d : Dev), (Dev.dmaComplete c n d).mr = d.mr
  | 0, _ => rfl
  | n + 1, d => by
    unfold Dev.dmaComplete
    cases d.dma.ch[c].running <;> simp [dmaComplete_mr c n, apply_ite Dev.mr]

@[simp] theorem dmaSettle_mr (c : Fin 32) : (d.dmaSettle c).mr = d.mr := dmaComplete_mr c _ d

@[simp] theorem stopFeeds_mr : d.stopFeeds.mr = d.mr := mr_foldl (fun d c => by simp [apply_ite Dev.mr]) _ d

section
variable (s : Fin 16) (epoch lines : Nat)

@[simp] theorem endFeed_mr (ends : Bool) : (d.endFeed s epoch lines ends).mr = d.mr := by
  unfold Dev.endFeed
  extract_lets e
  have he : e.mr = d.mr := mr_foldl (fun d gp => Dev.modPort_mr d gp _) _ d
  cases e.feedOf s <;> simp [he]

@[simp] theorem dropTokens_mr : (d.dropTokens s epoch lines).mr = d.mr :=
  mr_foldl (fun d gp => Dev.modPort_mr d gp _) _ d

@[simp] theorem leaveRun_mr : (d.leaveRun s epoch).mr = d.mr :=
  mr_foldl (fun d gp => Dev.modPort_mr d gp _) _ d

@[simp] theorem settleSwath_mr : (d.settleSwath s).mr = d.mr := by
  simp [Dev.settleSwath, apply_ite Dev.mr, mr_foldl fun d k => leaveRun_mr d s k]

@[simp] theorem settleActive_mr : d.settleActive.mr = d.mr := by simp [Dev.settleActive, apply_ite Dev.mr]

@[simp] theorem endSwath_mr : (d.endSwath s).mr = d.mr := by simp [Dev.endSwath, apply_ite Dev.mr]

@[simp] theorem dropPending_mr : (d.dropPending s).mr = d.mr := by
  unfold Dev.dropPending
  cases d.swaths[s].pendingRun <;> simp

end

@[simp] theorem disarm_mr : d.disarm.mr = d.mr := by
  refine Eq.trans (b := d.disarmKeep.mr) rfl ?_
  unfold Dev.disarmKeep
  cases d.armed with
  | none => rfl
  | some a =>
    simp [mr_foldl fun d (w : WorkEntry) => answer_mr d w.packet stOk noField (le4 a.boundary.toNat),
      mr_foldl dropPending_mr]

/-! ## Reactions -/

@[simp] theorem overtake_mr : d.overtake.mr = d.mr :=
  (mr_foldl (fun d (w : WorkEntry) => answer_mr d w.packet stHalted noField []) _ _).trans rfl

@[simp] theorem stopActions_mr : d.stopActions.mr = d.mr := by
  have hpiece (d : Dev) (gp : Fin 112) :
      ((d.stopPiece gp fun x => x.lineNs).modPort gp Port.dropBurst).mr = d.mr := stopPiece_mr d gp _
  simp [Dev.stopActions, mr_foldl auxStop_mr, mr_foldl taxStop_mr, mr_foldl abortScan_mr, mr_foldl hpiece,
    mr_foldl endSwath_mr]

@[simp] theorem killActions_mr : d.killActions.mr = d.mr := by
  rw [Dev.killActions, stopActions_mr, Dev.killOutputs, mr_foldl auxOff_mr, setBrk_mr, Dev.modBus_mr,
    mr_foldl taxKill_mr, mr_foldl cutPort_mr, Dev.modFlt_mr]

@[simp] theorem containUnit_mr (u : FaultUnit) : (d.containUnit id u).mr = d.mr := by
  have hflits (e : Dev) : (Dev.containUnit.returnFlits e u).mr = e.mr := by cases u <;> rfl
  unfold Dev.containUnit
  extract_lets new e
  have he : e.mr = d.mr := by simp [e, apply_ite Dev.mr]
  have hports (e : Dev) (l : List (Fin 112)) (crit : Bool) : (l.foldl (Dev.containPort · crit) e).mr = e.mr :=
    mr_foldl (fun d gp => containPort_mr d gp crit) l e
  cases u <;> simp [apply_ite Dev.mr, hports, hflits, he, mr_foldl critHold_mr]

@[simp] theorem foldl_containUnit_mr (us : List FaultUnit) : (us.foldl (Dev.containUnit · id) d).mr = d.mr :=
  mr_foldl (fun d u => containUnit_mr d id u) us d

@[simp] theorem react_mr (k : Nat) (us : List FaultUnit) : (d.react id k us).mr = d.mr := by
  simp [Dev.react, apply_ite Dev.mr]

@[simp] theorem collect_mr (k : Nat) (forced : Bool) (us : List FaultUnit) :
    (d.collect id k forced us).mr = d.mr := by
  unfold Dev.collect
  cases d.flt.reaction <;>
    simp only [apply_ite Dev.mr, foldl_containUnit_mr, react_mr, occur_mr, Dev.modFlt_mr, ite_self]

/-! ## Detections -/

@[simp] theorem wakeFrom_mr (source : BitVec 4) (ready : Bool) : (d.wakeFrom source ready).mr = d.mr := by
  simp [Dev.wakeFrom, apply_ite Dev.mr]

@[simp] theorem detectCore_mr (forced : Bool) (floor : Nat) (info : Option Nat) :
    (d.detectCore id forced floor info).mr = d.mr := by
  simp [Dev.detectCore, Dev.faultWake, apply_ite Dev.mr]

@[simp] theorem checkOvf_mr : d.checkOvf.mr = d.mr := by simp [Dev.checkOvf, apply_ite Dev.mr]

@[simp] theorem detect_mr : (d.detect id).mr = d.mr := by
  simp [Dev.detect, Dev.detectInfo, apply_ite Dev.mr]

end

end Sys2Proof.Laws
end

section
/-! SUPPORT. While no word is in error, bytes written to plain memory are stored whole and read back (R417):
correcting a single-bit error on the way puts no word in error. -/

namespace Sys2Proof.Laws

open Machine

/-- Bytes written are read back. -/
theorem memGets_memPuts_same (d : Blank) (bs : List Byte) : ∀ (m : List Host.Cell) (a : Nat), memWf d m = true →
    memGets d (memPuts d m a bs) a bs.length = bs := by
  induction bs with
  | nil => exact fun _ _ _ => rfl
  | cons b bs ih =>
    intro m a h
    have hput := memWf_memPut d m a b h
    have hhead : memGet d (memPuts d (memPut d m a b) (a + 1) bs) a = b := by
      rw [memGet_memPuts_other d bs _ _ _ hput (.inl a.lt_succ_self), memGet_memPut_same d m a b h]
    rw [memPuts, List.length_cons, memGets, hhead, ih _ _ hput]

theorem Banks.bytes_puts (m : Banks) (a : Nat) (bs : List Byte) (h : m.wf = true) :
    (m.puts a bs).bytes a bs.length = bs := by
  simp only [Banks.wf, Bool.and_eq_true] at h
  exact memGets_memPuts_same _ bs _ a h.1

/-- Bytes that `putRange` does not name read as before. -/
theorem bytes_putRange (d : Dev) (m : Banks) (a : Nat) (bs : List Byte) (h : m.wf = true) : ∀ n x : Nat,
    x + n ≤ a ∨ a + bs.length ≤ x → (putRange d m a bs).2.bytes x n = m.bytes x n
  | 0, _, _ => rfl
  | n + 1, x, hx =>
    congrArg₂ List.cons (byte_putRange d m a x bs h (by omega)) (bytes_putRange d m a bs h n (x + 1) (by omega))

section
variable {d : Dev}

@[simp] theorem correct_badWords (w : Nat × Nat × Nat) : (d.correct w).mr.badWords = d.mr.badWords := by
  simp [Dev.correct, Dev.memCe]

@[simp] theorem ceIn_badWords (a n : Nat) : (d.ceIn a n).mr.badWords = d.mr.badWords :=
  List.foldlRecOn (motive := fun e => e.mr.badWords = d.mr.badWords) _ Dev.correct rfl
    fun _ he w _ => (correct_badWords w).trans he

theorem badAt_of_noBadWords (h : d.mr.badWords = []) (a : Nat) : d.badAt a = false := by
  simp [Dev.badAt, h]

/-- The ends of the range that `putRange` would drop are those of words in error. -/
theorem putRange_of_noBadWords (m : Banks) (a : Nat) (bs : List Byte) (h : d.mr.badWords = []) :
    (putRange d m a bs).2 = m.puts a bs := by
  unfold putRange
  extract_lets n d1 d2 head z tail drop d3 d4
  have h1 : d1.mr.badWords = [] := by unfold d1; split <;> simp [h]
  have h2 : d2.mr.badWords = [] := by unfold d2; split <;> simp [h1]
  have hhead : head = 0 := by simp [head, badAt_of_noBadWords h2]
  have htail : tail = 0 := by simp [tail, badAt_of_noBadWords h2]
  simp [hhead, htail, n]

end

end Sys2Proof.Laws
end

section
/-! SUPPORT. The raw value of a code, and the raw entry that an element of a foreground scan leaves (R293, R299). -/

namespace Sys2Proof.Laws

open Machine

/-! ## The conversion -/

theorem rawOf_of_compliance {code : Nat} (h : 15292 ≤ code) : rawOf code = 0xFFFF := if_pos h

/-- The quotient that `rawOf` takes is the whole number nearest to c × 15,000 ÷ 32,768, a half rounded up. -/
theorem rawOf_of_nearest {code r : Nat} (hcode : code < 15292) (hlow : (2 * r - 1) * 32768 ≤ 2 * (code * 15000))
    (hhigh : 2 * (code * 15000) < (2 * r + 1) * 32768) : rawOf code = max 1 r := by
  have hround : (code * 15000 + 16384) / 32768 = r := by omega
  rw [rawOf, if_neg (by omega), hround]

/-- The greatest code below compliance gives 7,000. -/
theorem nearest_le {code r : Nat} (hcode : code < 15292) (hlow : (2 * r - 1) * 32768 ≤ 2 * (code * 15000)) :
    r ≤ 7000 := by omega

/-! ## The entry -/

section
variable {d : Dev} {m : Banks} {gp : Fin 112}

@[simp] theorem closeWindow_mr : (d.closeWindow m gp).mr = d.mr := by simp [Dev.closeWindow, apply_ite Dev.mr]

@[simp] theorem closeWindow_scan : (d.closeWindow m gp).ports[gp].scan = d.ports[gp].scan := by
  unfold Dev.closeWindow
  split <;> simp

/-- The raw entry of an element lies above every map byte of its die. -/
theorem mapAddr_lt_rawAddr {n k : Nat} (hn : n < 10240) : mapAddr gp.val n < rawAddr gp.val k := by
  unfold mapAddr rawAddr
  omega

theorem scanElement_raw {n : Nat} (code : Nat) (hnext : d.ports[gp].scan.next = n) (hn : n < 10240)
    (hbad : d.mr.badWords = []) (hwf : m.wf = true) :
    (d.scanElement m gp code).2.bytes (rawAddr gp.val n) 2 = leBytes 2 (rawOf code) := by
  subst hnext
  simp only [Dev.scanElement]
  rw [bytes_putRange _ _ _ _ (wf_putRange _ _ _ _ hwf) _ _ (.inr (mapAddr_lt_rawAddr hn)),
    putRange_of_noBadWords _ _ _ (by simpa using hbad)]
  exact Banks.bytes_puts m _ (leBytes 2 (rawOf code)) hwf

theorem exec_scanElement_of_foreground (s : State) (code : BitVec 14) (closed : Bool)
    (hfore : s.dev.ports[gp].scan.state = 1) :
    ∃ e, exec (.scanElement gp code closed) s =
      .next { s with dev := e, mem := ((s.dev.closeWindow s.mem gp).scanElement s.mem gp code.toNat).2 } := by
  have hscan : (s.dev.closeWindow s.mem gp).ports[gp].scan.state = 1 := by rw [closeWindow_scan, hfore]
  exact ⟨_, onMem_of_pair (g := fun s => s.dev.scanStep s.mem gp code closed)
    (scanStep_of_measured rfl (.inl hscan) (.inr (.inl hscan)))⟩

end

/-- Settles O18: below compliance a code gives the nearest whole number, which a foreground scan stores; a cold start
leaves the raw entries blank. -/
theorem rawValueOfCode : Obligations.RawValueOfCode := by
  refine ⟨fun c => ⟨rawOf_of_compliance, fun r hcode hlow hhigh => ?value⟩, ?entry, ?blank⟩
  case value =>
    have hmax := nearest_le hcode hlow
    exact ⟨rawOf_of_nearest hcode hlow hhigh, le_max_left 1 r, max_le (by omega) hmax⟩
  case entry =>
    intro s gp c closed n hfore hnext hn hbad hwf
    obtain ⟨e, hexec⟩ := exec_scanElement_of_foreground s c closed hfore
    have hnext' : (s.dev.closeWindow s.mem gp).ports[gp].scan.next = n := by rw [closeWindow_scan, hnext]
    exact ⟨_, hexec, scanElement_raw c.toNat hnext' hn (by rw [closeWindow_mr, hbad]) hwf⟩
  case blank =>
    intro s t c hheld hporst hexec gp _ n hn
    rw [exec_coldStart, execColdStart_of_held c hheld hporst] at hexec
    obtain rfl := Host.Outcome.next.inj hexec
    obtain ⟨-, hlow, hhigh⟩ := blank_maps_and_raw (gp := gp) hn
    exact congrArg₂ (fun x y => [x, y]) hlow hhigh

end Sys2Proof.Laws
end

section
/-! SUPPORT. What a command can do at all: one case split over the rows says of each which part of the state it reaches,
that the memory it leaves is canonical and that the OTP array it leaves keeps every solid 1. -/

namespace Sys2Proof.Laws

open Machine

/-! ## Memory commands -/

/-- Every result of a body that commits leaves a canonical memory. -/
def OkWf (r : Chk (Dev × Banks × Finish)) : Prop := ∀ d m f, r = .ok (d, m, f) → m.wf = true

theorem okWf_pure {d : Dev} {m : Banks} {f : Finish} (h : m.wf = true) : OkWf (pure (d, m, f)) := by
  rintro _ _ _ ⟨⟩
  exact h

/-- The checks of a body do not touch the memory. -/
theorem okWf_bind {α : Type} {x : Chk α} {f : α → Chk (Dev × Banks × Finish)} (h : ∀ a, OkWf (f a)) : OkWf (x >>= f) := by
  cases x with
  | error e => rintro _ _ _ ⟨⟩
  | ok a => exact h a

/-- A memory command keeps the memory canonical if its body does: what is refused or not taken writes nothing. -/
theorem wf_cmdMem {sp : CmdSpec} {body : Ctx → Chk (Dev × Banks × Finish)} {p : Packet} {s : State}
    (hbody : ∀ c : Ctx, c.s.mem.wf = true → OkWf (body c)) (h : s.mem.wf = true) : (cmdMem sp body p s).2.wf = true := by
  simp only [cmdMem, runCmd]
  split
  · exact h
  · split
    · exact h
    · split
      · exact h
      · next hok =>
        split
        · exact hbody ⟨{ s with dev := (s.dev.take (sp.packet p)).1 }, _, _⟩ h _ _ _ hok
        · exact h

theorem wf_modifyRun (rows : OtpRows) (priv : Bool) (ps : List Byte) (d : Dev) (m : Banks) (h : m.wf = true) :
    (modifyRun rows priv ps d m).2.1.wf = true :=
  wf_busWrite _ _ _ _ _ _ _ _ _ (wf_settle _ _ _ _ h)

section
variable {c : Ctx} (h : c.s.mem.wf = true)
include h

theorem okWf_readWords : OkWf (readWordsCmd c) :=
  okWf_bind fun _ => okWf_bind fun _ => okWf_bind fun _ => okWf_bind fun _ => okWf_bind fun _ => okWf_bind fun _ =>
    okWf_pure (wf_busReads _ _ _ _ _ _ _ h)

theorem okWf_writePairs : OkWf (writePairsCmd c) :=
  okWf_bind fun _ => okWf_bind fun _ => okWf_bind fun _ => okWf_pure (wf_writeWords _ _ _ _ _ h)

theorem okWf_modifyWord : OkWf (modifyWordCmd c) := by
  refine okWf_bind fun _ => okWf_bind fun _ => okWf_bind fun _ => ?_
  split
  · exact okWf_pure h
  · exact okWf_pure (wf_modifyRun _ _ _ _ _ h)

theorem okWf_writeBlock : OkWf (writeBlockCmd c) :=
  okWf_bind fun _ => okWf_bind fun _ => okWf_bind fun _ => okWf_bind fun _ => okWf_bind fun _ => okWf_bind fun _ =>
    okWf_bind fun _ => okWf_pure (wf_writeWords _ _ _ _ _ h)

theorem okWf_jobWrite : OkWf (jobWriteCmd c) :=
  okWf_bind fun _ => okWf_bind fun _ => okWf_bind fun _ => okWf_bind fun _ => okWf_pure (wf_putRange _ _ _ _ h)

theorem okWf_waveWrite : OkWf (waveWriteCmd c) :=
  okWf_bind fun _ => okWf_bind fun _ => okWf_bind fun _ => okWf_bind fun _ => okWf_bind fun _ => okWf_bind fun _ =>
    okWf_bind fun _ => okWf_bind fun _ => okWf_pure (wf_putRange _ _ _ _ h)

theorem okWf_mapEditRun : OkWf (mapEditRunCmd c) :=
  okWf_bind fun _ => okWf_bind fun _ => okWf_bind fun _ => okWf_bind fun _ => okWf_pure (wf_mapEdits _ _ _ _ _ h)

theorem okWf_mapEditList : OkWf (mapEditListCmd c) :=
  okWf_bind fun _ => okWf_bind fun _ => okWf_bind fun _ => okWf_bind fun _ => okWf_bind fun _ =>
    okWf_pure (wf_mapEdits _ _ _ _ _ h)

theorem okWf_calWrite : OkWf (calWriteCmd c) :=
  okWf_bind fun _ => okWf_bind fun _ => okWf_bind fun _ => okWf_bind fun _ => okWf_bind fun _ => okWf_bind fun _ =>
    okWf_bind fun _ => okWf_bind fun _ => okWf_pure (wf_putRange _ _ _ _ h)

theorem okWf_enterFallow : OkWf (enterFallowCmd c) :=
  okWf_bind fun _ => okWf_pure (wf_fallow _ _ _ h)

end

/-! ## Direct accesses, starts and the engines -/

section
variable {s : State} (h : s.mem.wf = true)
include h

theorem wf_directWin (w : Master) (a : Nat) (ws : List (Word × BitVec 4)) : (directWin w a ws s).2.wf = true := by
  unfold directWin
  extract_lets r
  split
  · exact h
  · split_ifs
    · exact h
    · exact h
    · exact wf_windowPost _ _ _ _ _ _ _ _ h

theorem wf_directRead (w : Master) (a : Nat) : (directRead w a s).2.wf = true := by
  unfold directRead
  extract_lets r
  split
  · exact h
  · split_ifs
    · exact h
    · exact h
    · exact wf_busRead _ _ _ _ _ _ h

omit h in
theorem wf_directReads (w : Master) (n : Nat) : ∀ (a : Nat) (s : State), s.mem.wf = true →
    (directReads w n a s).2.wf = true := by
  induction n with
  | zero => exact fun _ _ h => h
  | succ n ih => exact fun a s h => ih _ _ (wf_directRead h w a)

theorem wf_busReadCmd (w : Master) (r : BusRead) : (busReadCmd w r s).2.wf = true := by
  unfold busReadCmd
  extract_lets a
  split_ifs
  · exact h
  · exact wf_directReads _ _ _ _ h
  · exact wf_directRead h _ _
  · exact h

theorem wf_spiRegWrite (a v : Nat) : (spiRegWrite a v s).2.wf = true := by
  unfold spiRegWrite
  extract_lets quiet d t
  split
  · exact wf_directWin (s := t) h _ _ _
  · exact h

end

section
variable {d : Dev} {m : Banks} (h : m.wf = true)
include h

theorem wf_scanElement (gp : Fin 112) (code : Nat) : (d.scanElement m gp code).2.wf = true :=
  wf_putRange _ _ _ _ (wf_putRange _ _ _ _ h)

theorem wf_scanStep (gp : Fin 112) (code : BitVec 14) (closed : Bool) : (d.scanStep m gp code closed).2.wf = true := by
  unfold Dev.scanStep
  extract_lets d c
  split_ifs
  · exact h
  · exact h
  · exact h
  · exact wf_scanElement h _ _

theorem wf_dmaWriteBeat (c : Fin 32) : (d.dmaWriteBeat m c).2.wf = true := by
  unfold Dev.dmaWriteBeat
  extract_lets e
  split
  · split
    · exact h
    · exact wf_writeBeat _ _ _ _ h
  · exact h

theorem wf_warmRow (rows : OtpRows) (w : WarmStart) : (d.warmRow m rows w).2.wf = true := by
  unfold Dev.warmRow
  split
  · exact h
  · split
    · exact h
    · exact Banks.wf_clear _ _ h

theorem wf_refBack (rows : OtpRows) (ft : Bool) : (d.refBack m rows ft).2.wf = true := by
  unfold Dev.refBack
  extract_lets e
  split
  · split
    · rfl
    · exact h
  · exact h

/-! ## Executions of the OTP controller -/

theorem wf_resumeOne (rows : OtpRows) (e : WorkEntry) : (resumeOne rows (d, m) e).2.wf = true := by
  unfold resumeOne
  split
  · exact wf_writeWords _ _ _ _ _ h
  · split
    · exact h
    · exact wf_modifyRun _ _ _ _ _ h
  · exact h

omit h in
theorem wf_resumeAll (rows : OtpRows) (es : List WorkEntry) : ∀ x : Dev × Banks, x.2.wf = true →
    (es.foldl (resumeOne rows) x).2.wf = true := by
  induction es with
  | nil => exact fun _ h => h
  | cons e es ih => exact fun _ h => ih _ (wf_resumeOne h rows e)

theorem wf_otpIdle (x : Dev × OtpRows) : (otpIdle x m).2.1.wf = true := by
  unfold otpIdle
  split
  · exact h
  · exact wf_resumeAll _ _ _ h

end

/-- The commands that go on once the controller is free burn nothing. -/
theorem otpIdle_rows (x : Dev × OtpRows) (m : Banks) : (otpIdle x m).2.2 = x.2 := by
  unfold otpIdle
  split <;> rfl

/-- The request that the controller executes clears no solid 1 of the array (R396, R397). -/
theorem keepsAll_otpProgramExecute (burns : List Burn) (second : Burn) (s : State) :
    KeepsAll s.rows (otpProgramExecute burns second s).2 := by
  unfold otpProgramExecute
  extract_lets t
  split
  · split
    · exact keepsAll_refl _
    · exact keepsAll_programRow _ _ _ _ _
  · exact keepsAll_refl _

theorem keepsAll_otpFinaliseExecute (burns : List Burn) (s : State) :
    KeepsAll s.rows (otpFinaliseExecute burns s).2 := by
  unfold otpFinaliseExecute
  extract_lets t
  split
  · extract_lets r
    split
    · exact keepsAll_refl _
    · exact keepsAll_finaliseRun _ _ _ _ _
  · exact keepsAll_refl _

/-! ## Every row -/

/-- The two rows in which the OTP controller runs a request (R396, R402). -/
def IsOtpExecution (c : Instr) : Prop := (∃ burns m, c = .otpProgramExecute burns m) ∨ ∃ burns, c = .otpFinaliseExecute burns

/-- What the outcome of a command can be: a change of the device, one of device and memory that keeps the memory canonical,
an execution of the OTP controller, which also keeps every solid 1 of the array, or the refusal of the TAP instruction that
has no meaning. -/
inductive Acts (c : Instr) (s : State) : Out → Prop
  | dev (f : State → Dev) : Acts c s (onDev f s)
  | mem (f : State → Dev × Banks) (hmay : mayWriteMemory c = true) (hwf : s.mem.wf = true → (f s).2.wf = true) :
      Acts c s (onMem f s)
  | otp (f : State → Dev × Banks × OtpRows) (hmay : mayWriteMemory c = true) (hotp : IsOtpExecution c)
      (hwf : s.mem.wf = true → (f s).2.1.wf = true) (hkeeps : KeepsAll s.rows (f s).2.2) : Acts c s (onAll f s)
  | vendorTap (n : Nat) (hcmd : c = .jtagTapAccess (.other n)) (hlive : s.dev.tmxLive = true) :
      Acts c s (.refused .vendorJtagInstruction)

theorem jtagTapAccess_acts (op : JtagOp) (s : State) : Acts (.jtagTapAccess op) s (execJtagTapAccess op s) := by
  unfold execJtagTapAccess
  split
  · split
    · next hlive => exact .vendorTap _ rfl hlive
    · exact .dev _
  · exact .dev _

theorem otpProgramExecute_acts (burns : List Burn) (second : Burn) (s : State) :
    Acts (.otpProgramExecute burns second) s (execOtpProgramExecute burns second s) := by
  refine .otp _ rfl (.inl ⟨_, _, rfl⟩) (fun h => wf_otpIdle h _) ?_
  rw [otpIdle_rows]
  exact keepsAll_otpProgramExecute burns second s

theorem otpFinaliseExecute_acts (burns : List Burn) (s : State) :
    Acts (.otpFinaliseExecute burns) s (execOtpFinaliseExecute burns s) := by
  refine .otp _ rfl (.inr ⟨_, rfl⟩) (fun h => wf_otpIdle h _) ?_
  rw [otpIdle_rows]
  exact keepsAll_otpFinaliseExecute burns s

/-- Every command is one of these. -/
theorem exec_acts (c : Instr) (s : State) : Acts c s (exec c s) := by
  unfold exec
  cases c
  case jtagTapAccess op => exact jtagTapAccess_acts op s
  case otpProgramExecute burns second => exact otpProgramExecute_acts burns second s
  case otpFinaliseExecute burns => exact otpFinaliseExecute_acts burns s
  case coldStart => exact .mem _ rfl fun h => by split; exacts [rfl, h]
  case railsInRange => exact .mem _ rfl fun h => by split; exacts [rfl, h]
  case warmStart => exact .mem _ rfl fun h => wf_warmRow h _ _
  case referenceRestored => exact .mem _ rfl fun h => wf_refBack h _ _
  case spiRegRead => exact .mem _ rfl fun h => wf_directRead h _ _
  case spiRegWrite => exact .mem _ rfl fun h => wf_spiRegWrite h _ _
  case posChCountRead => exact .mem _ rfl fun h => wf_directRead h _ _
  case latchingRegisterRead => exact .mem _ rfl fun h => wf_busReadCmd h _ _
  case aliasWrite => exact .mem _ rfl fun h => by split; exacts [wf_directWin h _ _ _, h]
  case memoryWindowWrite => exact .mem _ rfl fun h => wf_directWin h _ _ _
  case postedWriteEffect => exact .mem _ rfl fun h => wf_blockEffect _ _ _ _ h
  case dmaWriteBeat => exact .mem _ rfl fun h => wf_dmaWriteBeat h _
  case scanElement => exact .mem _ rfl fun h => wf_scanStep h _ _ _
  case readWords => exact .mem _ rfl (wf_cmdMem fun _ => okWf_readWords)
  case writePairs => exact .mem _ rfl (wf_cmdMem fun _ => okWf_writePairs)
  case modifyWord => exact .mem _ rfl (wf_cmdMem fun _ => okWf_modifyWord)
  case writeBlock => exact .mem _ rfl (wf_cmdMem fun _ => okWf_writeBlock)
  case jobWrite => exact .mem _ rfl (wf_cmdMem fun _ => okWf_jobWrite)
  case waveWrite => exact .mem _ rfl (wf_cmdMem fun _ => okWf_waveWrite)
  case mapEditRun => exact .mem _ rfl (wf_cmdMem fun _ => okWf_mapEditRun)
  case mapEditList => exact .mem _ rfl (wf_cmdMem fun _ => okWf_mapEditList)
  case calWrite => exact .mem _ rfl (wf_cmdMem fun _ => okWf_calWrite)
  case enterFallow => exact .mem _ rfl (wf_cmdMem fun _ => okWf_enterFallow)
  -- every other row changes the device alone
  all_goals exact .dev _

/-! ## What holds of every command and every step -/

section
variable {c : Instr} {s t : State}

/-- What a command that answers a next state leaves of the memory, the OTP array and the queue. -/
theorem exec_next (h : exec c s = .next t) :
    t.pending = s.pending ∧ (t.rows = s.rows ∨ IsOtpExecution c) ∧ (t.mem = s.mem ∨ mayWriteMemory c = true)
      ∧ (s.mem.wf = true → t.mem.wf = true) ∧ KeepsAll s.rows t.rows := by
  have hacts := exec_acts c s
  generalize exec c s = o at h hacts
  cases hacts with
  | dev f =>
    obtain ⟨-, hmem, hrows, hpending⟩ := onDev_next h
    exact ⟨hpending, .inl hrows, .inl hmem, fun hs => hmem ▸ hs, hrows ▸ keepsAll_refl _⟩
  | mem f hmay hwf =>
    obtain ⟨-, hmem, hrows, hpending⟩ := onMem_next h
    exact ⟨hpending, .inl hrows, .inr hmay, fun hs => hmem ▸ hwf hs, hrows ▸ keepsAll_refl _⟩
  | otp f hmay hotp hwf hkeeps =>
    obtain ⟨-, hmem, hrows, hpending⟩ := onAll_next h
    exact ⟨hpending, .inr hotp, .inr hmay, fun hs => hmem ▸ hwf hs, hrows ▸ hkeeps⟩
  | vendorTap => cases h

theorem step_of_front {rest : List Instr} (h : s.pending = c :: rest) : step s = exec c { s with pending := rest } := by
  rw [step, h]

/-- A step keeps the memory canonical and every solid 1 of the OTP array: the tick of an empty queue touches neither. -/
theorem step_next (h : step s = .next t) : (s.mem.wf = true → t.mem.wf = true) ∧ KeepsAll s.rows t.rows := by
  cases hp : s.pending with
  | nil =>
    obtain rfl := Host.Outcome.next.inj ((step_of_empty hp).symm.trans h)
    exact ⟨id, keepsAll_refl _⟩
  | cons c rest =>
    obtain ⟨-, -, -, hwf, hkeeps⟩ := exec_next ((step_of_front hp).symm.trans h)
    exact ⟨hwf, hkeeps⟩

end

/-- Settles O8: every operation that writes memory keeps it canonical. -/
theorem stepsKeepMemoryCanonical : Obligations.StepsKeepMemoryCanonical := fun _ _ hs h => (step_next h).1 hs

/-- Settles O9: only the controller's executions change the array, and burning only adds. -/
theorem otpBitsStayBurned : Obligations.OtpBitsStayBurned := fun _ _ row k h => (step_next h).2 row k

/-- Settles O4: every row is an operation on the state but the TAP, which stops at a vendor's instruction. -/
theorem everyCommandAnswers : Obligations.EveryCommandAnswers := by
  intro c s
  have hacts := exec_acts c s
  generalize exec c s = o at hacts
  cases hacts with
  | dev f => exact .inl (onDev_answers f s)
  | mem f => exact .inl (onMem_answers f s)
  | otp f => exact .inl (onAll_answers f s)
  | vendorTap n hcmd hlive => exact .inr ⟨rfl, hlive, n, hcmd⟩

/-- Settles O5: none of the shapes of a meaning changes the queue. -/
theorem commandsLeaveTheQueue : Obligations.CommandsLeaveTheQueue := fun _ _ _ h => (exec_next h).1

/-- Settles O6: the OTP array is in the reach of the two executions alone. -/
theorem onlyOtpExecutionsBurn : Obligations.OnlyOtpExecutionsBurn := by
  intro c s t h hprogram hfinalise
  obtain ⟨-, hrows, -⟩ := exec_next h
  refine hrows.resolve_right ?_
  rintro (⟨burns, m, hc⟩ | ⟨burns, hc⟩)
  · exact hprogram burns m hc
  · exact hfinalise burns hc

/-- Settles O7: the memory is in the reach of the named commands alone. -/
theorem onlyMemoryCommandsWrite : Obligations.OnlyMemoryCommandsWrite := by
  intro c s t h hmay
  obtain ⟨-, -, hmem, -⟩ := exec_next h
  exact hmem.resolve_right (by simp [hmay])

/-- Settles O1: a step runs the front of the queue. -/
theorem frontCommandRuns : Obligations.FrontCommandRuns := fun _ _ _ h => step_of_front h

/-- Settles O10: each row's codes and modes stand in its specification, and no pair of codes comes twice. -/
theorem commandTable : Obligations.CommandTable := by
  intro d
  have hcodes : (commandRows.map fun r => ((r.spec d).opcode, (r.spec d).variant)) =
      commandRows.map fun r => ((r.spec Dev.reset).opcode, (r.spec Dev.reset).variant) := rfl
  refine ⟨rfl, ?_, rfl⟩
  rw [hcodes]
  decide +kernel

end Sys2Proof.Laws
end

section
/-! SUPPORT. Direct accesses: which of its outcomes a write to a register has, what a read returns, what PF1 writes in BAR2
(R422 to R433, R443, R446, R447). -/

namespace Sys2Proof.Laws

open Machine

/-! ## Places -/

section
variable {a o b : Nat}

theorem eq_of_placeOf_register (h : placeOf a = .register o) : o = a ∧ isWindow a = false := by
  simp only [placeOf] at h
  split at h
  · simp only [Place.register.injEq] at h
    exact ⟨h.symm, by simp only [isWindow, Bool.and_eq_false_iff, decide_eq_false_iff_not]; omega⟩
  · split at h <;> cases h

theorem register_of_placeOf (h : placeOf a = .register o) : placeOf a = .register a := by
  obtain ⟨rfl, -⟩ := eq_of_placeOf_register h
  exact h

theorem word_of_reg? {d : Dev} {r : Reg} (h : d.reg? a = some r) : a % 4 = 0 := by
  by_contra hword
  rw [Dev.reg?, if_pos hword] at h
  cases h

theorem not_above_bar (h : a ≤ barTop) : ¬ barTop + 3 < a := by omega

end

/-! ## The outcomes of a write to a register -/

section
variable {rows : OtpRows} {w : Master} {priv : Bool} {d : Dev} {m : Banks} {a v : Nat} {r : Reg} (hreg : d.reg? a = some r)
include hreg

theorem regWrite_of_barred (hbars : r.bars w priv = true) : regWrite rows w priv false d m a v = (d.memPvDrop, m) := by
  simp only [regWrite, hreg, hbars, if_true]

variable (hbars : r.bars w priv = false)
include hbars

/-- A register that no block holds: stored at once, or left as it is where nothing of it can be written. -/
theorem regWrite_of_unposted (hblock : r.blockAt a = none) :
    regWrite rows w priv false d m a v = if r.rw = 0 then (d, m) else (d.store m a v, m) := by
  simp only [regWrite, hreg, hbars, hblock, Bool.false_eq_true, if_false]

variable {b : Block} (hblock : r.blockAt a = some b)
include hblock

theorem regWrite_of_busy (hbusy : d.blockBusy b = true) : regWrite rows w priv false d m a v = (d.memWpDrop, m) := by
  simp [regWrite, hreg, hbars, hblock, hbusy]

variable (hbusy : d.blockBusy b = false)
include hbusy

theorem regWrite_of_mdio (ha : a = 0x711C) (hmdio : d.eth.pendingMdio = true) :
    regWrite rows w priv false d m a v = (d.memWrDrop, m) := by
  subst ha
  simp [regWrite, hreg, hbars, hblock, hbusy, hmdio]

variable (hmdio : a ≠ 0x711C ∨ d.eth.pendingMdio = false)
include hmdio

theorem regWrite_of_readOnlyOtp (hrw : r.rw = 0) (hotp : b = .otp) : regWrite rows w priv false d m a v = (d, m) := by
  have hfree : ¬ (a = 0x711C ∧ d.eth.pendingMdio = true) := by
    rintro ⟨ha, hp⟩
    simp [ha, hp] at hmdio
  subst hotp
  simp [regWrite, hreg, hbars, hblock, hbusy, hfree, hrw]

theorem regWrite_of_posted (hrw : r.rw ≠ 0 ∨ b ≠ .otp) : regWrite rows w priv false d m a v =
    (d.post { block := b, master := w, privileged := priv, address := a, words := [(BitVec.ofNat 32 v, 0xF)] }, m) := by
  have hfree : ¬ (a = 0x711C ∧ d.eth.pendingMdio = true) := by
    rintro ⟨ha, hp⟩
    simp [ha, hp] at hmdio
  have hwritable : ¬ (r.rw = 0 ∧ b = .otp) := fun h => hrw.elim (· h.1) (· h.2)
  simp [regWrite, hreg, hbars, hblock, hbusy, hfree, hwritable, accept]

end

/-! ## Who may write -/

section
variable {r : Reg} {m : Master} {priv : Bool}

theorem bars_of_short (hpv : r.pv = true) (hpriv : priv = false) (hm : m ≠ .pf0 ∨ r.block = none) :
    r.bars m priv = true := by
  rcases hm with hm | hm <;> simp [Reg.bars, hpv, hpriv, hm]

theorem not_bars_of_entitled (h : r.pv = true → priv = true ∨ (m = .pf0 ∧ r.block ≠ none)) : r.bars m priv = false := by
  cases hpv : r.pv with
  | false => simp [Reg.bars, hpv]
  | true => rcases h hpv with hp | ⟨hm, hb⟩ <;> simp [Reg.bars, *, Option.isSome_iff_ne_none]

end

/-! ## A direct write of a word -/

section
variable {s : State} {m : Master} {d : Dev} {priv : Bool} {a v o b : Nat} {be : BitVec 4}
  (hr : s.dev.reach m true = (d, some priv)) (htop : a ≤ barTop)
include hr htop

theorem directReg_of_register {r : Reg} (hplace : placeOf a = .register o) (hreg : d.reg? a = some r) :
    directReg m a v 0xF s = (regWrite s.rows m priv false d s.mem a v).1 := by
  simp [directReg, hr, not_above_bar htop, register_of_placeOf hplace, busWrite, word_of_reg? hreg]

/-- A register takes aligned words with all byte enables only (R422). -/
theorem directReg_of_partial (hplace : placeOf a = .register o) (hbe : be ≠ 0xF) :
    directReg m a v be s = d.memWrDrop := by
  have hbe : ¬ be = 15#4 := hbe
  simp [directReg, hr, not_above_bar htop, hplace, busWrite, hbe]

theorem directReg_of_bitAlias (hplace : placeOf a = .bitAlias o b) (hword : a % 4 = 0) :
    directReg m a v 0xF s = (bitWrite s.rows m priv false d s.mem o b v).1 := by
  simp [directReg, hr, not_above_bar htop, hplace, busWrite, hword]

end

/-! ## One bit of a register (R433) -/

section
variable {rows : OtpRows} {w : Master} {priv : Bool} {d : Dev} {m : Banks} {o b v : Nat} {r : Reg} (hreg : d.reg? o = some r)
include hreg

theorem bitWrite_of_barred (hbars : r.bars w priv = true) : bitWrite rows w priv false d m o b v = (d.memPvDrop, m) := by
  simp only [bitWrite, hreg, hbars, if_true]

variable (hbars : r.bars w priv = false)
include hbars

theorem bitWrite_of_busy (hbusy : (r.blockAt o).any d.blockBusy = true) :
    bitWrite rows w priv false d m o b v = (d.memWpDrop, m) := by
  simp [bitWrite, hreg, hbars, hbusy]

variable (hbusy : (r.blockAt o).any d.blockBusy = false)
include hbusy

theorem bitWrite_of_readOnly (hrw : getB b r.rw = false) : bitWrite rows w priv false d m o b v = (d, m) := by
  simp [bitWrite, hreg, hbars, hbusy, hrw]

theorem bitWrite_of_writable {y : Dev × Banks} (hrw : getB b r.rw = true) (hy : y = settleReads rows w o d m) :
    bitWrite rows w priv false d m o b v = regWrite rows w priv false (y.1.heardReg y.2 o) y.2 o
      (Nat.lor (Nat.land (y.1.regShown y.2 o) (allBits - 2 ^ b)) (fld b 1 v)) := by
  simp [bitWrite, hreg, hbars, hbusy, hrw, hy]

end

/-! ## BAR2 of PF1 -/

section
variable {d e : Dev} {priv : Bool} {o : Nat} {v : Word} {be : BitVec 4}

theorem bar2Write_of_outside {m : Master} (h : m ≠ .pf1 ∨ 0x4000 ≤ o) : d.bar2Write m o v be = d :=
  if_pos (by simpa using h)

theorem bar2Write_of_sqTail {q : Fin 256} (ho : o = 8 * q.val) : d.bar2Write .pf1 o v 0xF = d.sqTail q v := by
  have hq : Fin.ofNat 256 (o / 8) = q := ofNat_of_eq_val (by omega)
  have hin : ¬ 0x4000 ≤ o ∧ o < 0x800 ∧ o % 4 = 0 ∧ o % 8 = 0 := by omega
  simp only [Dev.bar2Write, hq]
  simp [hin]

theorem bar2Write_of_cqHead {q : Fin 256} (ho : o = 8 * q.val + 4) : d.bar2Write .pf1 o v 0xF = d.cqHead q v := by
  have hq : Fin.ofNat 256 (o / 8) = q := ofNat_of_eq_val (by omega)
  have hin : ¬ 0x4000 ≤ o ∧ o < 0x800 ∧ o % 4 = 0 ∧ o % 8 = 4 := by omega
  simp only [Dev.bar2Write, hq]
  simp [hin]

/-- With all byte enables the word written takes the place of the old one. -/
theorem wholeWord (old : Nat) (v : Word) :
    Nat.lor (Nat.land old (allBits - beMask 0xF)) (Nat.land v.toNat (beMask 0xF)) = v.toNat := by
  have hmask : beMask 0xF = 2 ^ 32 - 1 := rfl
  have hnew : v.toNat &&& (2 ^ 32 - 1) = v.toNat := by rw [Nat.and_two_pow_sub_one_eq_mod]; omega
  rw [hmask]
  show (old &&& 0) ||| (v.toNat &&& (2 ^ 32 - 1)) = v.toNat
  rw [hnew, Nat.and_zero, Nat.zero_or]

variable (hr : d.reach .pf1 true = (e, some priv))
include hr

theorem bar2Write_of_entry {n : Fin 512} {k : Nat} (hk : k < 4) (ho : o = 0x1000 + 16 * n.val + 4 * k) :
    d.bar2Write .pf1 o v 0xF = (e.modPci fun x => x.setEntry n k v.toNat).sendPending := by
  have hn : Fin.ofNat 512 ((o - 0x1000) / 16) = n := ofNat_of_eq_val (by omega)
  have hword : o % 16 / 4 = k := by omega
  have hin : ¬ 0x4000 ≤ o ∧ ¬ o < 0x800 ∧ 0x1000 ≤ o ∧ o < 0x3000 := by omega
  simp only [Dev.bar2Write, hr, hn, hword, wholeWord]
  simp [hin]

theorem bar2Write_of_pendingBits (ho : within 0x3000 0x303F o) : d.bar2Write .pf1 o v be = e := by
  have hin : ¬ 0x4000 ≤ o ∧ ¬ o < 0x800 ∧ ¬ o < 0x3000 ∧ 0x3000 ≤ o ∧ o < 0x3040 := by omega
  simp [Dev.bar2Write, hr, hin]

theorem bar2Write_of_reserved (ho : within 0x800 0xFFF o ∨ within 0x3040 0x3FFF o) :
    d.bar2Write .pf1 o v be = e.dropDoorbell := by
  have hin : ¬ 0x4000 ≤ o ∧ ¬ o < 0x800 ∧ ¬ (0x1000 ≤ o ∧ o < 0x3000) ∧ ¬ (0x3000 ≤ o ∧ o < 0x3040) := by omega
  simp [Dev.bar2Write, hr, hin]

end

/-! ## The rows -/

section
variable {s : State} {m : Master} {a v : Word} {be : BitVec 4} {d : Dev}

theorem exec_registerWrite (h : directReg m a.toNat v.toNat be s = d) :
    exec (.registerWrite m { offset := a } v be) s = .next { s with dev := d } :=
  onDev_of_eq h

theorem exec_registerWrite_bar2 (h : s.dev.bar2Write m a.toNat v be = d) :
    exec (.registerWrite m { offset := a, bar2 := true } v be) s = .next { s with dev := d } := by
  unfold exec execRegisterWrite
  exact onDev_of_eq h

theorem exec_bitAliasWrite {o b : Nat} (hplace : placeOf a.toNat = .bitAlias o b)
    (h : directReg m a.toNat v.toNat 0xF s = d) : exec (.bitAliasWrite m a v) s = .next { s with dev := d } := by
  unfold exec execBitAliasWrite
  refine onDev_of_eq ?_
  simp only [hplace]
  exact h

end

/-- Settles O38: what the register is, who writes and whether its block is busy bring a write to one outcome. -/
theorem registerWritesComplete : Obligations.RegisterWritesComplete := by
  refine ⟨?register, ?part, ?bit, ?outside, ?doorbell, ?bar2⟩
  case register =>
    intro s m a v d priv r hr htop hplace hreg
    obtain ⟨o, hplace⟩ := hplace
    have hv : BitVec.ofNat 32 v.toNat = v := by simp
    have hexec {e : Dev} (h : regWrite s.rows m priv false d s.mem a.toNat v.toNat = (e, s.mem)) :
        exec (.registerWrite m { offset := a } v 0xF) s = .next { s with dev := e } :=
      exec_registerWrite ((directReg_of_register hr htop hplace hreg).trans (congrArg Prod.fst h))
    refine ⟨fun hpv hpriv hm => hexec (regWrite_of_barred hreg (bars_of_short hpv hpriv hm)), fun hmay => ?_⟩
    have hbars := not_bars_of_entitled hmay
    refine ⟨fun hblock => ⟨fun hrw => ?_, fun hrw => ?_⟩, fun b hblock => ⟨fun hbusy => ?_, fun hbusy => ?_⟩⟩
    · exact hexec ((regWrite_of_unposted hreg hbars hblock).trans (if_pos hrw))
    · exact hexec ((regWrite_of_unposted hreg hbars hblock).trans (if_neg hrw))
    · exact hexec (regWrite_of_busy hreg hbars hblock hbusy)
    · refine ⟨fun ha hmdio => ?_, fun hmdio => ⟨fun hrw hotp => ?_, fun hrw => ?_⟩⟩
      · exact hexec (regWrite_of_mdio hreg hbars hblock hbusy ha hmdio)
      · exact hexec (regWrite_of_readOnlyOtp hreg hbars hblock hbusy hmdio hrw hotp)
      · have hpost := hexec (regWrite_of_posted hreg hbars hblock hbusy hmdio hrw)
        rwa [hv] at hpost
  case part =>
    exact fun s m a v be d priv o hr htop hplace hbe => exec_registerWrite (directReg_of_partial hr htop hplace hbe)
  case bit =>
    intro s m a v d priv o b r hr htop hword hplace hreg
    have hexec {x : Dev × Banks} (h : bitWrite s.rows m priv false d s.mem o b v.toNat = x) :
        exec (.bitAliasWrite m a v) s = .next { s with dev := x.1 } :=
      exec_bitAliasWrite hplace ((directReg_of_bitAlias hr htop hplace hword).trans (congrArg Prod.fst h))
    refine ⟨fun hpv hpriv hm => hexec (bitWrite_of_barred hreg (bars_of_short hpv hpriv hm)), fun hmay => ?_⟩
    have hbars := not_bars_of_entitled hmay
    refine ⟨fun k hblock hbusy => ?_, fun hfree => ?_⟩
    · exact hexec (bitWrite_of_busy hreg hbars (by simp [hblock, hbusy]))
    · have hbusy : (r.blockAt o).any d.blockBusy = false := by
        cases hblock : r.blockAt o with
        | none => rfl
        | some k => exact hfree k hblock
      exact ⟨fun hrw => hexec (bitWrite_of_readOnly hreg hbars hbusy hrw),
        fun hrw y hy => hexec (bitWrite_of_writable hreg hbars hbusy hrw hy)⟩
  case outside => exact fun s m o v be h => exec_registerWrite_bar2 (bar2Write_of_outside h)
  case doorbell =>
    exact fun s q o v => ⟨fun ho => exec_registerWrite_bar2 (bar2Write_of_sqTail ho),
      fun ho => exec_registerWrite_bar2 (bar2Write_of_cqHead ho)⟩
  case bar2 =>
    exact fun s o v be d priv hr => ⟨fun e k hk ho => exec_registerWrite_bar2 (bar2Write_of_entry hr hk ho),
      fun ho => exec_registerWrite_bar2 (bar2Write_of_pendingBits hr ho),
      fun ho => exec_registerWrite_bar2 (bar2Write_of_reserved hr ho)⟩

end Sys2Proof.Laws
end

section
/-! SUPPORT. The registers with a row of their own: which entry of the map each offset names, and the outcome a write of it
comes to (R123, R389, R395, R399, R425, R431, R443). -/

namespace Sys2Proof.Laws

open Machine

/-! ## What the offsets name -/

section
variable {d : Dev}

theorem placeOf_hub {a : Nat} (h : a < 0x100000) : placeOf a = .register a :=
  if_pos (show a % 2 ^ 24 < 0x100000 by omega)

theorem reg?_hub {a : Nat} (h : a < 0x100000) (hword : a % 4 = 0) : d.reg? a = hubReg d a := by
  have hhub : a / 2 ^ 24 = 0 := by omega
  have hself : a % 2 ^ 24 = a := by omega
  rw [Dev.reg?, if_neg (not_not_intro hword), if_pos hhub, hself]

theorem reg?_eventAck (c : Fin 16) : d.reg? (0x1140 + 4 * c.val) = some { used := allBits, rw := allBits } := by
  have hpage : (0x1140 + 4 * c.val) / 0x1000 = 1 := by omega
  have h1 : ¬ 0x1140 + 4 * c.val ≤ 0x101C := by omega
  have h2 : ¬ 0x1140 + 4 * c.val < 0x1140 := by omega
  have h3 : 0x1140 + 4 * c.val < 0x1180 := by omega
  rw [reg?_hub (by omega) (by omega), hubReg, hpage]
  simp only [memReg, h1, h2, h3]
  rw [if_neg (by omega), if_neg (by omega)]
  simp

theorem reg?_posChOpt (ch : Fin 4) : d.reg? (0x902C + 0x40 * ch.val) = wpReg .position (ones 7 0) := by
  have hpage : (0x902C + 0x40 * ch.val) / 0x1000 = 9 := by omega
  have hchannel : (0x902C + 0x40 * ch.val) % 0x40 = 0x2C := by omega
  have h1 : 0x9000 ≤ 0x902C + 0x40 * ch.val ∧ 0x902C + 0x40 * ch.val < 0x9100 := by omega
  rw [reg?_hub (by omega) (by omega), hubReg, hpage]
  simp [posReg, hchannel, h1]

theorem reg?_fltGpio : d.reg? 0xE008 = some { used := allBits, rw := allBits, pv := true } := rfl

theorem reg?_otpCmd : d.reg? 0xF000 = wpReg .otp (ones 12 0) := rfl

theorem reg?_otpLock : d.reg? 0xF010 = some { used := ones 8 0, rw := ones 8 0, pv := true, block := some .otpLock } := rfl

theorem reg?_ethMdio : d.reg? 0x711C = some {
    used := ones 11 0 + ones 31 15, rw := ones 11 0 + ones 31 16, pv := true, block := some .ethernet } := rfl

section
variable {gp : Fin 112} {f : Fin 7} {base k : Nat} (hf : gp.val / 16 = f.val) (hbase : base % 0x1000 = 0)
  (hlow : base < 0x40000) (hk : k < 0x100)

include hf hbase hlow hk

theorem portReg_place : portReg base gp k / 2 ^ 24 = f.val + 1
    ∧ portReg base gp k % 2 ^ 24 = base + 0x100 * (gp.val % 16) + k := by
  unfold portReg dieBase
  omega

theorem placeOf_portReg : placeOf (portReg base gp k) = .register (portReg base gp k) := by
  obtain ⟨-, hoff⟩ := portReg_place hf hbase hlow hk
  exact if_pos (by rw [hoff]; omega)

/-- A register of a port is the die's, at the port's place in its block. -/
theorem reg?_portReg (hword : k % 4 = 0) (hport : d.hasPort gp.val = true) :
    d.reg? (portReg base gp k) = dieReg d f (base + 0x100 * (gp.val % 16) + k) := by
  obtain ⟨hdie, hoff⟩ := portReg_place hf hbase hlow hk
  have hhas : d.hasDie f.val = true := by
    simp only [Dev.hasPort, Bool.and_eq_true, hf] at hport
    exact hport.1.1
  have h4 : ¬ portReg base gp k % 4 ≠ 0 := by unfold portReg dieBase; omega
  rw [Dev.reg?, if_neg h4, if_neg (by omega), dif_pos (by rw [hdie]; omega), hoff]
  simp only [hdie, Nat.add_sub_cancel, hhas, if_true]

end

section
variable {gp : Fin 112} {f : Fin 7} {k : Nat} (hf : gp.val / 16 = f.val) (hport : d.hasPort gp.val = true) (hk : k < 0x100)
  (hword : k % 4 = 0)

include hf hport hk hword

theorem reg?_prt : d.reg? (portReg 0x10000 gp k) = prtReg f k := by
  have hpage : (0x10000 + 0x100 * (gp.val % 16) + k) / 0x1000 = 0x10 := by omega
  have hoff : (0x10000 + 0x100 * (gp.val % 16) + k) % 0x100 = k := by omega
  have hgp : 16 * f.val + (0x10000 + 0x100 * (gp.val % 16) + k) / 0x100 % 16 = gp.val := by omega
  rw [reg?_portReg hf rfl (by omega) hk hword hport]
  simp only [dieReg, hpage, hoff, hgp, hport, if_true]

theorem reg?_pls : d.reg? (portReg 0x20000 gp k) = plsReg f k := by
  have hpage : (0x20000 + 0x100 * (gp.val % 16) + k) / 0x1000 = 0x20 := by omega
  have hoff : (0x20000 + 0x100 * (gp.val % 16) + k) % 0x100 = k := by omega
  have hgp : 16 * f.val + (0x20000 + 0x100 * (gp.val % 16) + k) / 0x100 % 16 = gp.val := by omega
  rw [reg?_portReg hf rfl (by omega) hk hword hport]
  simp only [dieReg, hpage, hoff, hgp, hport, if_true]

end

theorem plsReg_tsntab (f : Fin 7) (k : Fin 17) : plsReg f (0x40 + 4 * k.val) = wpReg (.die f) (ones 15 0) := by
  fin_cases k <;> rfl

end

/-! ## What a write of one comes to -/

theorem bars_of_block {used rw : Nat} {pv priv : Bool} {b : Block} {m : Master} (hmay : pv = true → priv = true ∨ m = .pf0) :
    Reg.bars { used, rw, pv, block := some b } m priv = false :=
  not_bars_of_entitled fun h => (hmay h).imp_right fun hm => ⟨hm, Option.some_ne_none b⟩

section
variable {s : State} {m : Master} {d : Dev} {priv : Bool} {a used rw : Nat} {pv : Bool} {b : Block} {v : Word}
  (hr : s.dev.reach m true = (d, some priv)) (htop : a ≤ barTop) (hplace : placeOf a = .register a)
include hr htop hplace

/-- A register that no block holds takes the write at once. -/
theorem directReg_of_free (hreg : d.reg? a = some { used, rw, pv }) (hrw : rw ≠ 0) (hmay : pv = true → priv = true) :
    directReg m a v.toNat 0xF s = d.store s.mem a v.toNat := by
  have hbars : Reg.bars { used, rw, pv } m priv = false := not_bars_of_entitled fun h => .inl (hmay h)
  have hblock : Reg.blockAt { used, rw, pv } a = none := by simp [Reg.blockAt, hrw]
  rw [directReg_of_register hr htop hplace hreg, regWrite_of_unposted hreg hbars hblock]
  simp only [if_neg hrw]

variable (hreg : d.reg? a = some { used, rw, pv, block := some b }) (hmay : pv = true → priv = true ∨ m = .pf0)
include hreg hmay

theorem directReg_of_busy (hbusy : d.blockBusy b = true) : directReg m a v.toNat 0xF s = d.memWpDrop := by
  rw [directReg_of_register hr htop hplace hreg,
    regWrite_of_busy hreg (bars_of_block hmay) rfl hbusy]

theorem directReg_of_mdio (hbusy : d.blockBusy b = false) (ha : a = 0x711C) (hmdio : d.eth.pendingMdio = true) :
    directReg m a v.toNat 0xF s = d.memWrDrop := by
  rw [directReg_of_register hr htop hplace hreg,
    regWrite_of_mdio hreg (bars_of_block hmay) rfl hbusy ha hmdio]

/-- A register of a block that shows no write pending is posted. -/
theorem directReg_of_posted (hrw : rw ≠ 0) (hbusy : d.blockBusy b = false)
    (hmdio : a ≠ 0x711C ∨ d.eth.pendingMdio = false) : directReg m a v.toNat 0xF s =
      d.post { block := b, master := m, privileged := priv, address := a, words := [(v, 0xF)] } := by
  have hv : BitVec.ofNat 32 v.toNat = v := by simp
  rw [directReg_of_register hr htop hplace hreg,
    regWrite_of_posted hreg (bars_of_block hmay) rfl hbusy hmdio (.inl hrw), hv]

end

/-! ## The rows -/

section
variable {s : State} {m : Master} {d : Dev} {priv : Bool} {v : Word} (hr : s.dev.reach m true = (d, some priv))
include hr

theorem exec_eventAckWrite (c : Fin 16) : exec (.eventAckWrite m c v) s = .next { s with dev := d.setAck c v } := by
  have hstore : d.store s.mem (0x1140 + 4 * c.val) v.toNat = d.setAck c v := by
    have hdie : ¬ (1 ≤ (0x1140 + 4 * c.val) / 2 ^ 24 ∧ (0x1140 + 4 * c.val) / 2 ^ 24 < 8) := by omega
    have hself : (0x1140 + 4 * c.val) % 2 ^ 24 = 0x1140 + 4 * c.val := by omega
    have hpage : (0x1140 + 4 * c.val) / 0x1000 = 1 := by omega
    have hc : Fin.ofNat 16 ((0x1140 + 4 * c.val - 0x1140) / 4) = c := ofNat_of_eq_val (by omega)
    rw [Dev.store, dif_neg hdie]
    simp only [hself, hpage, hc, BitVec.ofNat_toNat, BitVec.setWidth_eq]
  exact onDev_of_eq ((directReg_of_free hr (by unfold barTop; omega) (placeOf_hub (by omega)) (reg?_eventAck c)
    (by decide) (fun h => by cases h)).trans hstore)

theorem exec_fltGpioWrite (hpriv : priv = true) :
    exec (.fltGpioWrite m v) s = .next { s with dev := d.setGpio v.toNat } :=
  onDev_of_eq (directReg_of_free hr (by decide) rfl reg?_fltGpio (by decide) fun _ => hpriv)

theorem exec_otpCmdWrite (hbusy : d.otpBusy = false) : exec (.otpCmdWrite m v) s = .next { s with
    dev := d.post { block := .otp, master := m, privileged := priv, address := 0xF000, words := [(v, 0xF)] } } :=
  onDev_of_eq (directReg_of_posted hr (by decide) rfl reg?_otpCmd (fun h => by cases h) (by decide) hbusy
    (.inl (by decide)))

theorem exec_otpCmdWrite_of_busy (hbusy : d.otpBusy = true) :
    exec (.otpCmdWrite m v) s = .next { s with dev := d.memWpDrop } :=
  onDev_of_eq (directReg_of_busy hr (by decide) rfl reg?_otpCmd (fun h => by cases h) hbusy)

theorem exec_otpLockWrite (hmay : priv = true ∨ m = .pf0) : exec (.otpLockWrite m v) s = .next { s with
    dev := d.post { block := .otpLock, master := m, privileged := priv, address := 0xF010, words := [(v, 0xF)] } } :=
  onDev_of_eq (directReg_of_posted hr (by decide) rfl reg?_otpLock (fun _ => hmay) (by decide) rfl (.inl (by decide)))

theorem exec_posChOptWrite (ch : Fin 4) (hbusy : d.blockBusy .position = false) :
    exec (.posChOptWrite m ch v) s = .next { s with
      dev := d.post { block := .position, master := m, privileged := priv, address := 0x902C + 0x40 * ch.val
                      words := [(v, 0xF)] } } :=
  onDev_of_eq (directReg_of_posted hr (by unfold barTop; omega) (placeOf_hub (by omega)) (reg?_posChOpt ch)
    (fun h => by cases h) (by decide) hbusy (.inl (by omega)))

section
variable (hmay : priv = true ∨ m = .pf0)
include hmay

theorem exec_ethMdioAccess_of_busy (hbusy : d.blockBusy .ethernet = true) :
    exec (.ethMdioAccess m v) s = .next { s with dev := d.memWpDrop } :=
  onDev_of_eq (directReg_of_busy hr (by decide) rfl reg?_ethMdio (fun _ => hmay) hbusy)

theorem exec_ethMdioAccess_of_pending (hbusy : d.blockBusy .ethernet = false) (hmdio : d.eth.pendingMdio = true) :
    exec (.ethMdioAccess m v) s = .next { s with dev := d.memWrDrop } :=
  onDev_of_eq (directReg_of_mdio hr (by decide) rfl reg?_ethMdio (fun _ => hmay) hbusy rfl hmdio)

theorem exec_ethMdioAccess (hbusy : d.blockBusy .ethernet = false) (hmdio : d.eth.pendingMdio = false) :
    exec (.ethMdioAccess m v) s = .next { s with
      dev := d.post { block := .ethernet, master := m, privileged := priv, address := 0x711C, words := [(v, 0xF)] } } :=
  onDev_of_eq (directReg_of_posted hr (by decide) rfl reg?_ethMdio (fun _ => hmay) (by decide) hbusy (.inr hmdio))

end

/-- A register of a port whose die shows no write pending is posted to the die. -/
theorem directReg_portReg {gp : Fin 112} {f : Fin 7} {base k used : Nat} (hf : gp.val / 16 = f.val)
    (hbase : base % 0x1000 = 0) (hlow : base < 0x40000) (hk : k < 0x100)
    (hreg : d.reg? (portReg base gp k) = wpReg (.die f) used) (hused : used ≠ 0) (hbusy : d.blockBusy (.die f) = false) :
    onDev (directReg m (portReg base gp k) v.toNat 0xF) s = .next { s with
      dev := d.post { block := .die f, master := m, privileged := priv, address := portReg base gp k
                      words := [(v, 0xF)] } } := by
  have hrange : 2 ^ 24 ≤ portReg base gp k ∧ portReg base gp k ≤ barTop := by unfold portReg dieBase barTop; omega
  obtain ⟨hge, htop⟩ := hrange
  exact onDev_of_eq (directReg_of_posted hr htop (placeOf_portReg hf hbase hlow hk) hreg (fun h => by cases h) hused hbusy
    (.inl (by omega)))

end

/-- Settles O39: the map says of each offset whether a block holds it, which brings the write to one outcome. -/
theorem ownRegisterRowsComplete : Obligations.OwnRegisterRowsComplete := by
  refine ⟨fun s m d priv v hr => ?_, fun s data hmdio => ?mdioEnd, fun s v enable functionMask d priv hr => ?unmask⟩
  case mdioEnd =>
    unfold exec execMdioAccessEnd
    exact onDev_of_eq (if_pos hmdio)
  case unmask =>
    unfold exec execMsixUnmask
    exact onDev_of_eq (by simp [Dev.msixUnmask, hr])
  refine ⟨fun q => exec_sesQpCtlWrite q v hr, exec_eventAckWrite hr, exec_fltGpioWrite hr, exec_otpCmdWrite hr,
    exec_otpCmdWrite_of_busy hr, exec_otpLockWrite hr, exec_ethMdioAccess_of_busy hr, exec_ethMdioAccess_of_pending hr,
    fun hmay hmdio hbusy => exec_ethMdioAccess hr hmay hbusy hmdio, exec_posChOptWrite hr, fun gp f hport hf hbusy => ?_⟩
  exact ⟨directReg_portReg hr hf rfl (by decide) (by decide) (reg?_prt hf hport (by decide) rfl) (by decide) hbusy,
    directReg_portReg hr hf rfl (by decide) (by decide) (reg?_pls hf hport (by decide) rfl) (by decide) hbusy,
    fun k => directReg_portReg hr hf rfl (by decide) (by omega)
      ((reg?_pls hf hport (by omega) (by omega)).trans (plsReg_tsntab f k)) (by decide) hbusy⟩

end Sys2Proof.Laws
end

section
/-! SUPPORT. Direct writes of memory windows, posted writes that take effect, and direct reads (R301, R419 to R423, R431,
R432). -/

namespace Sys2Proof.Laws

open Machine

/-! ## Writes to a window -/

section
variable {rows : OtpRows} {w : Master} {priv : Bool} {d : Dev} {m : Banks} {a : Nat} {ws : List (Word × BitVec 4)}
  (hword : a % 4 = 0)
include hword

theorem windowPost_of_hub (hblock : windowBlock a = none) :
    windowPost rows w priv false d m a ws = windowStore (d, m) a ws := by
  simp [windowPost, hword, hblock]

variable {b : Block} (hblock : windowBlock a = some b)
include hblock

theorem windowPost_of_absent (hhere : d.dieHere (a / 2 ^ 24) = false) :
    windowPost rows w priv false d m a ws = windowStore (d, m) a ws := by
  simp only [windowPost, hblock, hhere]
  simp [hword]

variable (hhere : d.dieHere (a / 2 ^ 24) = true)
include hhere

theorem windowPost_of_busy (hbusy : d.blockBusy b = true) :
    windowPost rows w priv false d m a ws = (d.memWpDrop, m) := by
  simp only [windowPost, hblock, hhere, hbusy]
  simp [hword]

theorem windowPost_of_free (hbusy : d.blockBusy b = false) : windowPost rows w priv false d m a ws =
    (d.post { block := b, master := w, privileged := priv, address := a, words := ws }, m) := by
  simp only [windowPost, hblock, hhere, hbusy, accept]
  simp [hword]

end

section
variable {s : State} {m : Master} {a : Word} {ws : List (Word × BitVec 4)} {d : Dev} {priv : Bool} {r : Dev × Banks}

theorem exec_memoryWindowWrite (hr : s.dev.reach m true = (d, some priv)) (htop : a.toNat ≤ barTop)
    (hwin : isWindow a.toNat = true) (h : windowPost s.rows m priv false d s.mem a.toNat ws = r) :
    exec (.memoryWindowWrite m a ws) s = .next { s with dev := r.1, mem := r.2 } := by
  have hdirect : directWin m a.toNat ws s = r := by simp [directWin, hr, not_above_bar htop, hwin, h]
  exact onMem_of_pair hdirect

theorem exec_aliasWrite_of_alias {v : Word} {be : BitVec 4} (h : isAlias a.toNat = true) :
    exec (.aliasWrite m a v be) s = exec (.memoryWindowWrite m a [(v, be)]) s :=
  execAliasWrite_of_isAlias h

theorem exec_aliasWrite_of_other {v : Word} {be : BitVec 4} (h : isAlias a.toNat = false) :
    exec (.aliasWrite m a v be) s = .next s := by
  have hexec : execAliasWrite m a v be s = .next s := by simp [execAliasWrite, onMem, h]
  exact hexec

/-! ## Posted writes that take effect -/

theorem exec_postedWriteEffect {b : Block} (h : blockEffect s.rows b s.dev s.mem = r) :
    exec (.postedWriteEffect b) s = .next { s with dev := r.1, mem := r.2 } := by
  unfold exec execPostedWriteEffect
  exact onMem_of_pair h

theorem blockEffect_of_oldest {b : Block} {x : Posted} {rows : OtpRows} {m : Banks}
    (hfind : d.mr.posted.find? (fun y => y.block == b) = some x) (hleft : d.accessWaits b = false) :
    blockEffect rows b d m =
      x.effect rows ((d.modMr fun y => { y with posted := y.posted.erase x }).accessLeft x.block) m := by
  simp [blockEffect, hleft, postedFirst, hfind]

theorem blockEffect_of_none {b : Block} {rows : OtpRows} {m : Banks}
    (h : d.mr.posted.find? (fun y => y.block == b) = none ∨ d.accessWaits b = true) :
    blockEffect rows b d m = (d, m) := by
  cases hwaits : d.accessWaits b with
  | true => simp [blockEffect, hwaits]
  | false =>
    have hfind := h.resolve_right (by simp [hwaits])
    simp [blockEffect, hwaits, postedFirst, hfind]

end

/-- Settles O40: a window of a present die is a block, any other is written at once. -/
theorem windowWritesComplete : Obligations.WindowWritesComplete := by
  refine ⟨?window, fun s m a v be h => exec_aliasWrite_of_alias h, fun s m a v be h => exec_aliasWrite_of_other h, ?aliasHub,
    ?effect, ?none⟩
  case window =>
    intro s m a ws d priv r hr htop hwin hword
    refine ⟨fun hblock h => ?_, fun b hblock => ⟨fun hhere h => ?_, fun hhere hbusy => ?_, fun hhere hbusy => ?_⟩⟩
    · exact exec_memoryWindowWrite hr htop hwin ((windowPost_of_hub hword hblock).trans h.symm)
    · exact exec_memoryWindowWrite hr htop hwin ((windowPost_of_absent hword hblock hhere).trans h.symm)
    · exact exec_memoryWindowWrite hr htop hwin (windowPost_of_busy hword hblock hhere hbusy)
    · exact exec_memoryWindowWrite hr htop hwin (windowPost_of_free hword hblock hhere hbusy)
  case aliasHub =>
    intro s m a v be d priv r halias hr htop hword hblock h
    rw [exec_aliasWrite_of_alias halias]
    exact exec_memoryWindowWrite hr htop (isWindow_of_isAlias halias) ((windowPost_of_hub hword hblock).trans h.symm)
  case effect =>
    intro s b x r hfind hleft h
    exact exec_postedWriteEffect ((blockEffect_of_oldest hfind hleft).trans h.symm)
  case none => exact fun s b h => exec_postedWriteEffect (blockEffect_of_none h)

/-! ## Direct reads -/

section
variable {rows : OtpRows} {w : Master} {priv : Bool} {d : Dev} {m : Banks} {a o : Nat} (hword : a % 4 = 0)
  (hown : ∀ x ∈ d.mr.posted, x.master ≠ w)
include hword hown

omit hword in
/-- With none of a master's own writes posted a read is ordered behind nothing (R432). -/
theorem settleReads_of_none : settleReads rows w a d m = (d, m) :=
  settle_of_none rows m fun x hx => by simp [hown x hx]

theorem busRead_of_register (hplace : placeOf a = .register o) :
    busRead rows w priv d m a = (d.takeLatches m w o, m, d.regSeen m w priv o) := by
  simp [busRead, hword, settleReads_of_none hown, hplace]

theorem busRead_of_window (hwin : isWindow a = true) :
    busRead rows w priv d m a = ((windowRead d m a).1, m, (windowRead d m a).2) := by
  simp [busRead, hword, settleReads_of_none hown, placeOf_window hwin]

end

theorem readOut_of_value {m : Master} (hm : m ≠ .spi) (d : Dev) (v : Nat) :
    d.readOut m v = d.emit (.value (BitVec.ofNat 32 v)) := by
  rw [Dev.readOut, if_neg hm]

theorem readOut_spi (d : Dev) (v : Nat) : d.readOut .spi v = d.emit (.spiOut (0xA5 :: leBytes 4 v)) := rfl

section
variable {s : State} {m : Master} {d e : Dev} {priv : Bool} {a o : Nat} (hr : s.dev.reach m false = (d, some priv))
include hr

theorem directRead_of_register (htop : a ≤ barTop) (hword : a % 4 = 0) (hplace : placeOf a = .register o)
    (hown : ∀ x ∈ d.mr.posted, x.master ≠ m) :
    directRead m a s = ((d.takeLatches s.mem m o).readOut m (d.regSeen s.mem m priv o), s.mem) := by
  obtain ⟨-, hwin⟩ := eq_of_placeOf_register hplace
  simp only [directRead, hr, hwin, busRead_of_register hword hown hplace, if_neg (Nat.not_lt.mpr htop)]
  simp

theorem directRead_of_window (htop : a ≤ barTop) (hword : a % 4 = 0) (hwin : isWindow a = true)
    (hown : ∀ x ∈ d.mr.posted, x.master ≠ m) (hboot : d.sys.bootFail ≠ 4) :
    directRead m a s = ((windowRead d s.mem a).1.readOut m (windowRead d s.mem a).2, s.mem) := by
  have hopen : ¬ (decide (d.sys.bootFail = 4) && isWindow a) = true := by rw [decide_eq_false hboot]; simp
  simp only [directRead, hr, busRead_of_window hword hown hwin, if_neg (Nat.not_lt.mpr htop), if_neg hopen]

/-- A part held at the memory test answers no read of a memory window (R85). -/
theorem directRead_of_memoryTest (htop : a ≤ barTop) (hwin : isWindow a = true) (hboot : d.sys.bootFail = 4) :
    directRead m a s = (d, s.mem) := by
  have hclosed : (decide (d.sys.bootFail = 4) && isWindow a) = true := by rw [decide_eq_true hboot, hwin]; rfl
  simp only [directRead, hr, if_neg (Nat.not_lt.mpr htop), if_pos hclosed]

theorem directRead_above_bar (htop : barTop < a) : directRead m a s = (d.readOut m 0, s.mem) := by
  simp only [directRead, hr, if_pos htop]

theorem directZero_of_reach : directZero m s = (d.readOut m 0, s.mem) := by simp [directZero, hr]

end

theorem directRead_of_unreached {s : State} {m : Master} {d : Dev} (a : Nat) (hr : s.dev.reach m false = (d, none)) :
    directRead m a s = (d, s.mem) := by
  simp only [directRead, hr]

theorem bar2Read_of_reach {d e : Dev} {priv : Bool} {o : Nat} (hr : d.reach .pf1 false = (e, some priv))
    (ho : o < 0x4000) : d.bar2Read .pf1 o = e.emit (.value (BitVec.ofNat 32 (e.bar2Val (o / 4 * 4)))) := by
  have hin : ¬ 0x4000 ≤ o := by omega
  simp [Dev.bar2Read, hr, hin, readOut_of_value]

/-! ## Reads in any form, and counts -/

section
variable {s : State} {m : Master} {r : BusRead} (hbar : r.address.bar2 = false)
  (hwin : isWindow r.address.offset.toNat = false)
include hbar hwin

theorem busReadCmd_of_word (hword : r.be = 0xF ∧ r.words = 1) :
    busReadCmd m r s = directRead m r.address.offset.toNat s := by
  simp only [busReadCmd, hbar, hwin, hword]
  simp

theorem busReadCmd_of_part (hpart : r.be ≠ 0xF ∨ r.words ≠ 1) : busReadCmd m r s = directZero m s := by
  have hform : ¬ (decide (r.be = 0xF) && decide (r.words = 1)) = true := by simpa [Classical.or_iff_not_imp_left] using hpart
  simp only [busReadCmd, hbar, hwin, if_neg hform]
  simp

end

theorem busReadCmd_of_bar2 {s : State} {m : Master} {r : BusRead} (hbar : r.address.bar2 = true) :
    busReadCmd m r s = (s.dev.bar2Read m r.address.offset.toNat, s.mem) := by
  simp only [busReadCmd, hbar, if_true]

/-- The count of a channel is a register of the hub and of each die (Table 13.4). -/
theorem countAddr_place (die : Fin 8) (ch : Fin 4) : countAddr die ch ≤ barTop ∧ countAddr die ch % 4 = 0
    ∧ placeOf (countAddr die ch) = .register (countAddr die ch) := by
  have hrange : countAddr die ch ≤ barTop ∧ countAddr die ch % 4 = 0 ∧ countAddr die ch % 2 ^ 24 < 0x100000 := by
    unfold countAddr barTop
    split <;> omega
  exact ⟨hrange.1, hrange.2.1, if_pos hrange.2.2⟩

/-! ## SPI -/

section
variable {s : State} {a v o : Nat}

theorem reach_spi_asleep {d : Dev} (hheld : d.sys.held = false) (hmode : d.mode = mFallow) (hboot : d.sys.bootFail ≠ 4)
    (write : Bool) : d.reach .spi write = (d.wakeFrom 4 true, none) := by
  have hopen : ¬ d.sys.bootFail = 4#4 := hboot
  simp [Dev.reach, hheld, hmode, hopen]

/-- Awake and answering, the part shifts its status byte out and the write goes on as any other. -/
theorem spiRegWrite_of_register {e d : Dev} {priv : Bool} (hheld : s.dev.sys.held = false) (hmode : s.dev.mode ≠ mFallow)
    (he : e = s.dev.emit (.spiOut [s.dev.spiStatusByte])) (hr : e.reach .spi true = (d, some priv)) (htop : a ≤ barTop)
    (hplace : placeOf a = .register o) :
    spiRegWrite a v s = ((busWrite s.rows .spi priv false d s.mem a v 0xF).1, s.mem) := by
  have hboot : s.dev.sys.bootFail ≠ 4 := by
    intro hboot
    have hfail : e.sys.bootFail = 4 := by rw [he]; exact hboot
    simp [Dev.reach, hfail] at hr
  subst he
  simp only [spiRegWrite, hheld, decide_eq_false hmode, decide_eq_false hboot, hplace]
  simp [directReg, hr, not_above_bar htop, hplace]

theorem spiRegWrite_of_asleep (hheld : s.dev.sys.held = false) (hmode : s.dev.mode = mFallow)
    (hboot : s.dev.sys.bootFail ≠ 4) : spiRegWrite a v s = (s.dev.wakeFrom 4 true, s.mem) := by
  have hreach := reach_spi_asleep hheld hmode hboot true
  simp only [spiRegWrite, hheld, decide_eq_true hmode]
  split <;> simp [directWin, directReg, hreach]

end

section
variable {s : State} {d : Dev}

theorem exec_latchingRegisterRead {m : Master} {r : BusRead} (h : busReadCmd m r s = (d, s.mem)) :
    exec (.latchingRegisterRead m r) s = .next { s with dev := d } :=
  onMem_of_eq h

theorem exec_posChCountRead {m : Master} {die : Fin 8} {ch : Fin 4} (h : directRead m (countAddr die ch) s = (d, s.mem)) :
    exec (.posChCountRead m die ch) s = .next { s with dev := d } :=
  onMem_of_eq h

theorem exec_spiRegRead {a : Word} (h : directRead .spi a.toNat s = (d, s.mem)) :
    exec (.spiRegRead a) s = .next { s with dev := d } :=
  onMem_of_eq h

theorem exec_spiRegWrite {a v : Word} (h : spiRegWrite a.toNat v.toNat s = (d, s.mem)) :
    exec (.spiRegWrite a v) s = .next { s with dev := d } :=
  onMem_of_eq h

end

/-- Settles O41: with nothing posted before it, a read is the latch and the value of the place that its offset names. -/
theorem directReadsComplete : Obligations.DirectReadsComplete := by
  refine ⟨?register, ?part, ?bar2, ?count, ?spi, ?above, ?write, ?asleep⟩
  case register =>
    intro s m a d priv o v hm hr htop hword hplace hown hv
    obtain ⟨-, hwin⟩ := eq_of_placeOf_register hplace
    have hread := directRead_of_register hr htop hword hplace hown
    rw [readOut_of_value hm, ← hv] at hread
    exact exec_latchingRegisterRead ((busReadCmd_of_word rfl hwin ⟨rfl, rfl⟩).trans hread)
  case part =>
    intro s m r d priv o hm hr hbar hplace hpart
    obtain ⟨-, hwin⟩ := eq_of_placeOf_register hplace
    have hzero := directZero_of_reach hr
    rw [readOut_of_value hm] at hzero
    exact exec_latchingRegisterRead ((busReadCmd_of_part hbar hwin hpart).trans hzero)
  case bar2 =>
    intro s r d priv v hr hbar ho hv
    refine exec_latchingRegisterRead ((busReadCmd_of_bar2 hbar).trans ?_)
    rw [bar2Read_of_reach hr ho, hv]
  case count =>
    intro s m die ch d priv v hm hr hown hv
    obtain ⟨htop, hword, hplace⟩ := countAddr_place die ch
    have hread := directRead_of_register hr htop hword hplace hown
    rw [readOut_of_value hm, ← hv] at hread
    exact exec_posChCountRead hread
  case spi =>
    intro s a d priv hr htop hword hown
    refine ⟨fun o v hplace hv => ?_, fun r hwin hboot h => ?_, fun hwin hboot => ?_⟩
    · have hread := directRead_of_register hr htop hword hplace hown
      rw [readOut_spi, ← hv] at hread
      exact exec_spiRegRead hread
    · have hread := directRead_of_window hr htop hword hwin hown hboot
      rw [readOut_spi, ← h] at hread
      exact exec_spiRegRead hread
    · exact exec_spiRegRead (directRead_of_memoryTest hr htop hwin hboot)
  case above => exact fun s a d priv hr htop => exec_spiRegRead (directRead_above_bar hr htop)
  case write =>
    exact fun s a v o e d priv hheld hmode he hr htop hplace =>
      exec_spiRegWrite (spiRegWrite_of_register hheld hmode he hr htop hplace)
  case asleep =>
    exact fun s a v hheld hmode hboot =>
      ⟨exec_spiRegRead (directRead_of_unreached _ (reach_spi_asleep hheld hmode hboot false)),
        exec_spiRegWrite (spiRegWrite_of_asleep hheld hmode hboot)⟩

end Sys2Proof.Laws
end

section
/-! SUPPORT. The IDs of fault sources (R376), the numbers of events and what the host acknowledged (R132, R425), the vote of
a critical field (R427, R428), and the values at reset. -/

namespace Sys2Proof.Laws

open Machine

/-! ## The IDs of fault sources -/

section
variable (d : Dev)

theorem sourceInUse_of_hub {id : Nat} (h : id < 0x100) : d.sourceInUse id = true := by simp [Dev.sourceInUse, h]

theorem sourceInUse_of_die {id f : Nat} (hf : f < 7) (hlo : 0x100 + 0x40 * f ≤ id) (hhi : id ≤ 0x13F + 0x40 * f) :
    d.sourceInUse id = d.hasDie f := by
  have hhub : ¬ id < 0x100 := by omega
  have hlast : id < 0x2C0 := by omega
  have hdie : (id - 0x100) / 0x40 = f := by omega
  simp only [Dev.sourceInUse, hhub, hlast, hdie]
  simp

theorem sourceInUse_above {id : Nat} (h : 0x2C0 ≤ id) : d.sourceInUse id = false := by
  have hhub : ¬ id < 0x100 := by omega
  simp [Dev.sourceInUse, hhub, h]

/-- An ID lies on the hub, in the range of one furrow die, or above them all. -/
theorem sourceRange (id : Nat) : id ≤ 0xFF ∨ (∃ f : Fin 7, within (0x100 + 0x40 * f.val) (0x13F + 0x40 * f.val) id)
    ∨ 0x2C0 ≤ id := by
  by_cases hhub : id ≤ 0xFF
  · exact .inl hhub
  · by_cases hlast : id < 0x2C0
    · exact .inr (.inl ⟨⟨(id - 0x100) / 0x40, by omega⟩, by constructor <;> dsimp only <;> omega⟩)
    · exact .inr (.inr (by omega))

theorem sourceInUse_iff (id : Nat) : d.sourceInUse id = true ↔
    id ≤ 0xFF ∨ ∃ f : Fin 7, d.hasDie f.val = true ∧ within (0x100 + 0x40 * f.val) (0x13F + 0x40 * f.val) id := by
  constructor
  · intro huse
    rcases sourceRange id with hhub | ⟨f, hlo, hhi⟩ | habove
    · exact .inl hhub
    · exact .inr ⟨f, (sourceInUse_of_die d f.isLt hlo hhi).symm.trans huse, hlo, hhi⟩
    · rw [sourceInUse_above d habove] at huse
      contradiction
  · rintro (hhub | ⟨f, hdie, hlo, hhi⟩)
    · exact sourceInUse_of_hub d (by omega)
    · rw [sourceInUse_of_die d f.isLt hlo hhi, hdie]

variable {d}

/-- With seven furrow dies the IDs in use are those below 0x2C0. -/
theorem sourceInUse_of_seven (h : d.furrowDies = 7) (id : Nat) : d.sourceInUse id = decide (id < 704) := by
  have hall : ∀ f < 7, d.hasDie f = true := fun f hf => by simpa [Dev.hasDie, h] using hf
  rcases sourceRange id with hhub | ⟨f, hlo, hhi⟩ | habove
  · rw [sourceInUse_of_hub d (by omega), decide_eq_true (by omega)]
  · rw [sourceInUse_of_die d f.isLt hlo hhi, hall f f.isLt, decide_eq_true (by omega)]
  · rw [sourceInUse_above d habove, decide_eq_false (by omega)]

theorem countP_lt_range (k : Nat) : ∀ n, (List.range n).countP (fun i => decide (i < k)) = min n k
  | 0 => by simp
  | n + 1 => by
    rw [List.range_succ, List.countP_append, countP_lt_range k n, List.countP_singleton]
    by_cases hn : n < k
    · rw [if_pos (decide_eq_true hn)]
      omega
    · rw [if_neg (by simpa using hn)]
      omega

theorem sources_of_seven (h : d.furrowDies = 7) : ((List.range 1024).filter d.sourceInUse).length = 704 := by
  rw [← List.countP_eq_length_filter, funext (sourceInUse_of_seven h), countP_lt_range]
  rfl

end

section
variable {s : State} {p : Packet} {x : Session} (h : s.dev.sourceInUse (par p 0 2) = false)
include h

theorem needSource_error : (Ctx.mk s p x).needSource = .error (stBadParam, 24) :=
  bind_of_error (needP_error h) _

theorem fltClassCmd_error : fltClassCmd ⟨s, p, x⟩ = .error (stBadParam, 24) := bind_of_error (needSource_error h) _

theorem fltForceCmd_error : fltForceCmd ⟨s, p, x⟩ = .error (stBadParam, 24) := bind_of_error (needSource_error h) _

end

/-- Settles O19: an ID is in use by its range and, on a furrow die, by the presence of the die. -/
theorem faultSourceIds : Obligations.FaultSourceIds :=
  ⟨sourceInUse_iff, fun _ => sources_of_seven, fun _ _ _ h =>
    ⟨fun hj => onDev_error hj (fltClassCmd_error h), fun hj => onDev_error hj (fltForceCmd_error h)⟩⟩

/-! ## Event numbers -/

/-- The numbers of the classes, and what the host has acknowledged of each. -/
def eventNumbers (d : Dev) : Vector Word 16 × Vector Word 16 := (d.ev.seq, d.ev.ack)

section
variable (d : Dev)

@[simp] theorem eventNumbers_raise (v : Nat) : eventNumbers (d.raise v) = eventNumbers d := by
  unfold Dev.raise
  split <;> rfl

@[simp] theorem eventNumbers_datagram (kind : Nat) (v : Via) (r : Reply) :
    eventNumbers (d.datagram kind v r) = eventNumbers d := by
  unfold Dev.datagram
  split
  · split <;> rfl
  · rfl

theorem eventNumbers_push (x : Session) (r : EventRecord) : eventNumbers (d.push x r) = eventNumbers d := by
  unfold Dev.push
  split
  · exact (eventNumbers_datagram _ _ _ _).trans rfl
  · rfl

theorem eventNumbers_pushes (r : EventRecord) : ∀ (l : List Session) (d : Dev),
    eventNumbers (l.foldl (fun d x => d.push x r) d) = eventNumbers d
  | [], _ => rfl
  | x :: l, d => (eventNumbers_pushes r l (d.push x r)).trans (eventNumbers_push d x r)

theorem eventNumbers_writeRecord (r : EventRecord) : eventNumbers (d.writeRecord r) = eventNumbers d := by
  unfold Dev.writeRecord
  extract_lets subs e readers
  have hpush : eventNumbers e = eventNumbers d := eventNumbers_pushes r subs d
  split
  · exact hpush
  · exact hpush

/-- An occurrence counts its class on and no other; the acknowledgements stand. -/
theorem eventNumbers_countEvent (cls : Fin 16) :
    eventNumbers (d.countEvent cls) = (d.ev.seq.set cls (d.ev.seq[cls] + 1), d.ev.ack) := by
  unfold Dev.countEvent
  extract_lets ev e
  split
  · exact (eventNumbers_raise e _).trans rfl
  · rfl

theorem eventNumbers_occur (cls : Fin 16) (kind source : Nat) (data : List Byte) :
    eventNumbers (d.occur cls kind source data) = (d.ev.seq.set cls (d.ev.seq[cls] + 1), d.ev.ack) := by
  rw [← eventNumbers_countEvent]
  unfold Dev.occur
  extract_lets seq e r same ev wide
  split_ifs
  · rfl
  · exact eventNumbers_writeRecord e r
  · rfl
  · rfl
  · rfl

theorem occur_seq (cls k : Fin 16) (kind source : Nat) (data : List Byte) :
    (d.occur cls kind source data).ev.seq[k] = d.ev.seq[k] + (if k = cls then 1 else 0) := by
  have hseq := congrArg Prod.fst (eventNumbers_occur d cls kind source data)
  rw [show (d.occur cls kind source data).ev.seq = _ from hseq]
  by_cases hk : k = cls
  · subst hk
    simp
  · have hne : ¬ cls.val = k.val := fun hval => hk (Fin.ext hval.symm)
    simp [hk, hne]

theorem occur_ack (cls : Fin 16) (kind source : Nat) (data : List Byte) :
    (d.occur cls kind source data).ev.ack = d.ev.ack :=
  congrArg Prod.snd (eventNumbers_occur d cls kind source data)

theorem pendingClass_iff (k : Fin 16) : d.ev.pendingClass k.val = true ↔ d.ev.seq[k] ≠ d.ev.ack[k] := by
  simp [Events.pendingClass]

end

section
variable {d : Dev} {c : Fin 16} {v : Word}

theorem setAck_of_after (h : after v d.ev.seq[c] = true) : d.setAck c v = d.memWrDrop := if_pos h

variable (hin : after v d.ev.seq[c] = false)
include hin

theorem setAck_of_quiet
    (hquiet : v = d.ev.seq[c] ∨ ∀ x ∈ d.ses.openS, x.subs.getLsbD c.val = true → viaPcie x.via = false) :
    d.setAck c v = d.modEv fun x => { x with ack := x.ack.set c v } := by
  unfold Dev.setAck
  rw [if_neg (ne_true_of_eq_false hin)]
  refine if_neg ?_
  rcases hquiet with hv | hnone
  · simp [hv]
  · simpa using fun _ => hnone

theorem setAck_of_pending (hv : v ≠ d.ev.seq[c])
    (hsub : ∃ x ∈ d.ses.openS, x.subs.getLsbD c.val = true ∧ viaPcie x.via = true) :
    d.setAck c v = (d.modEv fun x => { x with ack := x.ack.set c v }).raise (256 + c.val) := by
  unfold Dev.setAck
  rw [if_neg (ne_true_of_eq_false hin)]
  refine if_pos ?_
  have hother : ¬ d.ev.seq[c.val] = v := fun hval => hv hval.symm
  simpa [hother] using hsub

end

/-- Settles O20: the numbers pass through an occurrence by `eventNumbers_occur`, and the starts build the block anew. -/
theorem eventNumbersCount : Obligations.EventNumbersCount := by
  refine ⟨fun d cls k kind source data => ⟨occur_seq d cls k kind source data, ?ack, pendingClass_iff d k⟩, ?write, ?starts⟩
  case ack => rw [occur_ack]
  case write =>
    intro s m cls v d e priv hr he
    subst he
    refine ⟨fun h => ?_, fun h hquiet => ?_, fun h hv hsub => ?_⟩
    · rw [exec_eventAckWrite hr, setAck_of_after h]
    · rw [exec_eventAckWrite hr, setAck_of_quiet h hquiet]
    · rw [exec_eventAckWrite hr, setAck_of_pending h hv hsub]
  case starts =>
    have hzero : ∀ k : Fin 16, (Vector.replicate 16 (0 : Word))[k] = 0 := fun k => by simp
    exact fun d lastStart w k => ⟨hzero k, hzero k, hzero k, hzero k⟩

/-! ## The vote -/

theorem scrubTv_of_taken {n : Nat} {reset : BitVec n} {ok : BitVec n → Bool} {t : Tv n} (h : ok t.val = true) :
    scrubTv reset ok t = Tv.mk3 t.val := by rw [scrubTv, if_pos h]

theorem scrubTv_of_never {n : Nat} {reset : BitVec n} {ok : BitVec n → Bool} {t : Tv n} (h : ok t.val = false) :
    scrubTv reset ok t = Tv.mk3 reset := by rw [scrubTv, if_neg (by simp [h])]

/-- Settles O21: each bit of the field is the majority of its copies', and a scrub writes one value three times. -/
theorem criticalFieldsVote : Obligations.CriticalFieldsVote :=
  ⟨fun n t k => by simp [Tv.val], fun _ _ _ _ => ⟨scrubTv_of_taken, scrubTv_of_never⟩⟩

/-! ## Reset values -/

theorem resetQps_get (q : Fin 256) : resetQps[q] = { vector := BitVec.ofNat 9 q.val } := by
  simp [resetQps]

theorem reset_qp (q : Fin 256) : State.reset.dev.ses.qp[q] = { vector := BitVec.ofNat 9 q.val } := resetQps_get q

theorem reset_port (gp : Fin 112) : State.reset.dev.ports[gp] = {} := by
  have hports : State.reset.dev.ports = Vector.replicate 112 {} := rfl
  simp [hports]

theorem reset_tax (n : Fin 4) : State.reset.dev.mot.tax[n].on = false := by
  fin_cases n <;> rfl

theorem reset_aux (n : Fin 8) : State.reset.dev.mot.aux[n].on = false := by
  fin_cases n <;> rfl

theorem blank_raw_pair {gp n : Nat} (hn : n < 10240) : ({} : Banks).bytes (rawAddr gp n) 2 = [0, 0] := by
  obtain ⟨-, hlow, hhigh⟩ := blank_maps_and_raw (gp := gp) hn
  exact congrArg₂ (fun a b => [a, b]) hlow hhigh

/-- Settles O3: the reset state holds these values by construction, and its blank memory reads them by `blank_maps_and_raw`. -/
theorem resetValues : Obligations.ResetValues := by
  refine ⟨fun q => ?qp, rfl, mk3_val mBoot, rfl, fun gp => ?port, reset_tax, reset_aux, mk3_val _,
    fun gp _ n hn => ⟨(blank_maps_and_raw hn).1, blank_raw_pair hn⟩, rfl, rfl⟩
  case qp =>
    rw [reset_qp]
    exact ⟨rfl, rfl, Nat.mod_eq_of_lt (by omega), rfl, rfl⟩
  case port =>
    rw [reset_port]
    exact ⟨rfl, rfl⟩

end Sys2Proof.Laws
end

section
/-! SUPPORT. What comes from outside: detections, causes and fault inputs (R377, R386, R388, R389), the end of a reaction
(R381, R384), the scrubbers (R417, R427, R428) and the links (R29, R31, R241, R443). -/

namespace Sys2Proof.Laws

open Machine

/-! ## Detections -/

section
variable {d : Dev} {id : Nat}

/-- A source that no input has is always open to detection. -/
theorem inputRead_of_none (hport : ∀ gp : Fin 112, idPortFlt gp.val ≠ id) (hgate : ∀ n : Fin 4, idTaxGate n.val ≠ id)
    (hgpio : ∀ g : Fin 16, idGpio g.val ≠ id) : d.inputRead id = true := by
  simp [Dev.inputRead, hport, hgate, hgpio]

theorem inputRead_pcieAer : d.inputRead 0x011 = true :=
  inputRead_of_none (fun gp => by unfold idPortFlt; omega) (fun n => by unfold idTaxGate; omega)
    (fun g => by unfold idGpio; omega)

theorem inputRead_tineLink (f : Fin 7) : d.inputRead (idDie f.val oTineLink) = true :=
  inputRead_of_none (fun gp => by unfold idPortFlt idDie oTineLink; omega) (fun n => by unfold idTaxGate idDie oTineLink; omega)
    (fun g => by unfold idGpio idDie oTineLink; omega)

theorem forcedOnly_tineLink (f : Fin 7) : forcedOnly (idDie f.val oTineLink) = false := by
  revert f
  decide

theorem faultDetection_of_unread (h : d.inputRead id = false) : d.faultDetection id = d := by
  rw [Dev.faultDetection, h]
  simp

variable (hheld : d.sys.held = false) (hforced : forcedOnly id = false) (huse : d.sourceInUse id = true)
  (hread : d.inputRead id = true)
include hheld hforced huse hread

/-- The guard in front of a detection lets it through. -/
theorem faultDetection_guard : ¬ (d.sys.held || forcedOnly id || !d.sourceInUse id || !d.inputRead id) = true := by
  simp [hheld, hforced, huse, hread]

theorem faultDetection_of_other (haer : id ≠ 0x011) (htine : ∀ f : Fin 7, id ≠ idDie f.val oTineLink) :
    d.faultDetection id = (d.detect id).afterCrit id := by
  have hdie : ¬ (0x100 ≤ id ∧ id < 0x2C0 ∧ (id - 0x100) % 0x40 = oTineLink) := by
    rintro ⟨hlo, hhi, hoff⟩
    refine htine ⟨(id - 0x100) / 0x40, by omega⟩ ?_
    simp only [idDie]
    omega
  rw [Dev.faultDetection, if_neg (faultDetection_guard hheld hforced huse hread), dif_neg hdie]
  simp [haer]

end

section
variable {d : Dev} (hheld : d.sys.held = false)
include hheld

theorem faultDetection_pcieAer (huse : d.sourceInUse 0x011 = true) : d.faultDetection 0x011 =
    (if d.pcieOff then d else d.modPci fun x => { x with uncorrectable := satTo 0xFFFF x.uncorrectable }).detect 0x011 := by
  rw [Dev.faultDetection, if_neg (faultDetection_guard hheld rfl huse inputRead_pcieAer), dif_neg (by omega)]
  cases hoff : d.pcieOff <;> simp [Dev.afterCrit]

theorem faultDetection_tineLink {f : Fin 7} (huse : d.sourceInUse (idDie f.val oTineLink) = true) :
    d.faultDetection (idDie f.val oTineLink) = d.tineFail f := by
  have hdie : 0x100 ≤ idDie f.val oTineLink ∧ idDie f.val oTineLink < 0x2C0
      ∧ (idDie f.val oTineLink - 0x100) % 0x40 = oTineLink := by
    unfold idDie oTineLink
    omega
  have hval : (⟨(idDie f.val oTineLink - 0x100) / 0x40, by omega⟩ : Fin 7) = f := by
    apply Fin.ext
    simp only [idDie, oTineLink]
    omega
  rw [Dev.faultDetection, if_neg (faultDetection_guard hheld (forcedOnly_tineLink f) huse (inputRead_tineLink f)),
    dif_pos hdie, hval]

theorem lastingGone_of_lasting {id : Nat} (huse : d.sourceInUse id = true) (hocc : occurrence id = false) :
    d.lastingGone id = d.causeGone id := by
  simp [Dev.lastingGone, hheld, huse, hocc]

/-! ## Fault inputs -/

theorem inputChange_head {gp : Fin 112} {f : Fin 7} {p n : Bool} (hport : d.hasPort gp.val = true)
    (hon : d.ports[gp].on = true) (hf : gp.val / 16 = f.val) : d.inputChange (.head gp) p n =
      d.inputCause (idPortFlt gp.val) (readInput (d.flt.dualRail[f].getLsbD (gp.val % 16)) d.flt.activeHigh[f] p n) := by
  have hdie : (⟨gp.val / 16, by omega⟩ : Fin 7) = f := Fin.ext hf
  simp only [Dev.inputChange, hheld, hport, hon, hdie]
  rfl

theorem inputChange_gate {a : Fin 4} {p n : Bool} (htax : d.hasTax = true) (hon : d.mot.tax[a].on = true) :
    d.inputChange (.gate a) p n = d.inputCause (idTaxGate a.val)
      (readInput (d.flt.gateDual.val.getLsbD a.val) (d.flt.gateHigh.val == 1) p n) := by
  simp only [Dev.inputChange, hheld, htax, hon]
  rfl

theorem inputChange_gpio {g : Fin 16} {p n : Bool} (hon : d.flt.gpioEnable.val.getLsbD g.val = true) :
    d.inputChange (.gpio g) p n =
      d.inputCause (idGpio g.val) (readInput false (d.flt.gpioHigh.val.getLsbD g.val) p n) := by
  simp only [Dev.inputChange, hheld, hon]
  rfl

theorem inputChange_estop {p n : Bool} : d.inputChange .estop p n =
    ((d.modFlt fun x => { x with estop := some (p, n) }).inputCause 0x00E (readInput true false p n)).toReady := by
  simp only [Dev.inputChange, hheld]
  rfl

end

section
variable {s : State} {d : Dev}

theorem exec_faultDetection {id : Nat} (h : s.dev.faultDetection id = d) :
    exec (.faultDetection id) s = .next { s with dev := d } := by
  subst h
  rfl

theorem exec_faultCauseGone {id : Nat} (h : s.dev.lastingGone id = d) :
    exec (.faultCauseGone id) s = .next { s with dev := d } := by
  subst h
  rfl

theorem exec_faultInputChange {i : FaultInput} {p n : Bool} (h : s.dev.inputChange i p n = d) :
    exec (.faultInputChange i p n) s = .next { s with dev := d } := by
  subst h
  rfl

variable (hopen : s.dev.intakeOpen = true) (hmode : s.dev.mode ≠ mFallow)
include hopen hmode

theorem cpRuns_of_open : s.dev.cpRuns = true := by
  rw [Dev.cpRuns, hopen, bne_iff_ne.mpr hmode]
  rfl

theorem exec_cpWdog : exec .cpWdog s = .next { s with dev := (s.dev.detect 0x003).cpRestart } := by
  unfold exec execCpWdog
  exact onDev_of_eq (if_pos (cpRuns_of_open hopen hmode))

theorem exec_cpFail : exec .cpFail s = .next { s with dev := s.dev.detect 0x004 } := by
  unfold exec execCpFail
  exact onDev_of_eq (if_pos (cpRuns_of_open hopen hmode))

end

/-- Settles O27: the guard of each row, then the branch of its source or input. -/
theorem faultRowsComplete : Obligations.FaultRowsComplete := by
  refine ⟨?detection, ?aer, ?tineLink, ?causeGone, ?head, ?gate, ?gpio, ?estop, fun s hopen hmode => exec_cpWdog hopen hmode,
    fun s hopen hmode => exec_cpFail hopen hmode⟩
  case detection =>
    exact fun s id hheld hforced huse =>
      ⟨fun hread haer htine => exec_faultDetection (faultDetection_of_other hheld hforced huse hread haer htine),
        fun hread => exec_faultDetection (faultDetection_of_unread hread)⟩
  case aer => exact fun s hheld huse => exec_faultDetection (faultDetection_pcieAer hheld huse)
  case tineLink => exact fun s f hheld huse => exec_faultDetection (faultDetection_tineLink hheld huse)
  case causeGone => exact fun s id hheld huse hocc => exec_faultCauseGone (lastingGone_of_lasting hheld huse hocc)
  case head => exact fun s gp f p n hheld hport hon hf => exec_faultInputChange (inputChange_head hheld hport hon hf)
  case gate => exact fun s a p n hheld htax hon => exec_faultInputChange (inputChange_gate hheld htax hon)
  case gpio => exact fun s g p n hheld hon => exec_faultInputChange (inputChange_gpio hheld hon)
  case estop => exact fun s p n hheld => exec_faultInputChange (inputChange_estop hheld)

/-! ## The end of a reaction -/

section
variable {s : State} {r : Reaction}

theorem exec_reactionComplete {d : Dev} (h : s.dev.reactionComplete = d) :
    exec .reactionComplete s = .next { s with dev := d } := by
  subst h
  rfl

variable {d : Dev} (hr : d.flt.reaction = some r)
include hr

theorem reactionComplete_of_contain (hcls : r.cls ≤ 3) (hdone : d.containDone = true) :
    d.reactionComplete = d.recordDone.outAfterContain := by
  rw [Dev.reactionComplete, hr]
  simp only [if_pos hcls, hdone, if_true]

theorem reactionComplete_of_stop (hcls : ¬ r.cls ≤ 3) (hdone : d.stopDone = true) :
    d.reactionComplete = d.recordDone.toHalted := by
  rw [Dev.reactionComplete, hr]
  simp only [if_neg hcls, hdone, if_true]

end

theorem enterMode_mode (d : Dev) (m : BitVec 4) : (d.enterMode m).mode = m := by
  obtain ⟨x, hx⟩ := setMode_eq d m
  rw [Dev.mode, still_sys (still_enterMode m), hx]
  exact mk3_val m

theorem toHalted_mode (d : Dev) : d.toHalted.mode = mHalted := by
  unfold Dev.toHalted
  extract_lets d1 d2 d3
  split
  case isTrue h => exact h
  case isFalse => exact enterMode_mode d3 mHalted

/-- Settles O28: by the class of the reaction; `toHalted` ends in HALTED whatever mode it began in. -/
theorem reactionCompletes : Obligations.ReactionCompletes :=
  ⟨fun _ _ hr hcls hdone => exec_reactionComplete (reactionComplete_of_contain hr hcls hdone),
    fun s _ hr hcls hdone =>
      ⟨exec_reactionComplete (reactionComplete_of_stop hr hcls hdone), toHalted_mode s.dev.recordDone⟩⟩

/-! ## The patrol scrubber -/

section
variable {d : Dev} {die : Fin 8} {bank : BitVec 4} {off : Nat}
  (hheld : d.sys.held = false) (hmode : d.mode ≠ mFallow) (hhere : d.dieHere die.val = true)
  (hlow : off < bankBytes die.val bank.toNat) (hword : off % 8 = 0)
include hheld hmode hhere hlow hword

/-- A word of a bank that is present is read. -/
theorem patrol_eq (r : EccResult) : d.patrol die bank off r =
    if d.mr.badWords.contains (die.val, bank.toNat, off) then d.foundBad die bank off
    else match r with
      | .clean => if d.mr.flipped.contains (die.val, bank.toNat, off) then d.correct (die.val, bank.toNat, off) else d
      | .corrected => d.correct (die.val, bank.toNat, off)
      | .uncorrectable => d.foundBad die bank off := by
  have hguard : ¬ (d.sys.held || decide (d.mode = mFallow) || !d.dieHere die.val
      || decide (bankBytes die.val bank.toNat ≤ off) || decide (off % 8 ≠ 0)) = true := by
    rw [hheld, decide_eq_false hmode, hhere]
    simp [hlow, hword]
  unfold Dev.patrol
  exact if_neg (by simpa using hguard)

theorem patrol_of_bad (r : EccResult) (hbad : (die.val, bank.toNat, off) ∈ d.mr.badWords) :
    d.patrol die bank off r = d.foundBad die bank off := by
  rw [patrol_eq hheld hmode hhere hlow hword, if_pos (List.contains_iff_mem.mpr hbad)]

theorem patrol_uncorrectable : d.patrol die bank off .uncorrectable = d.foundBad die bank off := by
  rw [patrol_eq hheld hmode hhere hlow hword]
  exact ite_self _

variable (hgood : (die.val, bank.toNat, off) ∉ d.mr.badWords)
include hgood

theorem patrol_clean (hflip : (die.val, bank.toNat, off) ∉ d.mr.flipped) : d.patrol die bank off .clean = d := by
  rw [patrol_eq hheld hmode hhere hlow hword]
  simp [hgood, hflip]

theorem patrol_flipped (hflip : (die.val, bank.toNat, off) ∈ d.mr.flipped) :
    d.patrol die bank off .clean = d.correct (die.val, bank.toNat, off) := by
  rw [patrol_eq hheld hmode hhere hlow hword]
  simp [hgood, hflip]

theorem patrol_corrected : d.patrol die bank off .corrected = d.correct (die.val, bank.toNat, off) := by
  rw [patrol_eq hheld hmode hhere hlow hword]
  simp [hgood]

end

theorem exec_patrolScrub {s : State} {d : Dev} {die : Fin 8} {bank : BitVec 4} {off : Word} {r : EccResult}
    (h : s.dev.patrol die bank off.toNat r = d) : exec (.patrolScrub die bank off r) s = .next { s with dev := d } := by
  subst h
  rfl

theorem exec_tvScrub {s : State} {d : Dev} (h : s.dev.tvScrub = d) : exec .tvScrub s = .next { s with dev := d } := by
  subst h
  rfl

theorem tvScrub_of_running {d : Dev} (hheld : d.sys.held = false) : d.tvScrub =
    ((fins 7).map fun f => (f, d.dieVotes f)).foldl (fun d x => d.raiseVotes ⟨x.1.val + 1, by omega⟩ x.2)
      (d.scrubbed.raiseVotes 0 d.hubVotes) := by
  rw [Dev.tvScrub, hheld]
  rfl

/-! ## Links -/

section
variable {d : Dev} {f : Fin 7} (hup : d.tineUp f = true)
include hup

theorem tineFlit_of_no_answer {toHub data : Bool} (h : toHub = false ∨ data = true ∨ d.dies[f].ctrlWaitUp = []) :
    d.tineFlit f toHub data .flit = d.modDie f fun x => x.credit toHub data := by
  simp only [Dev.tineFlit, hup]
  rcases h with rfl | rfl | hnone
  · rfl
  · simp
  · have hhead : d.dies[f].ctrlWaitUp.head? = none := by rw [hnone]; rfl
    rw [hhead, ite_self]
    rfl

theorem tineFlit_of_answer {m : CtrlMsg} {ms : List CtrlMsg} (h : d.dies[f].ctrlWaitUp = m :: ms) :
    d.tineFlit f true false .flit = (d.modDie f fun x => x.credit true false).answerUp f m := by
  simp only [Dev.tineFlit, hup, h]
  rfl

theorem tineFlit_codeError (toHub data : Bool) : d.tineFlit f toHub data .codeError =
    (d.modDie f fun x => { x with codeErrors := satTo 0xFFFF x.codeErrors }).tineFail f := by
  simp only [Dev.tineFlit, hup]
  rfl

end

theorem exec_tineFlit {s : State} {d : Dev} {f : Fin 7} {toHub data : Bool} {e : TineEvent}
    (h : s.dev.tineFlit f toHub data e = d) : exec (.tineFlit f toHub data e) s = .next { s with dev := d } := by
  subst h
  rfl

theorem exec_tineAckTimeout {s : State} {f : Fin 7} (hup : s.dev.tineUp f = true) :
    exec (.tineAckTimeout f) s = .next { s with dev := s.dev.tineFail f } := by
  unfold exec execTineAckTimeout
  exact onDev_of_eq (if_pos hup)

theorem exec_sgmiiLinkChange {s : State} {d : Dev} {up : Bool} (h : s.dev.sgmiiLink up = d) :
    exec (.sgmiiLinkChange up) s = .next { s with dev := d } := by
  subst h
  rfl

theorem sgmiiLink_of_other {d : Dev} {up : Bool} (hheld : d.sys.held = false) (hon : d.linkOn (.udp 0 0) = true)
    (hlink : d.eth.link = !up) : d.sgmiiLink up =
      if up then (d.modEth fun x => { x with link := up }).causeGone idEthLink
      else (d.modEth fun x => { x with link := up }).detect idEthLink := by
  have hchange : ¬ d.eth.link = up := by rw [hlink]; exact Bool.not_ne_self up
  simp only [Dev.sgmiiLink, hheld, hon, hchange]
  rfl

theorem exec_pcieLinkChange {s : State} {d : Dev} {speed : BitVec 4} {width : BitVec 6}
    (h : s.dev.pcieLink speed width = d) : exec (.pcieLinkChange speed width) s = .next { s with dev := d } := by
  subst h
  rfl

section
variable {d : Dev} {width : BitVec 6} (hup : d.pcieUp = true)
include hup

theorem pcieLink_up {speed : BitVec 4} (hspeed : speed ≠ 0) : d.pcieLink speed width =
    d.modPci fun x => { x with speed := speed, width := width, down := false } := by
  simp only [Dev.pcieLink, hup, if_neg hspeed, beq_false_of_ne hspeed]
  rfl

theorem pcieLink_down : d.pcieLink 0 width =
    (d.modPci fun x => { x with speed := 0, width := 0, down := true }).hostLost := by
  rw [Dev.pcieLink, hup]
  rfl

end

/-- Settles O29: each row by what the word, the flit or the link shows. -/
theorem healthRowsComplete : Obligations.HealthRowsComplete := by
  refine ⟨?scrub, ?patrol, ?flit, fun s f hup => exec_tineAckTimeout hup, ?sgmii,
    fun s speed width hup hspeed => exec_pcieLinkChange (pcieLink_up hup hspeed),
    fun s width hup => exec_pcieLinkChange (pcieLink_down hup)⟩
  case scrub =>
    intro s dies hheld hdies
    subst hdies
    exact exec_tvScrub (tvScrub_of_running hheld)
  case patrol =>
    intro s die bank off hheld hmode hhere hlow hword
    refine ⟨fun hgood => ⟨fun hflip => ?_, fun hflip => ?_, ?_⟩, ?_, fun r hbad => ?_⟩
    · exact exec_patrolScrub (patrol_clean hheld hmode hhere hlow hword hgood hflip)
    · exact exec_patrolScrub (patrol_flipped hheld hmode hhere hlow hword hgood hflip)
    · exact exec_patrolScrub (patrol_corrected hheld hmode hhere hlow hword hgood)
    · exact exec_patrolScrub (patrol_uncorrectable hheld hmode hhere hlow hword)
    · exact exec_patrolScrub (patrol_of_bad hheld hmode hhere hlow hword r hbad)
  case flit =>
    intro s f toHub data hup
    exact ⟨fun h => exec_tineFlit (tineFlit_of_no_answer hup h), fun m ms h => exec_tineFlit (tineFlit_of_answer hup h),
      exec_tineFlit (tineFlit_codeError hup toHub data)⟩
  case sgmii =>
    exact fun s hheld hon => ⟨fun hlink => exec_sgmiiLinkChange (sgmiiLink_of_other hheld hon hlink),
      fun hlink => exec_sgmiiLinkChange (sgmiiLink_of_other hheld hon hlink)⟩

end Sys2Proof.Laws
end

section
/-! SUPPORT. OTP_READ, OTP_PROGRAM and OTP_FINALISE, and the rows in which the controller runs a request (R178, R179,
R395 to R404). -/

namespace Sys2Proof.Laws

open Machine

/-! ## The three commands -/

/-- A request joins the controller's queue. -/
def joinQueue (d : Dev) (req : OtpReq) : Dev := d.modOtp fun y => { y with queue := y.queue ++ [req] }

section
variable {s : State} {p : Packet} {x : Session}

section
variable (hrow : within 0 4095 (par p 0 2)) (hn : within 1 338 (par p 2 2))
  (hroom : replyFits p x.macRequired (12 * par p 2 2) = true) (hlast : par p 0 2 + par p 2 2 - 1 ≤ 4095)
include hrow hn hroom hlast

theorem otpReadCmd_of_idle (hidle : s.dev.otp.queue = []) {r : Dev × List Byte}
    (hr : r = (s.dev.otpCmdDone s.rows).otpReadRows s.rows (decide (rService ≤ x.role))
      ((List.range (par p 2 2)).map (par p 0 2 + ·))) :
    otpReadCmd ⟨s, p, x⟩ = .ok (r.1, .ok r.2) := by
  subst hr
  have hfree : s.dev.otp.queue.length < 4 := by simp [hidle]
  simp only [otpReadCmd, needRange_of hrow, needRange_of hn, needRoom_of hroom, need_of (decide_eq_true hlast),
    needFree_of (decide_eq_true hfree), List.isEmpty_iff.mpr hidle]
  rfl

theorem otpReadCmd_of_busy (hbusy : s.dev.otp.queue ≠ []) (hfree : s.dev.otp.queue.length < 4) :
    otpReadCmd ⟨s, p, x⟩ =
      .ok (joinQueue s.dev (.read p (par p 0 2) (par p 2 2) (decide (rService ≤ x.role))), .park .otpRead) := by
  simp only [otpReadCmd, needRange_of hrow, needRange_of hn, needRoom_of hroom, need_of (decide_eq_true hlast),
    needFree_of (decide_eq_true hfree), List.isEmpty_eq_false_iff.mpr hbusy]
  rfl

end

theorem otpProgramCmd_of_allowed {role : BitVec 2} (hrole : otpRole (par p 0 2) = some role) (hzero : reservedZero p 2 2)
    (hdata : otpDataOk (par p 0 2) (par p 4 8) (x.role == rVendor) = true) (hfree : s.dev.otp.queue.length < 4)
    (hopen : s.dev.otpBarred s.rows (par p 0 2) (x.role == rVendor) = false) :
    otpProgramCmd ⟨s, p, x⟩ = .ok
      (joinQueue s.dev (.program (par p 0 2) (BitVec.ofNat 64 (par p 4 8)) (x.role == rVendor)), .queued []) := by
  have hsome : (otpRole (par p 0 2)).isSome = true := by rw [hrole]; rfl
  have hbar : (!s.dev.otpBarred s.rows (par p 0 2) (x.role == rVendor)) = true := by rw [hopen]; rfl
  simp only [otpProgramCmd, needZero_of hzero, needP_of hdata, needFree_of (decide_eq_true hfree), need_of hsome,
    need_of hbar]
  rfl

theorem otpFinaliseCmd_of_allowed (hcode : within 3 5 (par p 0 1)) (hzero : reservedZero p 1 3)
    (hfree : s.dev.otp.queue.length < 4) (hopen : s.dev.finaliseBarred s.rows (otpRegion (par p 0 1)) = false) :
    otpFinaliseCmd ⟨s, p, x⟩ = .ok
      (joinQueue s.dev (.finalise (par p 0 1) (BitVec.ofNat 32 (par p 4 4)) ((pktParams p).drop 8)), .queued []) := by
  have hbar : (!s.dev.finaliseBarred s.rows (otpRegion (par p 0 1))) = true := by rw [hopen]; rfl
  simp only [otpFinaliseCmd, needRange_of hcode, needZero_of hzero, needFree_of (decide_eq_true hfree), need_of hbar]
  rfl

end

/-! ## Requests that run -/

/-- The part once a request has run: the reads behind it have run too (R404). -/
def requestOver (rows : OtpRows) (e : Dev) : Dev :=
  (e.modOtp fun o => { o with slotDebug := otpSlotDebug rows }).otpFrontReads rows e.otp.queue.length

/-- With the queue empty the commands that waited to write OTP_CMD go on. -/
theorem otpIdle_eq (d : Dev) (rows : OtpRows) (m : Banks) :
    otpIdle (d, rows) m = (let r := if d.otp.queue ≠ [] then (d, m) else d.ses.work.foldl (resumeOne rows) (d, m)
      (r.1, r.2, rows)) := by
  unfold otpIdle
  cases hqueue : d.otp.queue <;> rfl

/-- The state that a row leaves in which a request has run. -/
def afterRow (s : State) (x : Dev × OtpRows) : State :=
  let r := otpIdle (otpSettle x) s.mem
  { s with dev := r.1, mem := r.2.1, rows := r.2.2 }

theorem otpRow_next {s : State} {c : Instr} {e : Dev} {rows : OtpRows} (h : exec c s = .next (afterRow s (e, rows))) :
    ∃ t, exec c s = .next t ∧ t.rows = rows
      ∧ (t.dev, t.mem) = if (requestOver rows e).otp.queue ≠ [] then (requestOver rows e, s.mem)
        else (requestOver rows e).ses.work.foldl (resumeOne rows) (requestOver rows e, s.mem) := by
  have hidle := otpIdle_eq (requestOver rows e) rows s.mem
  refine ⟨_, h, ?_⟩
  have hover : otpIdle (otpSettle (e, rows)) s.mem = otpIdle (requestOver rows e, rows) s.mem := rfl
  simp only [afterRow, hover, hidle, and_self]

section
variable {s : State} {burns : List Burn} {rest : List OtpReq} {b : Dev} (hb : b = s.dev.otpCmdDone s.rows)
  (hheld : b.sys.held = false)
include hb hheld

theorem otpProgramExecute_of_open {second : Burn} {vendor : Bool} {row : Nat} {data held : DWord} {r : OtpRows × Nat}
    (hqueue : b.otp.queue = .program row data vendor :: rest) (hopen : b.otpBarred s.rows row vendor = false)
    (hdata : held = otpDataHeld s.rows row data vendor) (hr : r = otpProgramRow s.rows row held burns second) :
    otpProgramExecute burns second s = ((b.otpAfterProgram row held r.2).otpDone 0 row r.2, r.1) := by
  subst hr hdata hb
  unfold otpProgramExecute
  simp only [hheld, hqueue, hopen]
  rfl

theorem otpFinaliseExecute_of_open {code : Nat} {count : Word} {digest : List Byte} {r : OtpRows × Nat}
    (hqueue : b.otp.queue = .finalise code count digest :: rest)
    (hopen : b.finaliseBarred s.rows (otpRegion code) = false)
    (hr : r = finaliseRun s.rows (otpRegion code) count digest burns) :
    otpFinaliseExecute burns s =
      ((b.modOtp fun y => { y with sealedR := otpSeals r.1 }).otpDone 1 (otpRegion code).header r.2, r.1) := by
  subst hr hb
  unfold otpFinaliseExecute
  simp only [hheld, hqueue, hopen]
  rfl

end

theorem exec_otpProgramExecute {s : State} {burns : List Burn} {second : Burn} {x : Dev × OtpRows}
    (h : otpProgramExecute burns second s = x) :
    exec (.otpProgramExecute burns second) s = .next (afterRow s x) := by
  simp only [exec, execOtpProgramExecute, onAll, h]
  rfl

theorem exec_otpFinaliseExecute {s : State} {burns : List Burn} {x : Dev × OtpRows} (h : otpFinaliseExecute burns s = x) :
    exec (.otpFinaliseExecute burns) s = .next (afterRow s x) := by
  simp only [exec, execOtpFinaliseExecute, onAll, h]
  rfl

/-- Settles O30: the checks of a command put its request into the queue; a request that runs is followed by `afterRow`. -/
theorem otpCommandsComplete : Obligations.OtpCommandsComplete := by
  refine ⟨?idle, ?busy, ?program, ?programRuns, ?finalise, ?finaliseRuns⟩
  case idle =>
    intro s p x r hready hrow hn hroom hlast hidle hr hfit
    exact onDev_ok hready.1 (otpReadCmd_of_idle hrow hn hroom hlast hidle hr) hfit
  case busy =>
    intro s p x req hready hrow hn hroom hlast hbusy hfree hreq
    subst hreq
    exact onDev_finish hready (otpReadCmd_of_busy hrow hn hroom hlast hbusy hfree) rfl
  case program =>
    intro s p x row role req hready hrow hrole hzero hdata hfree hopen hreq
    subst hrow hreq
    exact onDev_queued hready.1 (otpProgramCmd_of_allowed hrole hzero hdata hfree hopen) hready.2
  case programRuns =>
    intro s burns second vendor row data held rest r b e hb hheld hqueue hopen hdata hr he
    subst he
    obtain ⟨t, hnext, hrows, hdev⟩ :=
      otpRow_next (exec_otpProgramExecute (otpProgramExecute_of_open hb hheld hqueue hopen hdata hr))
    exact ⟨t, _, hnext, hrows, rfl, hdev⟩
  case finalise =>
    intro s p x code req hready hcode hrange hzero hfree hopen hreq
    subst hcode hreq
    exact onDev_queued hready.1 (otpFinaliseCmd_of_allowed hrange hzero hfree hopen) hready.2
  case finaliseRuns =>
    intro s burns code count digest rest r b d hb hheld hqueue hopen hr hd
    subst hd
    obtain ⟨t, hnext, hrows, hdev⟩ :=
      otpRow_next (exec_otpFinaliseExecute (otpFinaliseExecute_of_open hb hheld hqueue hopen hr))
    exact ⟨t, _, _, hnext, hrows, rfl, rfl, hdev⟩

end Sys2Proof.Laws
end

section
/-! SUPPORT. Edges, samples and observer ticks of an encoder channel (R311 to R317, R320 to R322). -/

namespace Sys2Proof.Laws

open Machine

/-! ## What the receivers change -/

section
variable (d : Dev) (ch : Fin 4)

@[simp] theorem encMode_allCopies (f : EncCopy → EncCopy) : (d.allCopies ch f).encMode ch = d.encMode ch := by
  simp [Dev.encMode, Dev.allCopies, Dev.modEnc]

@[simp] theorem encMode_setLevels (a b : Bool) : (d.setLevels ch a b).encMode ch = d.encMode ch := encMode_allCopies d ch _

@[simp] theorem encMode_outputs : (d.outputs ch).encMode ch = d.encMode ch := by
  unfold Dev.outputs
  split <;> rfl

end

section
variable {d : Dev} {m : Banks} {ch : Fin 4} (hon : d.counting = true)
include hon

/-! ## Quadrature -/

theorem quadEdge_of_mode (hmode : d.encMode ch = 1) (a b close : Bool) : d.quadEdge m ch a b close =
    (let step := (quadIndex a b + 4 - quadIndex (d.hub ch).a (d.hub ch).b) % 4
      let e := d.setLevels ch a b
      if step = 0 then e else if step = 2 then (e.seqError ch).outputs ch
      else ((e.normal (idEncSeq ch.val)).edgeAll m ch (step == 1) (!close)).outputs ch) := by
  have hlevels : (d.setLevels ch a b).encMode ch = 1 := (encMode_setLevels d ch a b).trans hmode
  simp only [Dev.quadEdge, hon, hlevels]
  rfl

theorem quadEdge_of_other (hmode : d.encMode ch ≠ 1) (a b close : Bool) :
    d.quadEdge m ch a b close = (d.setLevels ch a b).outputs ch := by
  have hlevels : (d.setLevels ch a b).encMode ch ≠ 1 := by rwa [encMode_setLevels]
  simp only [Dev.quadEdge, hon, if_pos hlevels]
  rfl

/-! ## Step and direction -/

theorem stepEdge_of_mode (hmode : d.encMode ch = 2) (a b unstable close : Bool) : d.stepEdge m ch a b unstable close =
    (let e := d.setLevels ch a b;
      (if !(a && !(d.hub ch).a) then e else if unstable then e.edgeUnstable m ch (!close)
        else e.edgeAll m ch b (!close)).outputs ch) := by
  simp only [Dev.stepEdge, hon, hmode]
  rfl

theorem stepEdge_of_level (hmode : d.encMode ch = 2) {a b : Bool} (hlevel : a = false ∨ (d.hub ch).a = true)
    (unstable close : Bool) : d.stepEdge m ch a b unstable close = (d.setLevels ch a b).outputs ch := by
  have hrises : (!(a && !(d.hub ch).a)) = true := by rcases hlevel with h | h <;> simp [h]
  rw [stepEdge_of_mode hon hmode, hrises]
  rfl

theorem stepEdge_of_rise (hmode : d.encMode ch = 2) {a b : Bool} (ha : a = true) (hwas : (d.hub ch).a = false)
    (unstable close : Bool) : d.stepEdge m ch a b unstable close =
      (if unstable then (d.setLevels ch a b).edgeUnstable m ch (!close)
        else (d.setLevels ch a b).edgeAll m ch b (!close)).outputs ch := by
  rw [stepEdge_of_mode hon hmode, ha, hwas]
  rfl

/-! ## Up and down -/

theorem upDownEdge_of_mode (hmode : d.encMode ch = 3) (a b close : Bool) : d.upDownEdge m ch a b close =
    (let e := d.setLevels ch a b
      let e := if a && !(d.hub ch).a then e.edgeAll m ch true (!close) else e;
      (if b && !(d.hub ch).b then e.edgeAll m ch false (!close) else e).outputs ch) := by
  simp only [Dev.upDownEdge, hon, hmode]
  rfl

/-! ## Index -/

theorem indexEdge_of_rise {z : Bool} {e : Dev} (he : e = (d.allCopies ch fun c => { c with z := z }).outputs ch)
    (hz : z = true) (hwas : (d.hub ch).z = false) (hmode : d.encMode ch ≠ 0) : d.indexEdge ch z =
      (((e.allCopies ch fun c => { c with index := c.count, indexSeen := true }).posEvent ch 2).toggle 0
        (0x205 + 8 * ch.val)).indexHoming ch := by
  have hnow : e.encMode ch ≠ 0 := by rwa [he, encMode_outputs, encMode_allCopies]
  have hskip : ¬ (!(z && !(d.hub ch).z) || decide (e.encMode ch = 0)) = true := by
    rw [hz, hwas, decide_eq_false hnow]
    decide
  subst he
  simp only [Dev.indexEdge, hon, if_neg hskip]
  rfl

theorem indexEdge_of_level {z : Bool} {e : Dev} (he : e = (d.allCopies ch fun c => { c with z := z }).outputs ch)
    (h : z = false ∨ (d.hub ch).z = true ∨ d.encMode ch = 0) : d.indexEdge ch z = e := by
  have hnow : e.encMode ch = d.encMode ch := by rw [he, encMode_outputs, encMode_allCopies]
  have hskip : (!(z && !(d.hub ch).z) || decide (e.encMode ch = 0)) = true := by
    rw [hnow]
    rcases h with h | h | h <;> simp [h]
  subst he
  simp only [Dev.indexEdge, hon, if_pos hskip]
  rfl

/-! ## Sin/cos -/

theorem quadrantChange_of_mode (hmode : d.encMode ch = 4) {cosHigh sinHigh : Bool} {e : Dev}
    (he : e = d.allCopies ch fun c => { c with cosHigh := cosHigh, sinHigh := sinHigh }) :
    d.quadrantChange m ch cosHigh sinHigh =
      (let q := quadrantOf cosHigh sinHigh
        let step := (q + 4 - (d.hub ch).quadrant.toNat) % 4
        if step = 0 then e
        else if step = 2 then ((e.allCopies ch fun c => { c with quadrant := BitVec.ofNat 2 q }).seqError ch).outputs ch
        else (e.copyDies.foldl (Dev.quadrantStep m ch q (step == 1)) (e.normal (idEncSeq ch.val))).outputs ch) := by
  have hnow : e.encMode ch = 4 := by rw [he, encMode_allCopies, hmode]
  subst he
  simp only [Dev.quadrantChange, hon, hnow]
  simp

/-- A sample with its outcome: the window, the counts, the fine counts that a snapshot waits for, and the amplitude. -/
theorem sincosSample_of_mode (hmode : d.encMode ch = 4) {sin cos : BitVec 14} {g : EncCfg} {sq : Nat} {out : Bool}
    {e e2 e3 : Dev} (hg : g = d.pos.enc[ch].cfg) (hsq : sq = sin.toInt.natAbs ^ 2 + cos.toInt.natAbs ^ 2)
    (hout : out = decide (sq < g.winLo.toNat * 16384 ∨ g.winHi.toNat * 16384 < sq))
    (he : e = d.modEnc ch (fun e => { e with
      copies := vall (fun (x : EncCopy) => { x with
        m := ampOf sq
        outside := if out then min 256 (x.outside + 1) else 0
        inside := if out then 0 else min 256 (x.inside + 1) }) e.copies }))
    (he2 : e2 = if out then e else e.copyDies.foldl (Dev.useSample m ch (turnsOf sin.toInt cos.toInt)) e)
    (he3 : e3 = e2.modEnc ch (fun e => { e with
      copies := vall (fun (x : EncCopy) => if x.fineDue then
        { x with fineDue := false, fine := some (e2.pos.snapNumber, x.gen, x.count) } else x) e.copies })) :
    d.sincosSample m ch sin cos =
      (((fins 7).filter fun f => (e3.pos.enc[ch].copies[copyOf f]).fineOwed).foldl (fun d f =>
        (d.modCopy ch (copyOf f) fun c => { c with fineOwed := false }).compareFine f ch) e3).amplitude ch out := by
  have hgo : ¬ (!d.counting || decide (d.encMode ch ≠ 4)) = true := by simp [hon, hmode]
  subst he3 he2 he hout hsq hg
  exact if_neg hgo

/-! ## Ticks -/

theorem observed_of_digital {die : Fin 8} (hdie : die ∈ d.copyDies) (hmode : within 1 3 (d.encMode ch)) :
    d.observed die ch = true := by
  simp [Dev.observed, hon, hdie, hmode.1, hmode.2]

theorem observerStill_of_digital {die : Fin 8} (hdie : die ∈ d.copyDies) (hmode : within 1 3 (d.encMode ch)) :
    d.observerStill m die ch = (d.modCopy ch die fun c =>
      { c with
        x := max (c.pos : Rat) (min (c.pos + 1 : Rat) c.x), v := 0, acc := 0, t := d.sys.now
        still := true }).observerRan m ch die :=
  if_pos (observed_of_digital hon hdie hmode)

end

/-- A latch of the timebase leaves the channels and the dies present as they are. -/
theorem observed_latchTimebase (d : Dev) (f : Fin 7) (die : Fin 8) (ch : Fin 4) :
    (d.latchTimebase f).observed die ch = d.observed die ch := by
  unfold Dev.latchTimebase
  split <;> rfl

theorem furrowOf_copyOf (f : Fin 7) : furrowOf (copyOf f) = some f := rfl

theorem copyOf_of_ne_zero {die : Fin 8} (h : die ≠ 0) : ∃ f : Fin 7, die = copyOf f :=
  ⟨⟨die.val - 1, by omega⟩, Fin.ext (by have hpos := Fin.pos_iff_ne_zero.mpr h; simp only [copyOf]; omega)⟩

theorem hasDie_of_copy {d : Dev} {f : Fin 7} (h : copyOf f ∈ d.copyDies) : d.hasDie f.val = true := by
  simpa [Dev.copyDies, copyOf] using h

/-- The tick of a digital channel: a furrow die latches its timebase first (R262). -/
theorem observerTick_of_digital {d e : Dev} {m : Banks} {ch : Fin 4} {die : Fin 8} (hon : d.counting = true)
    (hdie : die ∈ d.copyDies) (hmode : within 1 3 (d.encMode ch)) (hhub : die = 0 → e = d)
    (hfurrow : ∀ f : Fin 7, die = copyOf f → e = d.latchTimebase f) : d.observerTick m die ch =
      (e.modCopy ch die fun c => c.observe e.pos.enc[ch].cfg.omega e.sys.now c.tickErr).observerRan m ch die := by
  have hobs := observed_of_digital hon hdie hmode
  by_cases hzero : die = 0
  · subst hzero
    rw [hhub rfl]
    exact if_pos hobs
  · obtain ⟨f, rfl⟩ := copyOf_of_ne_zero hzero
    rw [hfurrow f rfl]
    have hnow := (observed_latchTimebase d f (copyOf f) ch).trans hobs
    simp only [Dev.observerTick, furrowOf_copyOf, hon, hasDie_of_copy hdie, Bool.and_self, if_true, if_pos hnow]

/-! ## The rows -/

section
variable {s : State} {d : Dev} {ch : Fin 4}

theorem exec_quadratureEdge {a b close : Bool} (h : s.dev.quadEdge s.banks ch a b close = d) :
    exec (.quadratureEdge ch a b close) s = .next { s with dev := d } := by
  subst h
  rfl

theorem exec_stepDirEdge {l : Levels} {w : StepFlaws} (h : s.dev.stepEdge s.banks ch l.a l.b w.unstable w.close = d) :
    exec (.stepDirEdge ch l w) s = .next { s with dev := d } := by
  subst h
  rfl

theorem exec_upDownEdge {l : Levels} {close : Bool} (h : s.dev.upDownEdge s.banks ch l.a l.b close = d) :
    exec (.upDownEdge ch l close) s = .next { s with dev := d } := by
  subst h
  rfl

theorem exec_indexEdge {z : Bool} (h : s.dev.indexEdge ch z = d) :
    exec (.indexEdge ⟨ch, z⟩) s = .next { s with dev := d } := by
  subst h
  rfl

theorem exec_sincosQuadrantChange {cosHigh sinHigh : Bool} (h : s.dev.quadrantChange s.banks ch cosHigh sinHigh = d) :
    exec (.sincosQuadrantChange ch cosHigh sinHigh) s = .next { s with dev := d } := by
  subst h
  rfl

theorem exec_sincosSample {sin cos : BitVec 14} (h : s.dev.sincosSample s.banks ch sin cos = d) :
    exec (.sincosSample ch sin cos) s = .next { s with dev := d } := by
  subst h
  rfl

theorem exec_observerUpdate {die : Fin 8} (h : s.dev.observerTick s.banks die ch = d) :
    exec (.observerUpdate die ch) s = .next { s with dev := d } := by
  subst h
  rfl

theorem exec_observerStill {die : Fin 8} (h : s.dev.observerStill s.banks die ch = d) :
    exec (.observerStill die ch) s = .next { s with dev := d } := by
  subst h
  rfl

end

/-- Settles O51: each row by the step that the levels received make, through the equation of its mode. -/
theorem encoderEdgesComplete : Obligations.EncoderEdgesComplete := by
  refine ⟨?quad, fun s ch a b close hon hmode => exec_quadratureEdge (quadEdge_of_other hon hmode a b close), ?stepDir,
    ?upDown, ?index, ?quadrant, ?sample, ?observer⟩
  case quad =>
    intro s ch a b close c step d hon hmode hc hstep hd
    subst hc hd
    have hrow := quadEdge_of_mode (m := s.banks) hon hmode a b close
    simp only [← hstep] at hrow
    refine ⟨fun hcount => exec_quadratureEdge ?_, fun htwo => exec_quadratureEdge ?_, fun hzero => exec_quadratureEdge ?_⟩
    · rw [hrow, if_neg (by omega), if_neg (by omega)]
    · rw [hrow, if_neg (by omega), if_pos htwo]
    · rw [hrow, if_pos hzero]
  case stepDir =>
    intro s ch a b d hon hmode hd
    subst hd
    refine ⟨fun hlevel unstable close => exec_stepDirEdge (stepEdge_of_level hon hmode hlevel unstable close),
      fun ha hwas => ?_⟩
    have hrow := fun unstable close => stepEdge_of_rise (m := s.banks) (b := b) hon hmode ha hwas unstable close
    refine ⟨exec_stepDirEdge (hrow false false), exec_stepDirEdge (hrow false true), exec_stepDirEdge ?_,
      exec_stepDirEdge (hrow true true)⟩
    rw [hrow true false]
    simp [Dev.edgeUnstable]
    rfl
  case upDown =>
    intro s ch a b close c d hon hmode hc hd
    subst hc hd
    have hrow := upDownEdge_of_mode (m := s.banks) hon hmode a b close
    refine ⟨fun ha hwasA hb => exec_upDownEdge ?_, fun hb hwasB ha => exec_upDownEdge ?_,
      fun ha hwasA hb hwasB => exec_upDownEdge ?_, fun ha hb => exec_upDownEdge ?_⟩
    · have hdown : ¬ (b && !(s.dev.hub ch).b) = true := by rcases hb with h | h <;> simp [h]
      rw [hrow]
      simp only [ha, hwasA, if_neg hdown]
      rfl
    · have hup : ¬ (a && !(s.dev.hub ch).a) = true := by rcases ha with h | h <;> simp [h]
      rw [hrow]
      simp only [hb, hwasB, if_neg hup]
      rfl
    · rw [hrow]
      simp only [ha, hwasA, hb, hwasB]
      rfl
    · have hup : ¬ (a && !(s.dev.hub ch).a) = true := by rcases ha with h | h <;> simp [h]
      have hdown : ¬ (b && !(s.dev.hub ch).b) = true := by rcases hb with h | h <;> simp [h]
      rw [hrow]
      simp only [if_neg hup, if_neg hdown]
  case index =>
    exact fun s ch z d hon hd => ⟨fun hz hwas hmode => exec_indexEdge (indexEdge_of_rise hon hd hz hwas hmode),
      fun h => exec_indexEdge (indexEdge_of_level hon hd h)⟩
  case quadrant =>
    intro s ch cosHigh sinHigh q step d hon hmode hq hstep hd
    have hrow := quadrantChange_of_mode (m := s.banks) hon hmode hd
    simp only [← hq, ← hstep] at hrow
    refine ⟨fun hcount => exec_sincosQuadrantChange ?_, fun htwo => exec_sincosQuadrantChange ?_,
      fun hzero => exec_sincosQuadrantChange ?_⟩
    · rw [hrow, if_neg (by omega), if_neg (by omega)]
    · rw [hrow, if_neg (by omega), if_pos htwo]
      rfl
    · rw [hrow, if_pos hzero]
  case sample =>
    intro s ch sin cos g sq out d d2 d3 hon hmode hg hsq hout hd hd2 hd3
    exact exec_sincosSample (sincosSample_of_mode hon hmode hg hsq hout hd hd2 hd3)
  case observer =>
    intro s die ch d hon hdie hmode hhub hfurrow
    exact ⟨exec_observerUpdate (observerTick_of_digital hon hdie hmode hhub hfurrow),
      exec_observerStill (observerStill_of_digital hon hdie hmode)⟩

end Sys2Proof.Laws
end

section
/-! SUPPORT. The control period of a transport axis, what ends its states, and the samples of its bus (R333 to R353). -/

namespace Sys2Proof.Laws

open Machine

/-! ## The control period -/

section
variable {d : Dev} {n : Fin 4} {i v : List (BitVec 12)} {late : Bool} (htax : d.hasTax = true) (hheld : d.sys.held = false)
  (hmode : d.mode ≠ mFallow) (hconf : d.mot.tax[n].configured = true)
include htax hheld hmode hconf

/-- The guard in front of a control period lets a configured axis through. -/
theorem taxPeriod_guard : ¬ (!d.hasTax || d.sys.held || decide (d.mode = mFallow) || !d.mot.tax[n].configured) = true := by
  rw [htax, hheld, hconf, decide_eq_false hmode]
  decide

theorem taxPeriod_of_off (hoff : d.mot.tax[n].on = false) : d.taxPeriod n i v late = d.applyCap n :=
  (if_neg (taxPeriod_guard htax hheld hmode hconf)).trans (if_pos (by rw [hoff]; rfl))

section
variable (hon : d.mot.tax[n].on = true) {d0 d1 : Dev}
  (hlate : d0 = if late then (d.modTax n fun t => { t with late := satInc t.late }).detect (idTaxLate n.val)
    else d.normal (idTaxLate n.val))
  (htake : d1 = (d0.takeSetpoint n).applyCap n)
include hon hlate htake

/-- With its gates held low the axis takes a set-point and does no more (R195). -/
theorem taxPeriod_of_gatesLow (hlow : d.mot.tax[n].state = 0 ∨ d1.mode = mTest) : d.taxPeriod n i v late = d1 := by
  have hstop : (decide (d.mot.tax[n].state = 0) || decide (d1.mode = mTest)) = true := by
    rw [← Bool.decide_or]
    exact decide_eq_true hlow
  subst htake hlate
  exact (if_neg (taxPeriod_guard htax hheld hmode hconf)).trans ((if_neg (by rw [hon]; decide)).trans (if_pos hstop))

variable (hstate : d.mot.tax[n].state ≠ 0) (htest : d1.mode ≠ mTest) {xs : List Rat} {d2 : Dev}
  (hxs : xs = i.map d.mot.tax[n].amps) (hsample : d2 = d1.taxSample n (xs.getD 0 0) (xs.getD 1 0) (xs.getD 2 0))
include hstate htest hxs hsample

/-- A sample that turns the gates off ends the period. -/
theorem taxPeriod_of_overcurrent (hoff : d2.mot.tax[n].state = 0) : d.taxPeriod n i v late = d2 := by
  have hgo : ¬ (decide (d.mot.tax[n].state = 0) || decide (d1.mode = mTest)) = true := by
    rw [decide_eq_false hstate, decide_eq_false htest]
    decide
  subst hsample hxs htake hlate
  exact (if_neg (taxPeriod_guard htax hheld hmode hconf)).trans
    ((if_neg (by rw [hon]; decide)).trans ((if_neg hgo).trans (if_pos hoff)))

/-- The loops run, a late period leaves the duties in force, and the gates follow; a stopping axis that is slow enough, or
under the regeneration limit, turns them off (R334, R351). -/
theorem taxPeriod_of_running (hrun : d2.mot.tax[n].state ≠ 0) {d3 d4 : Dev}
    (hloops : d3 = if late then
        (d2.taxLoops n xs (v.getD 0 0) (v.getD 1 0) (v.getD 2 0)).modTax n fun t => { t with duty := d2.mot.tax[n].duty }
      else d2.taxLoops n xs (v.getD 0 0) (v.getD 1 0) (v.getD 2 0))
    (hgates : d4 = d3.emit (.gates n.val d3.mot.tax[n].gateNs)) : d.taxPeriod n i v late =
      if d3.mot.tax[n].stopping && (d3.mot.bus.regenLimit || (d3.mot.tax[n].low3 d3.mot.tax[n].speed
        && (d3.mot.tax[n].state = 1 || d3.mot.tax[n].state = 2))) then d4.taxDisable n else d4 := by
  have hgo : ¬ (decide (d.mot.tax[n].state = 0) || decide (d1.mode = mTest)) = true := by
    rw [decide_eq_false hstate, decide_eq_false htest]
    decide
  subst hgates hloops hsample hxs htake hlate
  exact (if_neg (taxPeriod_guard htax hheld hmode hconf)).trans
    ((if_neg (by rw [hon]; decide)).trans ((if_neg hgo).trans (if_neg hrun)))

end

end

/-! ## What ends a state -/

section
variable {d : Dev} {n : Fin 4}

theorem rotorLoss_of_lost (hstate : d.mot.tax[n].state = 2) (hsrc : d.mot.tax[n].angleSrc = 0)
    (hlost : d.mot.tax[n].residHigh = true ∨ d.mot.tax[n].emf < twoPi * |d.mot.tax[n].w| * d.mot.tax[n].psiWb / 2) :
    d.rotorLoss n = if d.mot.tax[n].coast then (d.taxEvent n 1).modTax n fun t => { t.gatesOff with state := 4 }
      else (d.taxEvent n 1).modTax n fun t => t.recatchFrom (d.taxEvent n 1).sys.now (d.taxEvent n 1).sys.now false := by
  have hlossy : d.mot.tax[n].lossy = true := by
    rw [Tax.lossy, Bool.or_eq_true, decide_eq_true_eq]
    exact hlost
  have hgo : ¬ (decide (d.mot.tax[n].state ≠ 2) || decide (d.mot.tax[n].angleSrc ≠ 0) || !d.mot.tax[n].lossy) = true := by
    rw [hstate, hsrc, hlossy]
    decide
  exact if_neg hgo

theorem taxLost_of_recatch (hstate : d.mot.tax[n].state = 3) :
    d.taxLost n = (d.modTax n Tax.gatesOff).detect (idTaxLost n.val) := if_pos hstate

theorem taxLost_of_holding (hstate : d.mot.tax[n].state = 1) (haligned : d.mot.tax[n].aligning = false)
    (hsrc : d.mot.tax[n].angleSrc = 0)
    (hfreq : |d.mot.tax[n].olFreq| = (4 * d.mot.tax[n].ratedRpm : Nat) / (100 : Rat)) :
    d.taxLost n = d.detect (idTaxLost n.val) := by
  have hholding : d.mot.tax[n].holding = true := by
    rw [Tax.holding, hstate, haligned, hsrc, decide_eq_true hfreq]
    rfl
  exact (if_neg (by rw [hstate]; decide)).trans (if_pos hholding)

theorem alignDone_of_aligning (h : 1 ≤ d.mot.tax[n].angleSrc ∧ d.mot.tax[n].angleSrc ≤ 4)
    (haligning : d.mot.tax[n].aligning = true) {c : EncCopy} (hc : c = d.pos.enc[d.mot.tax[n].angleSrc - 1].copies[0]) :
    d.alignDone n = d.modTax n fun t =>
      { t with aligning := false, zero := c.count, state := 2, integ := 0, speed := t.encRpm c, ref := t.encRpm c } := by
  subst hc
  exact (dif_pos h).trans (if_pos haligning)

theorem targetReached_of_near {t : Tax} (ht : t = d.mot.tax[n]) (hstate : t.state = 2 ∨ (t.state = 1 ∧ t.aligning = false))
    (hramp : t.ref = t.capped) (hnear : |t.speed - t.ref| ≤ (t.ratedRpm : Rat) / 100) :
    d.targetReached n = d.taxEvent n 0 := by
  have hdriven : (decide (t.state = 2) || (decide (t.state = 1) && !t.aligning)) = true := by
    rcases hstate with h | ⟨h, haligned⟩
    · rw [h]
      rfl
    · rw [h, haligned]
      rfl
  have hreached : ((decide (t.state = 2) || (decide (t.state = 1) && !t.aligning)) && decide (t.ref = t.capped)
      && decide (|t.speed - t.ref| ≤ (t.ratedRpm : Rat) / 100)) = true := by
    rw [hdriven, decide_eq_true hramp, decide_eq_true hnear]
    rfl
  subst ht
  exact if_pos hreached

end

/-! ## The bus -/

section
variable {d : Dev} {code brake : BitVec 12} (htax : d.hasTax = true) (hheld : d.sys.held = false)
  (hmode : d.mode ≠ mFallow)
include htax hheld hmode

theorem busSample_guard : ¬ (!d.hasTax || d.sys.held || decide (d.mode = mFallow)) = true := by
  rw [htax, hheld, decide_eq_false hmode]
  decide

theorem busSample_of_present : d.busSample code brake =
    if d.mot.bus.configured then
      let e := ((d.modBus fun b => b.sample code brake).chopper).overvoltage
      if e.mot.bus.regenLimit then (fins 4).foldl (fun d n => if d.mot.tax[n].stopping then d.taxDisable n else d) e
      else e
    else d.modBus fun b => { b with code := code } := by
  refine (if_neg (busSample_guard htax hheld hmode)).trans ?_
  cases d.mot.bus.configured <;> rfl

end

/-! ## The rows -/

section
variable {s : State} {d : Dev} {n : Fin 4}

theorem exec_taxControlPeriod {iu iv iw vu vv vw : BitVec 12} {late : Bool}
    (h : s.dev.taxPeriod n [iu, iv, iw] [vu, vv, vw] late = d) :
    exec (.taxControlPeriod n iu iv iw vu vv vw late) s = .next { s with dev := d } := by
  subst h
  rfl

theorem exec_rotorLoss (h : s.dev.rotorLoss n = d) : exec (.rotorLoss n) s = .next { s with dev := d } := by
  subst h
  rfl

theorem exec_taxLost (h : s.dev.taxLost n = d) : exec (.taxLost n) s = .next { s with dev := d } := by
  subst h
  rfl

theorem exec_encoderAlignDone (h : s.dev.alignDone n = d) : exec (.encoderAlignDone n) s = .next { s with dev := d } := by
  subst h
  rfl

theorem exec_targetSpeedReached (h : s.dev.targetReached n = d) :
    exec (.targetSpeedReached n) s = .next { s with dev := d } := by
  subst h
  rfl

theorem exec_activeShortCircuitEnd (h : s.dev.mot.tax[n].state = 5) :
    exec (.activeShortCircuitEnd n) s = .next { s with dev := s.dev.taxDisable n } := by
  unfold exec execActiveShortCircuitEnd
  exact onDev_of_eq (if_pos h)

theorem exec_busSample {code brake : BitVec 12} (h : s.dev.busSample code brake = d) :
    exec (.busSample code brake) s = .next { s with dev := d } := by
  subst h
  rfl

end

/-- Settles O54: a control period by the point at which it ends, every other row by its condition. -/
theorem transportRowsComplete : Obligations.TransportRowsComplete := by
  refine ⟨?period, ?off, ?rotor, fun s n h => exec_taxLost (taxLost_of_recatch h), ?hold, ?aligned, ?target,
    fun s n h => exec_activeShortCircuitEnd h, ?bus⟩
  case period =>
    intro s n iu iv iw vu vv vw late d0 d d2 d3 d4 xs htax hheld hmode hon hconf hlate htake hxs hsample hloops
    refine ⟨fun hlow => exec_taxControlPeriod ?_, fun hstate htest hoff => exec_taxControlPeriod ?_,
      fun hstate htest hrun hgates => exec_taxControlPeriod ?_⟩
    · exact taxPeriod_of_gatesLow htax hheld hmode hconf hon hlate htake hlow
    · exact taxPeriod_of_overcurrent htax hheld hmode hconf hon hlate htake hstate htest hxs hsample hoff
    · exact taxPeriod_of_running htax hheld hmode hconf hon hlate htake hstate htest hxs hsample hrun hloops hgates
  case off =>
    exact fun s n iu iv iw vu vv vw late htax hheld hmode hoff hconf =>
      exec_taxControlPeriod (taxPeriod_of_off htax hheld hmode hconf hoff)
  case rotor => exact fun s n hstate hsrc hlost => exec_rotorLoss (rotorLoss_of_lost hstate hsrc hlost)
  case hold =>
    exact fun s n hstate haligned hsrc hfreq => exec_taxLost (taxLost_of_holding hstate haligned hsrc hfreq)
  case aligned => exact fun s n c h haligning hc => exec_encoderAlignDone (alignDone_of_aligning h haligning hc)
  case target =>
    exact fun s n t ht hstate hramp hnear => exec_targetSpeedReached (targetReached_of_near ht hstate hramp hnear)
  case bus =>
    intro s code brake d htax hheld hmode hd
    subst hd
    exact exec_busSample (busSample_of_present htax hheld hmode)

end Sys2Proof.Laws
end

section
/-! SUPPORT. The control period of an auxiliary axis, its idle current and the switches (R355 to R374). -/

namespace Sys2Proof.Laws

open Machine

section
variable {d : Dev} {n : Fin 8} {ia ib : BitVec 12} (haux : d.hasAux = true) (hheld : d.sys.held = false)
  (hmode : d.mode ≠ mFallow)
include haux hheld hmode

theorem auxPeriod_guard : ¬ (!d.hasAux || d.sys.held || decide (d.mode = mFallow)) = true := by
  rw [haux, hheld, decide_eq_false hmode]
  decide

theorem auxPeriod_of_dead (hdead : d.mot.aux[n].live = false) : d.auxPeriod n ia ib = d.dropAux n :=
  (if_neg (auxPeriod_guard haux hheld hmode)).trans (if_pos (by rw [hdead]; rfl))

/-- With its currents within the limit an axis takes a set-point, advances, ends its full step and drives its windings. -/
theorem auxPeriod_of_live {a : Aux} {e e2 : Dev} (ha : a = d.mot.aux[n]) (hlive : a.live = true)
    (hia : |a.amps ia| ≤ a.irunMa.toNat * 125 / 100000) (hib : |a.amps ib| ≤ a.irunMa.toNat * 125 / 100000)
    (he : e = (d.auxTake n).auxAdvance n) (hgoes : e.mot.aux[n].live = true) (he2 : e2 = e.fullStep n a.pos)
    (hends : e2.mot.aux[n].live = true) :
    d.auxPeriod n ia ib = e2.modAux n fun b => b.wind e2.mot.vAux (a.amps ia) (a.amps ib) := by
  have hover : ¬ (decide ((a.irunMa.toNat * 125 / 100000 : Rat) < |a.amps ia|)
      || decide ((a.irunMa.toNat * 125 / 100000 : Rat) < |a.amps ib|)) = true := by
    rw [decide_eq_false (not_lt.mpr hia), decide_eq_false (not_lt.mpr hib)]
    decide
  have hdead : ∀ {x : Dev}, x.mot.aux[n].live = true → ¬ (!x.mot.aux[n].live) = true := fun h => by
    rw [h]
    decide
  subst ha
  unfold Dev.auxPeriod
  rw [if_neg (auxPeriod_guard haux hheld hmode), if_neg (hdead hlive)]
  extract_lets iA iB lim d1 old d2 d3
  have hfirst : d1 = d := if_neg hover
  have hsecond : d2 = e := by
    rw [he, ← hfirst]
  have hthird : d3 = e2 := by
    rw [he2, ← hsecond]
  rw [if_neg (hdead (hfirst ▸ hlive)), if_neg (hdead (hsecond ▸ hgoes)), if_neg (hdead (hthird ▸ hends)), hthird]

end

theorem idleCurrent_of_still {d : Dev} {n : Fin 8} (hlive : d.mot.aux[n].live = true) (hspeed : d.mot.aux[n].speed = 0)
    (hmoving : d.mot.aux[n].moving = false) : d.idleCurrent n = d.modAux n fun a => { a with idle := true } := by
  have hstill : (d.mot.aux[n].live && decide (d.mot.aux[n].speed = 0) && !d.mot.aux[n].moving) = true := by
    rw [hlive, decide_eq_true hspeed, hmoving]
    rfl
  have haxis : (if d.mot.aux[n].live && decide (d.mot.aux[n].speed = 0) && !d.mot.aux[n].moving
      then { d.mot.aux[n] with idle := true } else d.mot.aux[n]) = { d.mot.aux[n] with idle := true } := if_pos hstill
  exact congrArg (fun x => { d with mot := { d.mot with aux := d.mot.aux.set n x } }) haxis

theorem switchRead_of_running {d e : Dev} {levels : BitVec 16} {toggled : List Nat} (hheld : d.sys.held = false)
    (hmode : d.mode ≠ mFallow)
    (htoggled : toggled = (List.range 16).filter (fun i =>
      d.mot.switches.toList[i]?.any fun (w : Switch) => w.raw != levels.getLsbD i))
    (he : e = d.modMot (fun m => { m with
      switches := vallIdx (fun i w => w.read (levels.getLsbD i) (d.mot.swPol.getLsbD i)) m.switches
      switchEdge := vallIdx (fun i x => if toggled.contains i
        then d.mot.aux.toList.map (fun (a : Aux) => a.pos) else x) m.switchEdge })) :
    d.switchRead levels = (fins 8).foldl (fun d n => d.homeSwitches n toggled) e := by
  have hgo : ¬ (d.sys.held || decide (d.mode = mFallow)) = true := by
    rw [hheld, decide_eq_false hmode]
    decide
  subst he htoggled
  exact if_neg hgo

/-! ## The rows -/

section
variable {s : State} {d : Dev}

theorem exec_auxControlPeriod {n : Fin 8} {ia ib : BitVec 12} (h : s.dev.auxPeriod n ia ib = d) :
    exec (.auxControlPeriod n ia ib) s = .next { s with dev := d } := by
  subst h
  rfl

theorem exec_idleCurrent {n : Fin 8} (h : s.dev.idleCurrent n = d) :
    exec (.idleCurrent n) s = .next { s with dev := d } := by
  subst h
  rfl

theorem exec_switchRead {levels : BitVec 16} (h : s.dev.switchRead levels = d) :
    exec (.switchRead levels) s = .next { s with dev := d } := by
  subst h
  rfl

end

/-- Settles O56: a control period that no check cuts short is the composition of its parts. -/
theorem auxiliaryRowsComplete : Obligations.AuxiliaryRowsComplete := by
  refine ⟨?live, fun s n hlive hspeed hmoving => exec_idleCurrent (idleCurrent_of_still hlive hspeed hmoving), ?dead, ?switches⟩
  case live =>
    intro s n ia ib a d d2 haux hheld hmode ha hlive hia hib hd hgoes hd2 hends
    exact exec_auxControlPeriod (auxPeriod_of_live haux hheld hmode ha hlive hia hib hd hgoes hd2 hends)
  case dead =>
    exact fun s n ia ib haux hheld hmode hdead => exec_auxControlPeriod (auxPeriod_of_dead haux hheld hmode hdead)
  case switches =>
    exact fun s levels toggled d hheld hmode htoggled hd =>
      exec_switchRead (switchRead_of_running hheld hmode htoggled hd)

end Sys2Proof.Laws
end
